-- ==== Sys2Proof/Word.lean ====
section
/-!
DEFINITION. The byte and word of the station's wire formats (spec/12, Chapter 12), and fixed-size tables of like things.
-/

namespace Sys2Proof

/-- One byte on the station bus or the local port (spec/12, R203). -/
abbrev Byte := BitVec 8

/-- A two-byte quantity that wraps or travels whole: the round number (R2) and the plan generation (R185). -/
abbrev Word := BitVec 16

/-- The more significant byte of a word, sent first (R203). -/
def hiByte (w : Word) : Byte := w.extractLsb' 8 8

/-- The less significant byte of a word, sent second (R203). -/
def loByte (w : Word) : Byte := w.extractLsb' 0 8

/-- The word that two bytes spell, most significant byte first (R203). -/
def wordOf (hi lo : Byte) : Word := hi ++ lo

/-- A number as one byte. -/
def byteOf (n : Nat) : Byte := BitVec.ofNat 8 n

/-- A yes-no value as a byte: 1 when set, true or yes, and 0 otherwise (R204). -/
def boolByte (b : Bool) : Byte := if b then 1 else 0

/-- Entry `i` of a table of `n` like things, `d` where the table has no entry `i`. -/
def look {α : Type} {n : Nat} (v : Vector α n) (d : α) (i : Nat) : α := v.toList.getD i d

/-- The table with entry `i` replaced; a table has no entry beyond its size, so such a write changes nothing. -/
def put {α : Type} {n : Nat} (v : Vector α n) (i : Nat) (x : α) : Vector α n :=
  ⟨⟨v.toList.set i x⟩, by simp⟩

end Sys2Proof
end

