-- ==== Sys2Proof/Syntax.lean ====
section
/-!
DEFINITION. The commands of the KW12 (one constructor per row of spec/opcode_table.json) and the data they carry:
the messages, the status record and the plan entry of spec/12.
-/

namespace Sys2Proof

/-- Claim kinds (spec/00, Table 0-5). -/
inductive ClaimKind
  | draw | transfer | inflow
  deriving DecidableEq, Repr

/-- Stages of a claim (Table 5-1). -/
inductive ClaimState
  | pathing | asking | flowing | closing
  deriving DecidableEq, Repr

/-- Window states of a measurement channel (Table 3-1). -/
inductive WindowState
  | initial | below | inside | above | fault
  deriving DecidableEq, Repr

/-- Fill states of a tank (R122). -/
inductive FillState
  | idle | filling | waiting
  deriving DecidableEq, Repr

/-- Segment states (Table 7-1). -/
inductive SegState
  | free | held | fault
  deriving DecidableEq, Repr

/-- Train states (Table 8-1). -/
inductive TrainState
  | stopped | priming | pending | ramping | settling | diverting | producing | stopping | fault
  deriving DecidableEq, Repr

/-- Reasons of HOLD-REFUSED (R89, Table 12-5). -/
inductive HoldReason
  | noSegment | queueFull | segmentOut
  deriving DecidableEq, Repr

/-- Reasons of REFUSE (R89, Table 12-5). -/
inductive RefuseReason
  | noTank | notReady | never | queueFull
  deriving DecidableEq, Repr

/-- Reasons of END: the end reasons of Table 5-3, and LATE (R101). -/
inductive EndReason
  | done | revoked | interlock | valve | stalled | segmentFault | ownerLost | overflow
  | stopped | supply | timeout | failed | late
  deriving DecidableEq, Repr

/-- The two plan banks (R180). -/
inductive Bank
  | a | b
  deriving DecidableEq, Repr

/-- A tank named by station and index; station 0 means none (spec/00, Identities). -/
structure TankId where
  station : Nat
  index : Nat
  deriving DecidableEq, Repr

/-- A manifold segment named by station and index (spec/00, Identities). -/
structure SegId where
  station : Nat
  index : Nat
  deriving DecidableEq, Repr

/-- A claim id: claimant address, claimant incarnation and sequence (Table 0-3). -/
structure ClaimId where
  address : Nat
  incarnation : Nat
  sequence : Nat
  deriving DecidableEq, Repr

/-- One number for each of the five classes. -/
structure PerClass where
  c1 : Nat
  c2 : Nat
  c3 : Nat
  c4 : Nat
  c5 : Nat
  deriving DecidableEq, Repr

/-- The fields of a message after its destination and code (Table 12-4). -/
inductive MsgBody
  | holdReq (seq index cls : Nat)
  | holdGiven (seq index : Nat)
  | holdRefused (seq index : Nat) (reason : HoldReason)
  | holdFree (seq index : Nat)
  | claim (seq : Nat) (kind : ClaimKind) (tank cls volume : Nat)
  | grant (seq volume : Nat)
  | refuse (seq : Nat) (reason : RefuseReason)
  | cancel (seq : Nat)
  | revoke (seq : Nat)
  | endMsg (seq delivered : Nat) (reason : EndReason)
  deriving DecidableEq, Repr

/-- A message with its destination address (Table 12-4). -/
structure Message where
  dest : Nat
  body : MsgBody
  deriving DecidableEq, Repr

/-- A tank item of the status record (R37). -/
structure TankItem where
  index : Nat
  capacity : Nat
  level : Nat
  window : WindowState
  available : PerClass
  headroom : Nat
  fill : FillState
  deriving DecidableEq, Repr

/-- The train group of the status record (R38). -/
structure TrainGroup where
  state : TrainState
  rate : Nat
  dest : TankId
  quality : WindowState
  unflushed : Bool
  pending : Bool
  deriving DecidableEq, Repr

/-- A segment's published state: the holder's claim id is given when and only when it is HELD (R37). -/
inductive SegStatus
  | free
  | held (holder : ClaimId)
  | fault
  deriving DecidableEq, Repr

/-- A segment item of the status record (R37). -/
structure SegItem where
  index : Nat
  status : SegStatus
  deriving DecidableEq, Repr

/-- A claim's published state: the delivered litres are given in FLOWING and CLOSING only (R38). -/
inductive ClaimStatus
  | pathing
  | asking
  | flowing (delivered : Nat)
  | closing (delivered : Nat)
  deriving DecidableEq, Repr

/-- A claim item of the status record (R38). -/
structure ClaimItem where
  sequence : Nat
  kind : ClaimKind
  status : ClaimStatus
  cls : Nat
  tank : TankId
  deriving DecidableEq, Repr

/-- The status record (Table 2-4). -/
structure StatusRecord where
  bank : Bank
  generation : Word
  flags : Byte
  tanks : List TankItem
  train : Option TrainGroup
  segments : List SegItem
  claims : List ClaimItem
  deriving DecidableEq, Repr

/-- One tank's entry of a plan bank (Table 10-1). -/
structure PlanEntry where
  floor : PerClass
  low : Nat
  high : Nat
  hysteresis : Nat
  fillTarget : Nat
  topMargin : Nat
  deriving DecidableEq, Repr

/-- The commands of the station: its operations and events, one constructor per row of spec/opcode_table.json.
A command that a rule says reads a pin carries the level of that pin at its instant (assumption log 5).
Times are milliseconds since the last round boundary (assumption log 4). -/
inductive Instr
  /-- POWER_ON (R198). `straps` is ADDR[4:0] as sampled. -/
  | powerOn (straps : BitVec 5)
  /-- RESET_FALL (R198). -/
  | resetFall
  /-- RESET_RISE (R198). `straps` is ADDR[4:0], sampled if the reset was cold. -/
  | resetRise (straps : BitVec 5)
  /-- COLD_RESET (R198): RESET is still low 200 ms after it fell. -/
  | coldReset
  /-- SUPPLY_LOW_ASSERTED (R200). `trainFirst`: of the two stops of R162, the train's is taken first. -/
  | supplyLowAsserted (trainFirst : Bool)
  /-- SUPPLY_LOW_RELEASED (R201). -/
  | supplyLowReleased
  /-- SUPPLY_GRACE_EXPIRY (R201). -/
  | supplyGraceExpiry
  /-- OWN_SLOT_START (R4). `sampleFirst`: at an own slot that starts at the instant its round's boundary is
  recognised (station 1 after a timer boundary, R187), the record is sampled before that boundary's events. -/
  | ownSlotStart (sampleFirst : Bool)
  /-- MARK_SEND (R15): an expected boundary at the mark holder. -/
  | markSend
  /-- READBACK_MISMATCH (R1). -/
  | readbackMismatch
  /-- OWN_FRAME_GOOD (R7). -/
  | ownFrameGood
  /-- VALID_MARK (R3). The bytes of the MARK, its first bit `ms` milliseconds after the last boundary. -/
  | validMark (frame : List Byte) (ms : Nat) (permit : Bool)
  /-- LOCAL_ROUND_TIMER (R3). -/
  | localRoundTimer (permit : Bool)
  /-- STATION_FRAME_RECEIVED (R6). The bytes heard, with the times of the first and the last bit. -/
  | stationFrameReceived (frame : List Byte) (firstMs lastMs : Nat)
  /-- STATUS_RECORD (R32). A record from `src`, with the incarnation and round of its frame's header. -/
  | statusRecord (src inc : Nat) (round : Word) (record : StatusRecord)
  /-- HOLD_REQ (R130). -/
  | holdReq (src inc seq index cls : Nat)
  /-- HOLD_FREE (R133). -/
  | holdFree (src inc seq index : Nat)
  /-- HOLD_GIVEN (R85). -/
  | holdGiven (src seq index : Nat)
  /-- HOLD_REFUSED (R89). -/
  | holdRefused (src seq index : Nat) (reason : HoldReason)
  /-- CLAIM (R107). -/
  | claim (src inc seq : Nat) (kind : ClaimKind) (tank cls volume : Nat)
  /-- GRANT (R88). -/
  | grant (src seq volume : Nat)
  /-- REFUSE (R89). -/
  | refuse (src seq : Nat) (reason : RefuseReason)
  /-- REVOKE (R96). -/
  | revoke (src seq : Nat)
  /-- CANCEL (R112). -/
  | cancel (src inc seq : Nat)
  /-- END (R111). -/
  | endMsg (src inc seq delivered : Nat) (reason : EndReason)
  /-- SAMPLE_CLOCK_TICK (R41). The three converter samples at this tick. -/
  | sampleClockTick (level0 level1 quality : Nat)
  /-- LEVEL_READING_COMPLETE (R50). -/
  | levelReadingComplete (tank : Nat)
  /-- QUALITY_READING_COMPLETE (R54). -/
  | qualityReadingComplete
  /-- GROUP_SAMPLE (R58). Bit `r` of `returns` is 1 while the contact on return `r` is closed. `scanFirst`: when this
  sampling completes the full scan, *scan complete* is taken before the contact changes of this sampling (R68, R169). -/
  | groupSample (returns : Byte) (permit : Bool) (scanFirst : Bool)
  /-- ALARM_REPEAT (R62). -/
  | alarmRepeat (contact : Nat)
  /-- TRAVEL_TIME_END (R68). -/
  | travelTimeEnd (actuator : Nat)
  /-- TRAVEL_STUCK (R68). -/
  | travelStuck (actuator : Nat)
  /-- METER_PULSE (R92). -/
  | meterPulse (input : Nat)
  /-- REQUEST_REPEAT (R86). -/
  | requestRepeat (seq : Nat)
  /-- TIMEOUT (R90). -/
  | timeout (seq : Nat)
  /-- STALLED (R93). -/
  | stalled (seq : Nat)
  /-- FILL_RETRY_EXPIRY (R123). -/
  | fillRetryExpiry (tank : Nat)
  /-- NO_FEED_TIMEOUT (R147). -/
  | noFeedTimeout
  /-- BUDGET_TEST (R148). -/
  | budgetTest
  /-- RAMP_COMPLETE (R149). -/
  | rampComplete
  /-- HIGHPRESS_HOLD_TIMEOUT (R149). -/
  | highpressHoldTimeout
  /-- SETTLE_COMPLETE (R150). -/
  | settleComplete
  /-- SETTLE_LIMIT (R150). -/
  | settleLimit
  /-- MARGINAL_TIMEOUT (R156). -/
  | marginalTimeout
  /-- DIVERSION_LIMIT (R157). -/
  | diversionLimit
  /-- GOOD_QUALITY_RESUME (R157). -/
  | goodQualityResume
  /-- SENSOR_TIMEOUT (R158). -/
  | sensorTimeout
  /-- PERMIT_TIMEOUT (R159). -/
  | permitTimeout
  /-- RETRY_WAIT_END (R154). -/
  | retryWaitEnd
  /-- RATE_PERIOD_END (R155). -/
  | ratePeriodEnd
  /-- PLAN_EXCHANGE (R185). -/
  | planExchange
  /-- SEL_FALL (R189). -/
  | selFall
  /-- SEL_RISE (R189). -/
  | selRise
  /-- BAD_REQUEST (R190): a request of an unknown code or a wrong length is taken. -/
  | badRequest
  /-- SETUP_WRITE (R195): item code, instance byte and content bytes as sent. -/
  | setupWrite (item inst : Byte) (content : List Byte)
  /-- RUN (R196). -/
  | run
  /-- STATUS (R191). -/
  | status
  /-- RESTART (R199). -/
  | restart
  /-- DRAW (R79). -/
  | draw (port : Nat) (tank : TankId) (cls volume wait : Nat) (path : List SegId)
  /-- FILL (R79). -/
  | fill (tank : Nat) (source : TankId) (volume : Nat) (path : List SegId)
  /-- STOP_CLAIM (R91). -/
  | stopClaim (seq : Nat)
  /-- TRAIN_START (R146). -/
  | trainStart (permit : Bool)
  /-- TRAIN_STOP (R146). -/
  | trainStop
  /-- TRAIN_CLEAR (R146). -/
  | trainClear
  /-- PLAN_WRITE (R182). -/
  | planWrite (tank : Nat) (entry : PlanEntry)
  /-- PLAN_READ (R181). -/
  | planRead (bank : Bank) (tank : Nat)
  /-- PLAN_SWAP (R183). -/
  | planSwap
  /-- NWT_READ (R191). -/
  | nwtRead (address : Nat)
  /-- CLAIM_READ (R191). -/
  | claimRead
  /-- GRANT_READ (R103). -/
  | grantRead (tank : Nat)
  /-- REPORT_TAKE (R194). -/
  | reportTake
  /-- REPORT_TAKE_COMPLETE (R194). -/
  | reportTakeComplete
  /-- ATTN_MASK (R194). -/
  | attnMask (mask : Byte)
  /-- PORT_BYTE_CLOCKED (R189): one byte on SDI; a request it completes reads PERMIT at `permit`. -/
  | portByteClocked (sdi : Byte) (permit : Bool)
  deriving DecidableEq, Repr

end Sys2Proof
end

