-- ==== Sys2Proof/WellFormed.lean ====
section
/-!
DEFINITION. Which commands, messages and records are well formed: every number in the width its layout gives it (Chapter 12), every
list within its limit, every index in the range of the thing it names. The station's meanings are total; they do not need this.
-/

namespace Sys2Proof

/-- A number in one byte. -/
def inByte (n : Nat) : Bool := decide (n < 256)

/-- A number in two bytes. -/
def inWord (n : Nat) : Bool := decide (n < 65536)

/-- Five numbers in two bytes each. -/
def PerClass.wf (p : PerClass) : Bool := inWord p.c1 && inWord p.c2 && inWord p.c3 && inWord p.c4 && inWord p.c5

/-- A tank id in two bytes (section 12.1). -/
def TankId.wf (t : TankId) : Bool := inByte t.station && inByte t.index

/-- A segment id in two bytes (section 12.1). -/
def SegId.wf (g : SegId) : Bool := inByte g.station && inByte g.index

/-- A claim id in three bytes (Table 12-3). -/
def ClaimId.wf (i : ClaimId) : Bool := inByte i.address && inByte i.incarnation && inByte i.sequence

/-- The fields of a message (Table 12-4). -/
def MsgBody.wf : MsgBody → Bool
  | .holdReq q i c => inByte q && inByte i && inByte c
  | .holdGiven q i => inByte q && inByte i
  | .holdRefused q i _ => inByte q && inByte i
  | .holdFree q i => inByte q && inByte i
  | .claim q _ t c v => inByte q && inByte t && inByte c && inWord v
  | .grant q v => inByte q && inWord v
  | .refuse q _ => inByte q
  | .cancel q => inByte q
  | .revoke q => inByte q
  | .endMsg q d _ => inByte q && inWord d

/-- A message (Table 12-4). -/
def Message.wf (m : Message) : Bool := inByte m.dest && m.body.wf

/-- A tank item (Table 12-3). -/
def TankItem.wf (i : TankItem) : Bool :=
  inByte i.index && inWord i.capacity && inWord i.level && i.available.wf && inWord i.headroom

/-- The train group (Table 12-3). -/
def TrainGroup.wf (g : TrainGroup) : Bool := inWord g.rate && g.dest.wf

/-- A segment item (Table 12-3). -/
def SegItem.wf (i : SegItem) : Bool :=
  inByte i.index &&
    match i.status with
    | .held h => h.wf
    | _ => true

/-- A claim item (Table 12-3). -/
def ClaimItem.wf (i : ClaimItem) : Bool :=
  inByte i.sequence && inByte i.cls && i.tank.wf &&
    match i.status with
    | .flowing d => inWord d
    | .closing d => inWord d
    | _ => true

/-- A status record (Table 12-3): at most 2 tanks, 4 segments and 8 claims. -/
def StatusRecord.wf (r : StatusRecord) : Bool :=
  decide (r.tanks.length ≤ 2) && r.tanks.all TankItem.wf && (r.train.all TrainGroup.wf) &&
    decide (r.segments.length ≤ 4) && r.segments.all SegItem.wf && decide (r.claims.length ≤ 8) && r.claims.all ClaimItem.wf

/-- A plan entry (Table 10-1). -/
def PlanEntry.wf (p : PlanEntry) : Bool :=
  p.floor.wf && inWord p.low && inWord p.high && inWord p.hysteresis && inWord p.fillTarget && inWord p.topMargin

/-- A path of a request: at most four segments (Table 12-6). -/
def wfPath (p : List SegId) : Bool := decide (p.length ≤ 4) && p.all SegId.wf

/-- A peer whose message or record is handed on: address 1..24 (R5), incarnation in one byte. -/
def wfPeer (src inc : Nat) : Bool := decide (1 ≤ src ∧ src ≤ 24) && inByte inc

/-- A command with every operand in its range. -/
def Instr.wf : Instr → Bool
  | .statusRecord src inc _ r => wfPeer src inc && r.wf
  | .holdReq src inc q i c => wfPeer src inc && (MsgBody.holdReq q i c).wf
  | .holdFree src inc q i => wfPeer src inc && (MsgBody.holdFree q i).wf
  | .holdGiven src q i => wfPeer src 0 && (MsgBody.holdGiven q i).wf
  | .holdRefused src q i r => wfPeer src 0 && (MsgBody.holdRefused q i r).wf
  | .claim src inc q k t c v => wfPeer src inc && (MsgBody.claim q k t c v).wf
  | .grant src q v => wfPeer src 0 && (MsgBody.grant q v).wf
  | .refuse src q r => wfPeer src 0 && (MsgBody.refuse q r).wf
  | .revoke src q => wfPeer src 0 && (MsgBody.revoke q).wf
  | .cancel src inc q => wfPeer src inc && (MsgBody.cancel q).wf
  | .endMsg src inc q d r => wfPeer src inc && (MsgBody.endMsg q d r).wf
  | .stationFrameReceived _ first last => decide (first ≤ last)
  | .sampleClockTick a b q => decide (a ≤ 4095 ∧ b ≤ 4095 ∧ q ≤ 4095)
  | .levelReadingComplete t => decide (t ≤ 1)
  | .alarmRepeat c => decide (c ≤ 31)
  | .travelTimeEnd a => decide (a ≤ 11)
  | .travelStuck a => decide (a ≤ 11)
  | .meterPulse m => decide (m ≤ 4)
  | .requestRepeat q => inByte q
  | .timeout q => inByte q
  | .stalled q => inByte q
  | .fillRetryExpiry t => decide (t ≤ 1)
  | .setupWrite _ _ c => decide (c.length ≤ 253)
  | .draw p t c v w g => inByte p && t.wf && inByte c && inWord v && inWord w && wfPath g
  | .fill t src v g => inByte t && src.wf && inWord v && wfPath g
  | .stopClaim q => inByte q
  | .planWrite t e => inByte t && e.wf
  | .planRead _ t => inByte t
  | .nwtRead a => inByte a
  | .grantRead t => inByte t
  | _ => true

end Sys2Proof
end

