-- ==== Sys2Proof/Config.lean ====
section
/-!
DEFINITION. What the spec leaves open and no setup item gives.
-/

namespace Sys2Proof.Config

/-- The two bytes in which a response gives a value above 65535 (a committed total of GRANT-READ, up to 524280 L by
Table 6-1, or the product count of STATUS, in the two bytes R204 gives a volume). The spec states no result there: a free value, of which nothing can be
proved (assumption log 14, DESIGN CHOICE). -/
opaque wideField : Nat → Word

end Sys2Proof.Config
end

