-- ==== Sys2Proof/Machine/State.lean ====
section
/-!
DEFINITION. The state of the station, block by block (spec/00, Table 0-1), as plain data, and its value at reset.
-/

namespace Sys2Proof.Machine

/-! ## Setup (Table 11-2) -/

/-- STATION: the number P of trains allowed, and the default wait limit. -/
structure StationItem where
  p : Nat
  wait : Nat
  deriving DecidableEq, Repr

/-- TANK: capacity in litres, and the pulse weight in decilitres of its fill inlet's meter. -/
structure TankSetup where
  capacity : Nat
  weight : Nat
  deriving DecidableEq, Repr

/-- A tank id with the path to it: a destination or a fill source. -/
structure Source where
  tank : TankId
  path : List SegId
  deriving DecidableEq, Repr

/-- TRAIN (spec/08, section 8.1). -/
structure TrainSetup where
  flushTank : TankId
  flushPath : List SegId
  flushVolume : Nat
  inflowClass : Nat
  weight : Nat
  deriving DecidableEq, Repr

/-- Actuator roles (Table 4-4). -/
inductive Role
  | fill (t : Nat) | outlet (p : Nat) | segment (i : Nat) | feed | highpress | divert | flush
  deriving DecidableEq, Repr

/-- Actuator kinds (Table 4-4). -/
inductive Kind
  | valve | pump
  deriving DecidableEq, Repr

/-- ACTUATOR: kind, role, travel time in steps of 0.1 s, and the permissive cell. -/
structure ActuatorSetup where
  kind : Kind
  role : Role
  travel : Nat
  permissive : Option Nat
  deriving DecidableEq, Repr

/-- Contact roles (Table 4-3). -/
inductive ContactRole
  | none | openLimit (a : Nat) | closedLimit (a : Nat) | feedOk | overflow (t : Nat) | leak | general
  deriving DecidableEq, Repr

/-- One contact of CONTACT-MAP: role, sense and alarm flag (Table 4-1). -/
structure ContactSetup where
  role : ContactRole
  inverted : Bool
  alarm : Bool
  deriving DecidableEq, Repr

/-- Input sources of an interlock cell (Table 9-2). A TRAIN source holds its set, bit `s` for train state code `s`. -/
inductive Input
  | mask | feedback | link | contact (c : Nat) | permit | level (t : Nat) (w : WindowState)
  | quality (w : WindowState) | train (set : Word) | peer (address flag : Nat)
  deriving DecidableEq, Repr

/-- Cell filters (R174). -/
inductive Filter
  | none | sync | hold
  deriving DecidableEq, Repr

/-- Cell edges (R175). -/
inductive Edge
  | none | risingPulse
  deriving DecidableEq, Repr

/-- The program of an interlock cell (Table 9-1): three inputs, each with its initial or absent value. -/
structure CellProgram where
  in0 : Input
  init0 : Bool
  in1 : Input
  init1 : Bool
  in2 : Input
  init2 : Bool
  table : Byte
  filter : Filter
  edge : Edge
  latch : Bool
  publish : Bool
  deriving DecidableEq, Repr

/-- CHANNEL of a level channel: averaging exponent and strapping table of (raw, litres) points. -/
structure LevelSetup where
  n : Nat
  points : List (Nat × Nat)
  deriving DecidableEq, Repr

/-- CHANNEL of the quality channel: averaging exponent, accept limit A, reject limit J and hysteresis h_q. -/
structure QualitySetup where
  n : Nat
  accept : Nat
  reject : Nat
  hysteresis : Nat
  deriving DecidableEq, Repr

/-- FILL-SOURCES: fill class and fill-source list. -/
structure FillSetup where
  cls : Nat
  sources : List Source
  deriving DecidableEq, Repr

/-- The whole setup, and the lock that RUN sets (R196). An absent item has not been written. -/
structure Setup where
  locked : Bool
  station : Option StationItem
  tanks : Vector (Option TankSetup) 2
  ports : Vector (Option Nat) 2
  segments : Vector Bool 4
  train : Option TrainSetup
  destinations : List Source
  actuators : Vector (Option ActuatorSetup) 12
  contacts : Vector ContactSetup 32
  cells : Vector (Option CellProgram) 8
  levels : Vector (Option LevelSetup) 2
  quality : Option QualitySetup
  fills : Vector (Option FillSetup) 2
  deriving DecidableEq, Repr

/-! ## Identity and pins -/

/-- The sampled address (R197), the incarnation (R197) and the hold of a low RESET pin (R198). -/
structure Ident where
  address : Nat
  incarnation : Nat
  resetLow : Bool
  cold : Bool
  deriving DecidableEq, Repr

/-- Input pins read as levels: PERMIT as last read, and SUPPLY-LOW (Table 0-6). -/
structure Pins where
  permit : Bool
  supplyLow : Bool
  deriving DecidableEq, Repr

/-! ## Bus Controller (Chapter 1) -/

/-- Bus states (Table 1-4). -/
inductive BusState
  | offline | listen | joined | holding | silent | dormant
  deriving DecidableEq, Repr

/-- A station frame (Table 12-2). -/
structure StationFrame where
  source : Nat
  incarnation : Nat
  round : Word
  leaving : Bool
  record : StatusRecord
  messages : List Message
  deriving DecidableEq, Repr

/-- A frame of this station that is being sent (R1): a MARK with its round number, or a station frame. -/
inductive OutFrame
  | mark (round : Word)
  | station (frame : StationFrame)
  deriving DecidableEq, Repr

/-- State of the Bus Controller (Table 1-5, R2, R11, R13, R15).
`clock` is the time in ms since the last boundary, absent while the slot position is unaligned; the slot position is read from it.
`heard` lists the addresses whose slot of this round carried a valid frame (R26). `slotTaken`: the own slot of this round has
started. `numberTaken`: MARK_SEND has already given the coming boundary its round number (R15). `dormantNext`: the supply grace
has expired while a frame was being sent (R13). -/
structure BusCtl where
  busState : BusState
  round : Word
  clock : Option Nat
  listenCount : Nat
  markHolder : Bool
  backoff : Nat
  markless : Nat
  failures : Nat
  clash : Bool
  queue : List Message
  line : Option OutFrame
  heard : List Nat
  slotTaken : Bool
  numberTaken : Bool
  dormantNext : Bool
  deriving DecidableEq, Repr

/-! ## Station Roster and Network Water Table (Chapter 2) -/

/-- Roster states (Table 2-1). -/
inductive Presence
  | absent | present | stale
  deriving DecidableEq, Repr

/-- A roster entry (Table 2-1). -/
structure RosterEntry where
  presence : Presence
  incarnation : Nat
  lastHeard : Word
  missed : Nat
  leaving : Bool
  deriving DecidableEq, Repr

/-- An NWT entry (R31): the record, the record's round, the receipt round and the stale mark. -/
structure NwtEntry where
  record : StatusRecord
  recordRound : Word
  receiptRound : Word
  stale : Bool
  deriving DecidableEq, Repr

/-! ## Measurement Channels (Chapter 3) -/

/-- Working state of a channel (Table 3-1). -/
structure Channel where
  active : Bool
  accumulator : Nat
  count : Nat
  rail : Bool
  accepted : Nat
  window : WindowState
  deriving DecidableEq, Repr

/-- The two level channels and the quality channel. -/
structure Channels where
  level : Vector Channel 2
  quality : Channel
  deriving DecidableEq, Repr

/-! ## Field Scanner and Actuator Drivers (Chapter 4) -/

/-- Working state of a contact (Table 4-1). -/
structure Contact where
  active : Bool
  disagree : Nat
  repeatTimer : Nat
  deriving DecidableEq, Repr

/-- The scanner: the group to be sampled next, the full scans completed since it started (held at 2: R64 asks only which
scan is the second), and the contacts. -/
structure Scanner where
  group : Nat
  scans : Nat
  contacts : Vector Contact 32
  deriving DecidableEq, Repr

/-- What the owner last asked, and whether it is driven (Table 4-5). -/
inductive Command
  | safe | drive | held
  deriving DecidableEq, Repr

/-- Travel states; a pump reads them STOPPED, STARTING, RUNNING, STOPPING and STUCK (R72). -/
inductive Travel
  | closed | opening | opened | closing | stuck
  deriving DecidableEq, Repr

/-- Working state of an actuator (Table 4-5); the drive output is read from the command (R66). -/
structure Actuator where
  command : Command
  travel : Travel
  timer : Nat
  deriving DecidableEq, Repr

/-! ## Claim Engine (Chapter 5) -/

/-- Targets of a claim (Table 5-1). -/
inductive Target
  | drawPort (p : Nat) | fillInlet (t : Nat) | product | flush
  deriving DecidableEq, Repr

/-- Creators of a claim (Table 5-1). -/
inductive Creator
  | port | fill | train
  deriving DecidableEq, Repr

/-- The owner's reason of a FAILED claim (Table 12-5). -/
inductive OwnerReason
  | hold (r : HoldReason)
  | refuse (r : RefuseReason)
  deriving DecidableEq, Repr

/-- A claim record (Table 5-1). -/
structure Claim where
  sequence : Nat
  kind : ClaimKind
  target : Target
  tank : TankId
  cls : Nat
  volume : Nat
  path : List SegId
  held : Nat
  wait : Nat
  age : Nat
  repeatTimer : Nat
  delivered : Nat
  remainder : Nat
  stall : Nat
  state : ClaimState
  reason : Option EndReason
  owner : Option OwnerReason
  creator : Creator
  deriving DecidableEq, Repr

/-- The claim list and the claim sequence number (R77, R78). -/
structure Claims where
  list : List Claim
  nextSeq : Nat
  deriving DecidableEq, Repr

/-! ## Tank Manager (Chapter 6) -/

/-- A grant entry (Table 6-2); remaining is volume granted less last reported delivered. -/
structure Grant where
  id : ClaimId
  kind : ClaimKind
  cls : Nat
  volume : Nat
  delivered : Nat
  remaining : Nat
  admitted : Word
  absentCount : Nat
  deriving DecidableEq, Repr

/-- Per-tank state (Table 6-1); the committed totals are sums over the grant list (Law 3). -/
structure TankState where
  grants : List Grant
  fill : FillState
  live : Option Nat
  retry : Nat
  skips : Vector Nat 3
  deriving DecidableEq, Repr

/-- A tank wait queue entry (Table 6-4). `fresh`: it arrived since the last round boundary (R109's same round). -/
structure TankWait where
  id : ClaimId
  tank : Nat
  kind : ClaimKind
  cls : Nat
  volume : Nat
  arrival : Word
  absentCount : Nat
  fresh : Bool
  deriving DecidableEq, Repr

/-- A revocation memory entry (R119). -/
structure Revoked where
  id : ClaimId
  tank : Nat
  timer : Nat
  deriving DecidableEq, Repr

/-- A level event: the tank, and the window states before and after (R50). -/
structure LevelEvent where
  tank : Nat
  before : WindowState
  after : WindowState
  deriving DecidableEq, Repr

/-- The Tank Manager: two tanks, the tank wait queue, the revocation memory with its oldest entry first, and the level event whose
queue scan and automatic fill await the other reading of the same tick (R110; the model's own field, assumption log 32). -/
structure Tanks where
  tank : Vector TankState 2
  waits : List TankWait
  memory : List Revoked
  late : Option LevelEvent
  deriving DecidableEq, Repr

/-! ## Segment Arbiter (Chapter 7) -/

/-- Per-segment state (Table 7-1). -/
structure Segment where
  state : SegState
  holder : Option ClaimId
  absentCount : Nat
  deriving DecidableEq, Repr

/-- A hold wait queue entry (Table 7-2). `fresh`: it arrived since the last round boundary (R129's same round). -/
structure HoldWait where
  id : ClaimId
  segment : Nat
  cls : Nat
  arrival : Word
  absentCount : Nat
  fresh : Bool
  deriving DecidableEq, Repr

/-- The Segment Arbiter: four segments and the hold wait queue. -/
structure Segments where
  seg : Vector Segment 4
  waits : List HoldWait
  deriving DecidableEq, Repr

/-! ## Train Sequencer (Chapter 8) -/

/-- Divert causes (Table 8-2, Table 12-5). -/
inductive DivertCause
  | none | noDestination | quality
  deriving DecidableEq, Repr

/-- Fault causes (R163). -/
inductive FaultCause
  | none | interlock | stuck | noFeed | quality | sensor | divert
  deriving DecidableEq, Repr

/-- Stop causes (R159). -/
inductive StopCause
  | none | command | permit | revoked | supply
  deriving DecidableEq, Repr

/-- Flush results (Table 8-2). -/
inductive FlushResult
  | none | pending | done | failed
  deriving DecidableEq, Repr

/-- State of the Train Sequencer (Table 8-2). A timer that may be none or stopped is absent then. -/
structure Train where
  state : TrainState
  divertCause : DivertCause
  faultCause : FaultCause
  stopCause : StopCause
  destIndex : Nat
  passCount : Nat
  inflow : Option Nat
  flush : Option Nat
  flushResult : FlushResult
  ownStop : Bool
  unflushed : Bool
  phase : Nat
  hold : Nat
  settle : Nat
  marginal : Option Nat
  sensor : Option Nat
  diversion : Nat
  good : Option Nat
  permit : Nat
  retry : Option Nat
  productCount : Nat
  rateTimer : Nat
  rate : Nat
  deriving DecidableEq, Repr

/-! ## Interlock Array (Chapter 9) and Plan Store (Chapter 10) -/

/-- The history of an interlock cell (Table 9-1). -/
structure CellHistory where
  output : Bool
  previousRaw : Bool
  holdCount : Nat
  filtered : Bool
  edgeMemory : Bool
  primed : Bool
  latch : Bool
  deriving DecidableEq, Repr

/-- The Plan Store (R180). -/
structure Plans where
  bankA : Vector (Option PlanEntry) 2
  bankB : Vector (Option PlanEntry) 2
  active : Bank
  generation : Word
  pending : Bool
  deriving DecidableEq, Repr

/-! ## Local Port (Chapter 11) -/

/-- PEER report kinds (R29, R12): lost carries the leaving mark, restarted the new and the old incarnation. R12 and R29 name no field for
clash: it carries no incarnation (assumption log 13, DESIGN CHOICE). -/
inductive PeerNews
  | joined (inc : Nat) | lost (inc : Nat) (leaving : Bool) | restarted (new old : Nat) | clash
  deriving DecidableEq, Repr

/-- Causes of a WINDOW report (R55). -/
inductive WindowCause
  | reading | swap | pumpOff
  deriving DecidableEq, Repr

/-- Causes of an ACTUATOR report (R68, R70). -/
inductive StuckCause
  | travel | position
  deriving DecidableEq, Repr

/-- BUS reports (R9, R16, R17): SILENT with its cause, or mark takeover. -/
inductive BusNews
  | silentReadback | silentClash | takeover
  deriving DecidableEq, Repr

/-- The fields of a report's kind (R63, R55, R82, R145, R29, R185, R9, R68). -/
inductive ReportBody
  | contact (number : Nat) (role : ContactRole) (active repeated start : Bool)
  | window (channel : Nat) (before after : WindowState) (value : Nat) (cause : WindowCause) (generation : Option Word)
  | claimEnd (claim : Claim) (endState : ClaimState)
  | train (before after : TrainState) (divert : DivertCause) (fault : FaultCause) (stop : StopCause) (dest : TankId)
      (unflushed : Bool)
  | peer (address : Nat) (news : PeerNews)
  | plan (bank : Bank) (generation : Word)
  | bus (news : BusNews)
  | actuator (number : Nat) (role : Role) (before : Travel) (cause : StuckCause)
  deriving DecidableEq, Repr

/-- A record of the report ring (section 11.3). -/
structure Report where
  body : ReportBody
  round : Word
  loss : Bool
  deriving DecidableEq, Repr

/-- Transaction states of the port (R189). -/
inductive Txn
  | idle | code | length | arguments | taking | answering
  deriving DecidableEq, Repr

/-- Supply phases (R200). -/
inductive SupplyPhase
  | normal | grace
  deriving DecidableEq, Repr

/-- The Local Port: the transaction in progress with the bytes it has clocked, the answer (result byte, then response data)
and how much of it is still to be clocked out, the byte on SDO, a RESTART waiting for the SEL rise (R199), a ring record being
taken (R194), the report ring, the ATTN mask, and the supply phase and timer (R200). -/
structure Port where
  txn : Txn
  code : Byte
  length : Byte
  args : List Byte
  fillers : Nat
  answer : List Byte
  left : List Byte
  sdo : Byte
  restart : Bool
  taking : Bool
  ring : List Report
  mask : Byte
  phase : SupplyPhase
  supplyTimer : Nat
  deriving DecidableEq, Repr

/-! ## The machine -/

/-- An event of the station's own that falls due at the present instant (assumption log 1). Each is a row of
spec/opcode_table.json whose condition a clock event has just reached. -/
inductive Due
  | levelReading (t : Nat)
  | qualityReading
  | alarmRepeat (c : Nat)
  | travelTimeEnd (a : Nat)
  | travelStuck (a : Nat)
  | requestRepeat (seq : Nat)
  | timeout (seq : Nat)
  | stalled (seq : Nat)
  | fillRetry (t : Nat)
  | noFeed
  | budgetTest
  | rampComplete
  | highpressHold
  | settleComplete
  | settleLimit
  | marginal
  | diversionLimit
  | goodResume
  | sensor
  | permit
  | retryWaitEnd
  | ratePeriodEnd
  | planExchange
  | graceExpiry
  deriving DecidableEq, Repr

/-- Why a step could stop with a fault. No rule of spec/ stops the station, so no meaning answers this; the type is here for
the interface. -/
inductive Fault
  /-- Raised by nobody: the spec gives every command an effect in every state. Safe. -/
  | none
  deriving DecidableEq, Repr

/-- Why a step could refuse a command. -/
inductive Refusal
  /-- Raised by a refused arm of exec only, for a command that has no meaning yet. Safe. -/
  | notModelled (mnemonic : String)
  deriving DecidableEq, Repr

/-- The whole station, with the events due at this instant and the queue of commands that wait. -/
structure State where
  setup : Setup
  ident : Ident
  pins : Pins
  bc : BusCtl
  roster : Vector RosterEntry 24
  nwt : Vector (Option NwtEntry) 24
  mch : Channels
  fsc : Scanner
  act : Vector Actuator 12
  cle : Claims
  tkm : Tanks
  sga : Segments
  trs : Train
  ila : Vector CellHistory 8
  pls : Plans
  port : Port
  due : List Due
  pending : List Instr
  deriving DecidableEq, Repr

/-! ## Values at reset -/

/-- No item written, nothing locked (power-on, R195). -/
def Setup.blank : Setup where
  locked := false
  station := none
  tanks := Vector.replicate 2 none
  ports := Vector.replicate 2 none
  segments := Vector.replicate 4 false
  train := none
  destinations := []
  actuators := Vector.replicate 12 none
  contacts := Vector.replicate 32 ⟨.none, false, false⟩
  cells := Vector.replicate 8 none
  levels := Vector.replicate 2 none
  quality := none
  fills := Vector.replicate 2 none

/-- Table 1-5, power-on column. -/
def BusCtl.powerOn : BusCtl where
  busState := .offline
  round := 0
  clock := none
  listenCount := 0
  markHolder := false
  backoff := 0
  markless := 0
  failures := 0
  clash := false
  queue := []
  line := none
  heard := []
  slotTaken := false
  numberTaken := false
  dormantNext := false

/-- An ABSENT roster entry (R21). -/
def RosterEntry.absent : RosterEntry := ⟨.absent, 0, 0, 0, false⟩

/-- A channel's working state after a reset (R57). -/
def Channel.initial : Channel := ⟨false, 0, 0, false, 0, .initial⟩

/-- Channel values of every column of Table 3-3. -/
def Channels.initial : Channels := ⟨Vector.replicate 2 Channel.initial, Channel.initial⟩

/-- A contact after a reset (R64). -/
def Contact.initial : Contact := ⟨false, 0, 0⟩

/-- The scanner at its start: group 0, no full scan completed, every contact INACTIVE (R64). -/
def Scanner.initial : Scanner := ⟨0, 0, Vector.replicate 32 Contact.initial⟩

/-- An actuator that has been given nothing: safe, at rest (R75). -/
def Actuator.initial : Actuator := ⟨.safe, .closed, 0⟩

/-- A tank of the Tank Manager after a reset (R127). -/
def TankState.initial : TankState := ⟨[], .idle, none, 0, Vector.replicate 3 0⟩

/-- The Tank Manager after a reset or a withdrawal (Table 6-9). -/
def Tanks.initial : Tanks := ⟨Vector.replicate 2 TankState.initial, [], [], none⟩

/-- A segment after a reset (R143). -/
def Segment.initial : Segment := ⟨.free, none, 0⟩

/-- The Segment Arbiter after a reset (Table 7-5). -/
def Segments.initial : Segments := ⟨Vector.replicate 4 Segment.initial, []⟩

/-- The train after a reset or a withdrawal, with the unflushed mark it keeps (Table 8-6). -/
def Train.initial (unflushed : Bool) : Train where
  state := .stopped
  divertCause := .none
  faultCause := .none
  stopCause := .none
  destIndex := 0
  passCount := 0
  inflow := none
  flush := none
  flushResult := .none
  ownStop := false
  unflushed := unflushed
  phase := 0
  hold := 0
  settle := 0
  marginal := none
  sensor := none
  diversion := 0
  good := none
  permit := 0
  retry := none
  productCount := 0
  rateTimer := 0
  rate := 0

/-- A cell's history after a reset (R179). -/
def CellHistory.initial : CellHistory := ⟨false, false, 0, false, false, false, false⟩

/-- The Plan Store after power-on (R188). -/
def Plans.powerOn : Plans where
  bankA := Vector.replicate 2 none
  bankB := Vector.replicate 2 none
  active := .a
  generation := 0
  pending := false

/-- The Local Port after power-on (R194, R200); SDO carries the filler value 255 in IDLE (R204). -/
def Port.powerOn : Port where
  txn := .idle
  code := 0
  length := 0
  args := []
  fillers := 0
  answer := []
  left := []
  sdo := 255
  restart := false
  taking := false
  ring := []
  mask := 0
  phase := .normal
  supplyTimer := 0

/-- The station right after power-on. The address straps and the pins are outside the station: the address is 0 (none) until a
POWER_ON samples them, and PERMIT and SUPPLY-LOW are taken deasserted (assumption log 7). -/
def State.reset : State where
  setup := Setup.blank
  ident := ⟨0, 1, false, false⟩
  pins := ⟨false, false⟩
  bc := BusCtl.powerOn
  roster := Vector.replicate 24 RosterEntry.absent
  nwt := Vector.replicate 24 none
  mch := Channels.initial
  fsc := Scanner.initial
  act := Vector.replicate 12 Actuator.initial
  cle := ⟨[], 0⟩
  tkm := Tanks.initial
  sga := Segments.initial
  trs := Train.initial false
  ila := Vector.replicate 8 CellHistory.initial
  pls := Plans.powerOn
  port := Port.powerOn
  due := []
  pending := []

end Sys2Proof.Machine
end

