-- ==== Sys2Proof/Machine/Ops.lean ====
section
/-!
DEFINITION. The operations every block shares: replacing a part of State, looking things up, offering a message to the
transmit queue (R19), offering a report to the ring (R192), and opening or closing the travel of time within a round (R2).
-/

namespace Sys2Proof.Machine

/-! ## Replacing one part of State -/

/-- The state with its `setup` replaced. -/
def State.setSetup (s : State) (x : Setup) : State := { s with setup := x }

/-- The state with its `ident` replaced. -/
def State.setIdent (s : State) (x : Ident) : State := { s with ident := x }

/-- The state with its `pins` replaced. -/
def State.setPins (s : State) (x : Pins) : State := { s with pins := x }

/-- The state with its `bc` replaced. -/
def State.setBc (s : State) (x : BusCtl) : State := { s with bc := x }

/-- The state with its `roster` replaced. -/
def State.setRoster (s : State) (x : Vector RosterEntry 24) : State := { s with roster := x }

/-- The state with its `nwt` replaced. -/
def State.setNwt (s : State) (x : Vector (Option NwtEntry) 24) : State := { s with nwt := x }

/-- The state with its `mch` replaced. -/
def State.setMch (s : State) (x : Channels) : State := { s with mch := x }

/-- The state with its `fsc` replaced. -/
def State.setFsc (s : State) (x : Scanner) : State := { s with fsc := x }

/-- The state with its `act` replaced. -/
def State.setAct (s : State) (x : Vector Actuator 12) : State := { s with act := x }

/-- The state with its `cle` replaced. -/
def State.setCle (s : State) (x : Claims) : State := { s with cle := x }

/-- The state with its `tkm` replaced. -/
def State.setTkm (s : State) (x : Tanks) : State := { s with tkm := x }

/-- The state with its `sga` replaced. -/
def State.setSga (s : State) (x : Segments) : State := { s with sga := x }

/-- The state with its `trs` replaced. -/
def State.setTrs (s : State) (x : Train) : State := { s with trs := x }

/-- The state with its `ila` replaced. -/
def State.setIla (s : State) (x : Vector CellHistory 8) : State := { s with ila := x }

/-- The state with its `pls` replaced. -/
def State.setPls (s : State) (x : Plans) : State := { s with pls := x }

/-- The state with its `port` replaced. -/
def State.setPort (s : State) (x : Port) : State := { s with port := x }

/-- The state with its `due` replaced. -/
def State.setDue (s : State) (x : List Due) : State := { s with due := x }

/-- The state with its `pending` replaced. -/
def State.setPending (s : State) (x : List Instr) : State := { s with pending := x }

/-! ## Bus state tests -/

/-- JOINED or HOLDING: the states in which the station sends frames and its collections may hold things (R1, Law 11). -/
def State.serving (s : State) : Bool := s.bc.busState == .joined || s.bc.busState == .holding

/-- LISTEN, JOINED, HOLDING or SILENT: the states in which the station hears the bus and its clocks run
(Table 1-2, R41, R58). -/
def State.hearing (s : State) : Bool :=
  s.bc.busState == .listen || s.bc.busState == .joined || s.bc.busState == .holding || s.bc.busState == .silent

/-- An address of a station: 1..24 (spec/00, Identities). -/
def validAddr (a : Nat) : Bool := 1 ≤ a && a ≤ 24

/-! ## Tables -/

/-- The roster entry of an address; an address outside 1..24 has none and reads ABSENT. -/
def State.rosterOf (s : State) (a : Nat) : RosterEntry :=
  if a = 0 then RosterEntry.absent else look s.roster RosterEntry.absent (a - 1)

/-- The roster with the entry of an address replaced. -/
def State.putRoster (s : State) (a : Nat) (e : RosterEntry) : State :=
  if a = 0 then s else s.setRoster (put s.roster (a - 1) e)

/-- The NWT entry of an address, when it holds one (R31). -/
def State.nwtOf (s : State) (a : Nat) : Option NwtEntry := if a = 0 then none else look s.nwt none (a - 1)

/-- The NWT with the entry of an address replaced or, by `none`, deleted. -/
def State.putNwt (s : State) (a : Nat) (e : Option NwtEntry) : State :=
  if a = 0 then s else s.setNwt (put s.nwt (a - 1) e)

/-- The TANK item of a tank index. -/
def State.tankSetup (s : State) (t : Nat) : Option TankSetup := look s.setup.tanks none t

/-- The FILL-SOURCES item of a tank index. -/
def State.fillSetup (s : State) (t : Nat) : Option FillSetup := look s.setup.fills none t

/-- The level channel that serves a tank index. -/
def State.levelCh (s : State) (t : Nat) : Channel := look s.mch.level Channel.initial t

/-- The Tank Manager's state of a tank index. -/
def State.tankOf (s : State) (t : Nat) : TankState := look s.tkm.tank TankState.initial t

/-- The Tank Manager with the state of a tank index replaced. -/
def State.putTank (s : State) (t : Nat) (x : TankState) : State := s.setTkm { s.tkm with tank := put s.tkm.tank t x }

/-- A segment of the Segment Arbiter. -/
def State.segOf (s : State) (i : Nat) : Segment := look s.sga.seg Segment.initial i

/-- The Segment Arbiter with one segment replaced. -/
def State.putSeg (s : State) (i : Nat) (x : Segment) : State := s.setSga { s.sga with seg := put s.sga.seg i x }

/-- The ACTUATOR item of an actuator number. -/
def State.actSetup (s : State) (a : Nat) : Option ActuatorSetup := look s.setup.actuators none a

/-- The working state of an actuator. -/
def State.actOf (s : State) (a : Nat) : Actuator := look s.act Actuator.initial a

/-- The actuators with one replaced. -/
def State.putAct (s : State) (a : Nat) (x : Actuator) : State := s.setAct (put s.act a x)

/-- The CONTACT-MAP entry of a contact. -/
def State.contactSetup (s : State) (c : Nat) : ContactSetup := look s.setup.contacts ⟨.none, false, false⟩ c

/-- The working state of a contact. -/
def State.contact (s : State) (c : Nat) : Contact := look s.fsc.contacts Contact.initial c

/-- The history of an interlock cell. -/
def State.cell (s : State) (n : Nat) : CellHistory := look s.ila CellHistory.initial n

/-- The contact that carries a role, if one does (R60). -/
def State.contactWith (s : State) (r : ContactRole) : Option Nat :=
  (List.range 32).find? fun c => (s.contactSetup c).role == r

/-- A contact role is made: its contact is mapped and its debounced state is ACTIVE (section 4.1). -/
def State.made (s : State) (r : ContactRole) : Bool :=
  match s.contactWith r with
  | some c => (s.contact c).active
  | none => false

/-- The actuator that carries a role, if one does (R65). -/
def State.actWith (s : State) (r : Role) : Option Nat :=
  (List.range 12).find? fun a => (s.actSetup a).map (·.role) == some r

/-- The travel state of the actuator of a role; CLOSED where there is none. -/
def State.travelOf (s : State) (r : Role) : Travel :=
  match s.actWith r with
  | some a => (s.actOf a).travel
  | none => .closed

/-- The command of the actuator of a role; SAFE where there is none. -/
def State.commandOf (s : State) (r : Role) : Command :=
  match s.actWith r with
  | some a => (s.actOf a).command
  | none => .safe

/-- The entries of the active bank and of the other one (R180). -/
def Plans.entries (p : Plans) (k : Bank) : Vector (Option PlanEntry) 2 :=
  match k with
  | .a => p.bankA
  | .b => p.bankB

/-- The bank that is not the given one. -/
def otherBank : Bank → Bank
  | .a => .b
  | .b => .a

/-- The default plan of a tank of capacity `v` (Table 10-2). -/
def defaultPlan (v : Nat) : PlanEntry := ⟨⟨0, 0, 0, 0, 0⟩, 0, v, 0, v, 0⟩

/-- The active bank's entry for a tank, read at the instant of use (R103). Every tank set up has one after RUN. -/
def State.plan (s : State) (t : Nat) : PlanEntry := (look (s.pls.entries s.pls.active) none t).getD (defaultPlan 0)

/-- The number of the claim class `k` among five (`k` in 1..5). -/
def forClass (p : PerClass) (k : Nat) : Nat :=
  match k with
  | 1 => p.c1
  | 2 => p.c2
  | 3 => p.c3
  | 4 => p.c4
  | _ => p.c5

/-- A tank that is set up. -/
def State.hasTank (s : State) (t : Nat) : Bool := (s.tankSetup t).isSome

/-- A segment that is set up. -/
def State.hasSegment (s : State) (i : Nat) : Bool := look s.setup.segments false i

/-- The claim id of one of this station's own claims (Table 0-3). -/
def State.ownId (s : State) (seq : Nat) : ClaimId := ⟨s.ident.address, s.ident.incarnation, seq⟩

/-! ## The transmit queue -/

/-- Offer a message to the transmit queue (R19): it joins at the tail, or is refused QUEUE-FULL (`false`) when the queue
holds 16 or the bus state is other than JOINED or HOLDING. -/
def offer (m : Message) (s : State) : State × Bool :=
  if s.serving && decide (s.bc.queue.length < 16) then (s.setBc { s.bc with queue := s.bc.queue ++ [m] }, true)
  else (s, false)

/-- Offer a message whose refusal drops it (R82, R108, R132). -/
def send (dest : Nat) (b : MsgBody) (s : State) : State := (offer ⟨dest, b⟩ s).1

/-! ## The report ring -/

/-- The ring with the loss mark of its newest record set (R192). -/
def markLoss : List Report → List Report
  | [] => []
  | [r] => [{ r with loss := true }]
  | r :: rs => r :: markLoss rs

/-- Offer a report to the ring, with the station's round number at its making (R192). -/
def report (b : ReportBody) (s : State) : State :=
  if s.port.ring.length < 32 then s.setPort { s.port with ring := s.port.ring ++ [⟨b, s.bc.round, false⟩] }
  else s.setPort { s.port with ring := markLoss s.port.ring }

/-! ## Time -/

/-- Put an event of the station's own on the list of events due at this instant (assumption log 1). -/
def addDue (e : Due) (s : State) : State := s.setDue (s.due ++ [e])

/-- Put an event on the list when its condition holds. -/
def dueIf (c : Bool) (e : Due) (s : State) : State := if c then addDue e s else s

/-- The time since the last boundary, 0 while there is none. -/
def State.elapsed (s : State) : Nat := s.bc.clock.getD 0

/-- The slot position: the slot of the present instant, or unaligned (R2). -/
def State.slot (s : State) : Option Nat := s.bc.clock.map fun c => min 24 (c / 4)

end Sys2Proof.Machine
end

