-- ==== Sys2Proof/Machine/Channels.lean ====
section
/-!
DEFINITION. Measurement Channels (Chapter 3): samples and readings, litres and quality, window states, and the pump-off return.
-/

namespace Sys2Proof.Machine

/-! ## Samples (R42, R43) -/

/-- A rail sample (R43). -/
def isRail (v : Nat) : Bool := v == 0 || v == 4095

/-- An active channel takes a sample into the reading in progress (R42, R43). -/
def takeSample (v : Nat) (c : Channel) : Channel :=
  { c with accumulator := c.accumulator + v, count := c.count + 1, rail := c.rail || isRail v }

/-- The reading in progress ends and the next one starts (R42). -/
def clearReading (c : Channel) : Channel := { c with accumulator := 0, count := 0, rail := false }

/-- The raw mean of a reading of 2^n samples, fraction discarded (R42). -/
def rawMean (c : Channel) (n : Nat) : Nat := c.accumulator / 2 ^ n

/-! ## Conversion (R44, R52) -/

/-- Linear interpolation between two points, rounded to the nearest litre with a half rounded up (R44). -/
def interpolate (r : Nat) (p q : Nat × Nat) : Nat :=
  p.2 + (2 * (r - p.1) * (q.2 - p.2) + (q.1 - p.1)) / (2 * (q.1 - p.1))

/-- The volume of a raw mean by the points from `p` on, when `r` is above the raw value of `p` (R44). -/
def volumeFrom (r : Nat) (p : Nat × Nat) : List (Nat × Nat) → Nat
  | [] => p.2
  | q :: rest => if r < q.1 then interpolate r p q else volumeFrom r q rest

/-- The volume of a raw mean by the strapping table (R44). -/
def volumeOf (points : List (Nat × Nat)) (r : Nat) : Nat :=
  match points with
  | [] => 0
  | p :: rest => if r ≤ p.1 then p.2 else volumeFrom r p rest

/-- The quality of a raw mean in µS/cm, fraction discarded (R52). -/
def qualityOf (r : Nat) : Nat := r * 2000 / 4095

/-! ## Windows (R46, R47, R53) -/

/-- Direct classification against the marks `l` and `h` (R47, R53). -/
def classify (l h v : Nat) : WindowState := if v < l then .below else if v ≤ h then .inside else .above

/-- The window state after a valid reading of value `v`, with marks `l`, `h` and hysteresis `y` (Table 3-2, R47, R53). -/
def windowAfter (w : WindowState) (l h y v : Nat) : WindowState :=
  match w with
  | .below => if v < l + y then .below else if v ≤ h then .inside else .above
  | .inside => if v < l then .below else if v ≤ h then .inside else .above
  | .above => if v < l then .below else if v + y ≤ h then .inside else .above
  | _ => classify l h v

/-! ## WINDOW reports (R55) -/

/-- A WINDOW report of a level channel when its state has changed (R55). It carries the active generation, at a transition to FAULT too,
where no marks are applied (assumption log 33, DESIGN CHOICE). -/
def reportLevel (t : Nat) (before : WindowState) (cause : WindowCause) (s : State) : State :=
  let c := s.levelCh t
  if c.window = before then s else report (.window t before c.window c.accepted cause (some s.pls.generation)) s

/-- A WINDOW report of the quality channel when its state has changed (R55). -/
def reportQuality (before : WindowState) (cause : WindowCause) (s : State) : State :=
  let c := s.mch.quality
  if c.window = before then s else report (.window 2 before c.window c.accepted cause none) s

/-! ## Readings (R45 to R48, R50, R52 to R54) -/

/-- A level channel after its reading completes: accepted level and window state (R45, R46, R47, R48), reading cleared (R42). -/
def levelAfter (u : LevelSetup) (p : PlanEntry) (c : Channel) : Channel :=
  if c.rail then clearReading { c with window := .fault }
  else
    let v := volumeOf u.points (rawMean c u.n)
    clearReading { c with accepted := v, window := windowAfter c.window p.low p.high p.hysteresis v }

/-- The quality channel after its reading completes (R52, R53). -/
def qualityAfter (u : QualitySetup) (c : Channel) : Channel :=
  if c.rail then clearReading { c with window := .fault }
  else
    let v := qualityOf (rawMean c u.n)
    clearReading { c with accepted := v, window := windowAfter c.window u.accept u.reject u.hysteresis v }

/-- A completed level reading up to its hand-over: the channel, then the WINDOW report (R50, 1 to 3). -/
def completeLevel (t : Nat) (u : LevelSetup) (s : State) : State :=
  let c := s.levelCh t
  reportLevel t c.window .reading
    (s.setMch { s.mch with level := put s.mch.level t (levelAfter u (s.plan t) c) })

/-- A completed quality reading up to its hand-over (R54). -/
def completeQuality (u : QualitySetup) (s : State) : State :=
  let c := s.mch.quality
  reportQuality c.window .reading (s.setMch { s.mch with quality := qualityAfter u c })

/-- A plan swap at a level channel in BELOW, INSIDE or ABOVE: direct classification against the new marks (R47). -/
def reclassify (t : Nat) (s : State) : State :=
  let c := s.levelCh t
  let p := s.plan t
  match c.window with
  | .below | .inside | .above =>
    reportLevel t c.window .swap
      (s.setMch { s.mch with level := put s.mch.level t { c with window := classify p.low p.high c.accepted } })
  | _ => s

/-! ## Activity (R41, R51) -/

/-- The quality channel stops because HIGHPRESS is commanded off or safe: its reading is abandoned, its state returns to
INITIAL with a WINDOW report of cause PUMP-OFF (R51), and the return sets the train's quality timers to none (R158). -/
def qualityOff (s : State) : State :=
  let before := s.mch.quality.window
  let s := s.setMch { s.mch with quality := Channel.initial }
  if before = .initial then s
  else (reportQuality before .pumpOff s).setTrs { s.trs with marginal := none, sensor := none, good := none }

/-- A channel that is to take a sample at this tick: it becomes active if it was not, then takes it (R41, R42). -/
def tickChannel (on : Bool) (v : Nat) (c : Channel) : Channel := if on then takeSample v { c with active := true } else c

/-- The reading of a channel is complete: 2^n samples are in it (R42). -/
def readingDone (n : Option Nat) (c : Channel) : Bool :=
  match n with
  | some n => c.active && decide (c.count = 2 ^ n)
  | none => false

/-- HIGHPRESS is commanded on, driven or held (R51, R66). -/
def State.highpressOn (s : State) : Bool := s.commandOf .highpress != .safe

/-- The exponent of a level channel. -/
def State.levelExp (s : State) (t : Nat) : Option Nat := (look s.setup.levels none t).map (·.n)

/-- The exponent of the quality channel. -/
def State.qualityExp (s : State) : Option Nat := s.setup.quality.map (·.n)

/-- One tick of the sample clock (R41): every active channel takes its sample, and readings that complete fall due. -/
def sampleTick (l0 l1 q : Nat) (s : State) : State :=
  let c0 := tickChannel (s.hasTank 0) l0 (s.levelCh 0)
  let c1 := tickChannel (s.hasTank 1) l1 (s.levelCh 1)
  let cq := tickChannel s.highpressOn q s.mch.quality
  let s := s.setMch { level := put (put s.mch.level 0 c0) 1 c1, quality := cq }
  let s := dueIf (readingDone (s.levelExp 0) c0) (.levelReading 0) s
  let s := dueIf (readingDone (s.levelExp 1) c1) (.levelReading 1) s
  dueIf (readingDone s.qualityExp cq) .qualityReading s

end Sys2Proof.Machine
end

