-- ==== Sys2Proof/Machine/Actuators.lean ====
section
/-!
DEFINITION. Actuator Drivers (sections 4.3 to 4.7): requests, travel, stuck, interlock drop. Each operation answers the state and
the notices it raises, in order. The blocks that own the roles take the notices.
-/

namespace Sys2Proof.Machine

/-- Kinds of notice (Table 4-6). *travel done* carries the state reached, *stuck* the state left (R73). -/
inductive NoticeKind
  | travelDone (reached : Travel)
  | stuck (before : Travel)
  | permissiveDenied
  | interlockDrop
  deriving DecidableEq, Repr

/-- A notice (R73). -/
structure Notice where
  number : Nat
  role : Role
  kind : NoticeKind
  deriving DecidableEq, Repr

/-- The permissive of an actuator: true when no cell is bound, else the cell's output at the last evaluation (R66). -/
def State.permitted (s : State) (u : ActuatorSetup) : Bool :=
  match u.permissive with
  | none => true
  | some c => (s.cell c).output

/-- The contact that ends a travel and the debounced state that ends it, when it is bound (R67, R72). -/
def State.endLimit (s : State) (a : Nat) (k : Kind) (opening : Bool) : Option (Nat × Bool) :=
  match k with
  | .valve => (s.contactWith (if opening then .openLimit a else .closedLimit a)).map fun c => (c, true)
  | .pump => (s.contactWith (.openLimit a)).map fun c => (c, opening)

/-- The end limit of a travel already stands at the state that ends it (R67, R72). -/
def State.atEnd (s : State) (a : Nat) (k : Kind) (opening : Bool) : Bool :=
  match s.endLimit a k opening with
  | some (c, want) => (s.contact c).active == want
  | none => false

/-- Where a travel ends. -/
def reached (opening : Bool) : Travel := if opening then .opened else .closed

/-- A travel starts: the timer is 0, and a travel whose end limit already stands ends at once (R67, R72). -/
def startTravel (a : Nat) (u : ActuatorSetup) (opening : Bool) (s : State) : State × List Notice :=
  let x := s.actOf a
  if s.atEnd a u.kind opening then
    (s.putAct a { x with travel := reached opening, timer := 0 }, [⟨a, u.role, .travelDone (reached opening)⟩])
  else (s.putAct a { x with travel := if opening then .opening else .closing, timer := 0 }, [])

/-- An open (or on) request (R66, R69). -/
def openReq (a : Nat) (s : State) : State × List Notice :=
  match s.actSetup a with
  | none => (s, [])
  | some u =>
    let x := s.actOf a
    if x.command = .drive then (s, [])
    else if s.permitted u then
      let s := s.putAct a { x with command := .drive }
      if x.travel = .opened then (s, []) else startTravel a u true s
    else (s.putAct a { x with command := .held }, [⟨a, u.role, .permissiveDenied⟩])

/-- HIGHPRESS leaves the commanded-on state: the quality channel stops (R51). -/
def stopQuality (u : ActuatorSetup) (s : State) : State := if u.role = .highpress then qualityOff s else s

/-- A close (or off) request (R66, R69). -/
def closeReq (a : Nat) (s : State) : State × List Notice :=
  match s.actSetup a with
  | none => (s, [])
  | some u =>
    let x := s.actOf a
    let s := if x.command = .safe then s else stopQuality u (s.putAct a { x with command := .safe })
    if x.travel = .closed || x.travel = .closing then (s, []) else startTravel a u false s

/-- An open request by role. -/
def openRole (r : Role) (s : State) : State × List Notice :=
  match s.actWith r with
  | some a => openReq a s
  | none => (s, [])

/-- A close request by role. -/
def closeRole (r : Role) (s : State) : State × List Notice :=
  match s.actWith r with
  | some a => closeReq a s
  | none => (s, [])

/-- The actuator becomes STUCK: made safe, timer stopped, reported, its owner told (R68, R70, R72). The ACTUATOR record is made before
what the notice and the quality channel's PUMP-OFF make, and the PUMP-OFF record of a HIGHPRESS that was on before the TRAIN record of its
notice (R55, R192; assumption log 32, DESIGN CHOICE). -/
def becomeStuck (a : Nat) (u : ActuatorSetup) (cause : StuckCause) (s : State) : State × List Notice :=
  let x := s.actOf a
  let s := s.putAct a { x with command := .safe, travel := .stuck }
  let s := report (.actuator a u.role x.travel cause) s
  (if x.command = .safe then s else stopQuality u s, [⟨a, u.role, .stuck x.travel⟩])

/-- A travel in progress. -/
def Travel.moving : Travel → Bool
  | .opening | .closing => true
  | _ => false

/-- The travel in progress ends at its end (R67). -/
def endTravel (a : Nat) (u : ActuatorSetup) (s : State) : State × List Notice :=
  let x := s.actOf a
  let r := reached (x.travel == .opening)
  (s.putAct a { x with travel := r }, [⟨a, u.role, .travelDone r⟩])

/-- A change of an OPEN-LIMIT contact at its actuator (R67, R70, R72). -/
def openLimitChange (a : Nat) (active : Bool) (s : State) : State × List Notice :=
  match s.actSetup a with
  | none => (s, [])
  | some u =>
    let x := s.actOf a
    if active && x.travel == .opening then endTravel a u s
    else if !active && u.kind == .pump && x.travel == .closing then endTravel a u s
    else if !active && x.travel == .opened && x.command == .drive then becomeStuck a u .position s
    else (s, [])

/-- A change of a CLOSED-LIMIT contact at its actuator (R67, R70). A pump has none (R72). -/
def closedLimitChange (a : Nat) (active : Bool) (s : State) : State × List Notice :=
  match s.actSetup a with
  | none => (s, [])
  | some u =>
    let x := s.actOf a
    if u.kind = .pump then (s, [])
    else if active && x.travel == .closing then endTravel a u s
    else if !active && x.travel == .closed && x.command != .drive then becomeStuck a u .position s
    else (s, [])

/-- The travel time in scans: a step of 0.1 s is 10 scans (Table 4-5). -/
def ActuatorSetup.scans (u : ActuatorSetup) : Nat := 10 * u.travel

/-- The travel time has run out for a travel whose end limit is not bound (R67, R68). -/
def State.travelEnds (s : State) (a : Nat) : Bool :=
  match s.actSetup a with
  | none => false
  | some u =>
    let x := s.actOf a
    x.travel.moving && (s.endLimit a u.kind (x.travel == .opening)).isNone && decide (u.scans ≤ x.timer)

/-- The travel has not ended by T + 2 s (R67, R68). -/
def State.travelOverdue (s : State) (a : Nat) : Bool :=
  match s.actSetup a with
  | none => false
  | some u =>
    let x := s.actOf a
    x.travel.moving && decide (u.scans + 200 ≤ x.timer)

/-- One *scan complete* at one actuator: the timer of a travel in progress rises, and its limits fall due (R68). -/
def travelScan (a : Nat) (s : State) : State :=
  let x := s.actOf a
  if (s.actSetup a).isSome && x.travel.moving then
    let s := s.putAct a { x with timer := x.timer + 1 }
    if s.travelEnds a then addDue (.travelTimeEnd a) s
    else dueIf (s.travelOverdue a) (.travelStuck a) s
  else s

/-- One *scan complete* at every actuator (R68). -/
def scanActuators (s : State) : State := (List.range 12).foldl (fun s a => travelScan a s) s

/-- An actuator whose command is DRIVE and whose bound cell is false is forced safe (R71). -/
def dropActuator (a : Nat) (s : State) : State × List Notice :=
  match s.actSetup a with
  | none => (s, [])
  | some u =>
    let x := s.actOf a
    if x.command = .drive && !s.permitted u then
      let s := s.putAct a { x with command := .held }
      if x.travel = .opening || x.travel = .opened then
        let r := startTravel a u false s
        (r.1, ⟨a, u.role, .interlockDrop⟩ :: r.2)
      else (s, [⟨a, u.role, .interlockDrop⟩])
    else (s, [])

/-- RUN and every warm reset: a close request with the travel started afresh, wherever the actuator was (R75). -/
def safeAfresh (a : Nat) (s : State) : State × List Notice :=
  match s.actSetup a with
  | none => (s, [])
  | some u => startTravel a u false (s.putAct a { s.actOf a with command := .safe })

/-- Entry to DORMANT: SAFE, released, CLOSING with the timer stopped (R76). The stopped timer reads 0 (assumption log 34, DESIGN
CHOICE). -/
def dormantActuators (s : State) : State :=
  (List.range 12).foldl
    (fun s a => if (s.actSetup a).isSome then s.putAct a ⟨.safe, .closing, 0⟩ else s) s

end Sys2Proof.Machine
end

