-- ==== Sys2Proof/Machine/Contacts.lean ====
section
/-!
DEFINITION. Field Scanner (sections 4.1, 4.2): debounce, contact changes and their reports, alarm repeats.
-/

namespace Sys2Proof.Machine

/-- A contact after one sample (R59), and whether its debounced state changed. -/
def debounce (sample : Bool) (c : Contact) : Contact × Bool :=
  if sample = c.active then ({ c with disagree := 0 }, false)
  else if c.disagree = 0 then ({ c with disagree := 1 }, false)
  else ({ c with active := sample, disagree := 0 }, true)

/-- The repeat timer a change of debounced state leaves (R62). -/
def alarmTimer (alarm active : Bool) : Nat := if alarm && active then 500 else 0

/-- The working state of a contact replaced. -/
def State.putContact (s : State) (c : Nat) (x : Contact) : State :=
  s.setFsc { s.fsc with contacts := put s.fsc.contacts c x }

/-- The second full scan since the scanner started is under way: its changes carry the start mark (R64). -/
def State.startScan (s : State) : Bool := s.fsc.scans == 1

/-- One contact at its sampling (R58, R59, R62, R63): a contact of role NONE is not debounced; a change sets the repeat timer
and makes a CONTACT report. The second part is the change, when there is one. -/
def sampleContact (c : Nat) (closed : Bool) (s : State) : State × Option Bool :=
  let u := s.contactSetup c
  if u.role = .none then (s, none)
  else
    let r := debounce (closed != u.inverted) (s.contact c)
    if r.2 then
      let s := s.putContact c { r.1 with repeatTimer := alarmTimer u.alarm r.1.active }
      (report (.contact c u.role r.1.active false s.startScan) s, some r.1.active)
    else (s.putContact c r.1, none)

/-- One *scan complete* at one contact: the timer of a made alarm contact is lowered, and a repeat falls due at 0 (R62). -/
def alarmScan (c : Nat) (s : State) : State :=
  let x := s.contact c
  if (s.contactSetup c).alarm && x.active && decide (0 < x.repeatTimer) then
    dueIf (decide (x.repeatTimer = 1)) (.alarmRepeat c) (s.putContact c { x with repeatTimer := x.repeatTimer - 1 })
  else s

/-- One *scan complete* at every contact (R62). -/
def scanAlarms (s : State) : State := (List.range 32).foldl (fun s c => alarmScan c s) s

/-- A repeat of a made alarm contact: a CONTACT report with the repeat mark, and the timer at 500 again (R62). -/
def repeatAlarm (c : Nat) (s : State) : State :=
  let x := s.contact c
  if (s.contactSetup c).alarm && x.active && decide (x.repeatTimer = 0) then
    (report (.contact c (s.contactSetup c).role true true false) s).putContact c { x with repeatTimer := 500 }
  else s

end Sys2Proof.Machine
end

