-- ==== Sys2Proof/Machine/Cells.lean ====
section
/-!
DEFINITION. Interlock Array (Chapter 9): inputs, truth table, filter, edge, latch, and one evaluation of the eight cells.
-/

namespace Sys2Proof.Machine

/-- The power-on program (R167). R167 gives it no initial or absent value (Table 9-1) for its three inputs: the model takes false, which no
evaluation reads, since a MASK input has no such value (assumption log 23, DESIGN CHOICE). -/
def CellProgram.powerOn : CellProgram where
  in0 := .mask
  init0 := false
  in1 := .mask
  init1 := false
  in2 := .mask
  init2 := false
  table := 0
  filter := .none
  edge := .none
  latch := false
  publish := false

/-- The program of a cell; the power-on program where its CELL item has not been written (R167). -/
def State.program (s : State) (n : Nat) : CellProgram := (look s.setup.cells none n).getD CellProgram.powerOn

/-- Codes of Table 12-5 for the train states. -/
def trainCode : TrainState → Nat
  | .stopped => 0
  | .priming => 1
  | .pending => 2
  | .ramping => 3
  | .settling => 4
  | .diverting => 5
  | .producing => 6
  | .stopping => 7
  | .fault => 8

/-- A window-state input: the initial value while the channel is INITIAL, else whether the state is the chosen one (R171). -/
def readWindow (now chosen : WindowState) (initial : Bool) : Bool := if now = .initial then initial else now == chosen

/-- One input of cell `n` (Table 9-2, R169 to R172), with the outputs computed so far in `h`. -/
def readInput (s : State) (permit : Bool) (h : Vector CellHistory 8) (n : Nat) (i : Input) (initial : Bool) : Bool :=
  match i with
  | .mask => false
  | .feedback => (look h CellHistory.initial n).output
  | .link => (look h CellHistory.initial (if n = 7 then 0 else n + 1)).output
  | .contact c => (s.contact c).active
  | .permit => permit
  | .level t w => readWindow (s.levelCh t).window w initial
  | .quality w => readWindow s.mch.quality.window w initial
  | .train set => set.getLsbD (trainCode s.trs.state)
  | .peer a b =>
    match s.nwtOf a with
    | some e => e.record.flags.getLsbD b
    | none => initial

/-- The entry of the truth table that three inputs select (R173, Table 9-3). -/
def tableEntry (table : Byte) (i0 i1 i2 : Bool) : Bool := table.getLsbD (4 * i0.toNat + 2 * i1.toNat + i2.toNat)

/-- The filter (R174): the history with its filtered value, previous raw and hold count. -/
def filterStep (f : Filter) (raw : Bool) (h : CellHistory) : CellHistory :=
  match f with
  | .none => { h with filtered := raw, previousRaw := raw, holdCount := 0 }
  | .sync => { h with filtered := h.previousRaw, previousRaw := raw, holdCount := 0 }
  | .hold =>
    if raw = h.filtered then { h with previousRaw := raw, holdCount := 0 }
    else if h.holdCount < 2 then { h with previousRaw := raw, holdCount := h.holdCount + 1 }
    else { h with filtered := raw, previousRaw := raw, holdCount := 0 }

/-- The edge result of the filtered value (R175). -/
def edgeResult (e : Edge) (h : CellHistory) : Bool :=
  match e with
  | .none => h.filtered
  | .risingPulse => h.filtered && !h.edgeMemory && h.primed

/-- The latch: reset is dominant (R176). -/
def latchStep (set reset latch : Bool) : Bool := if reset then false else if set then true else latch

/-- The filter, edge and latch of one cell (R174, R175, R176). `latched`: an even cell with latch set; `above`: the output of
the cell above it, completed in this evaluation. -/
def condition (p : CellProgram) (latched above raw : Bool) (h : CellHistory) : CellHistory :=
  let h := filterStep p.filter raw h
  let e := edgeResult p.edge h
  let h := { h with edgeMemory := h.filtered, primed := true }
  if latched then
    let l := latchStep e above h.latch
    { h with latch := l, output := l }
  else { h with latch := false, output := e }

/-- Cell `n` is evaluated (R168). -/
def evalCell (s : State) (permit : Bool) (n : Nat) (h : Vector CellHistory 8) : Vector CellHistory 8 :=
  let p := s.program n
  let raw := tableEntry p.table (readInput s permit h n p.in0 p.init0) (readInput s permit h n p.in1 p.init1)
    (readInput s permit h n p.in2 p.init2)
  let above := (look h CellHistory.initial (n + 1)).output
  put h n (condition p (p.latch && n % 2 == 0) above raw (look h CellHistory.initial n))

/-- One evaluation, cell 7 first and cell 0 last (R168). -/
def evaluate (permit : Bool) (s : State) : State :=
  s.setIla ([7, 6, 5, 4, 3, 2, 1, 0].foldl (fun h n => evalCell s permit n h) s.ila)

end Sys2Proof.Machine
end

