-- ==== Sys2Proof/Machine/Plans.lean ====
section
/-!
DEFINITION. Plan Store (Chapter 10): default banks, writes, swap checks and the exchange.
-/

namespace Sys2Proof.Machine

/-- Reasons of a refused PLAN-SWAP (Table 10-3). -/
inductive PlanReason
  | floorOrder | floorHigh | marks | topMargin | fillTarget
  deriving DecidableEq, Repr

/-- The swap checks on one entry, with V the capacity, in whole numbers without wrapping (Table 10-3, R183). -/
def planCheck (v : Nat) (p : PlanEntry) : Option PlanReason :=
  let f := p.floor
  if !(f.c1 ≤ f.c2 && f.c2 ≤ f.c3 && f.c3 ≤ f.c4 && f.c4 ≤ f.c5) then some .floorOrder
  else if !(f.c5 < v) then some .floorHigh
  else if !(p.low + 2 * p.hysteresis ≤ p.high) then some .marks
  else if !(p.topMargin < v) then some .topMargin
  else if !(p.fillTarget + p.topMargin ≤ v) then some .fillTarget
  else none

/-- The standby bank's entry for a tank. -/
def State.standby (s : State) (t : Nat) : PlanEntry :=
  (look (s.pls.entries (otherBank s.pls.active)) none t).getD (defaultPlan 0)

/-- The check of one tank, with the reason and the tank index when it fails. -/
def checkTank (s : State) (t : Nat) : Option (PlanReason × Nat) :=
  match s.tankSetup t with
  | some u => (planCheck u.capacity (s.standby t)).map fun r => (r, t)
  | none => none

/-- The first check that fails, tank 0 before tank 1 (R183). -/
def swapCheck (s : State) : Option (PlanReason × Nat) := (checkTank s 0).or (checkTank s 1)

/-- One bank replaced. -/
def Plans.setEntries (p : Plans) (k : Bank) (v : Vector (Option PlanEntry) 2) : Plans :=
  match k with
  | .a => { p with bankA := v }
  | .b => { p with bankB := v }

/-- The standby bank's entry for a tank replaced (R182). -/
def writeStandby (t : Nat) (e : PlanEntry) (s : State) : State :=
  let k := otherBank s.pls.active
  s.setPls (s.pls.setEntries k (put (s.pls.entries k) t (some e)))

/-- The banks exchange roles (R185). -/
def exchange (p : Plans) : Plans :=
  { p with active := otherBank p.active, generation := p.generation + 1, pending := false }

/-- The entries of a bank at RUN: the default plan for each tank set up (R180). -/
def defaultBank (tanks : Vector (Option TankSetup) 2) : Vector (Option PlanEntry) 2 :=
  let e (t : Nat) : Option PlanEntry := (look tanks none t).map fun u => defaultPlan u.capacity
  put (put (Vector.replicate 2 none) 0 (e 0)) 1 (e 1)

/-- The Plan Store at RUN (R180). -/
def Plans.atRun (tanks : Vector (Option TankSetup) 2) : Plans where
  bankA := defaultBank tanks
  bankB := defaultBank tanks
  active := .a
  generation := 0
  pending := false

/-- A pending swap is dropped without an exchange (R184, R188). -/
def dropSwap (s : State) : State := s.setPls { s.pls with pending := false }

end Sys2Proof.Machine
end

