-- ==== Sys2Proof/Machine/Flags.lean ====
section
/-!
DEFINITION. Figures and flags computed from State and held nowhere: committed totals, available, headroom, the admission test
(section 6.2), published interlock flags (R178), the status record (section 2.5), ATTN (R193) and the output pins.
-/

namespace Sys2Proof.Machine

/-! ## Tank figures (R105, R106) -/

/-- Sum of remaining over some grants. -/
def sumRemaining (g : List Grant) : Nat := (g.map (·.remaining)).sum

/-- The draw and transfer grants of classes 1 to `k`. -/
def drawsTo (k : Nat) (g : List Grant) : List Grant := g.filter fun x => x.kind != .inflow && decide (x.cls ≤ k)

/-- The inflow grants. -/
def inflows (g : List Grant) : List Grant := g.filter fun x => x.kind == .inflow

/-- C(k): remaining over the draw and transfer grants of classes 1 to `k`; C(5) is the committed draw total (R105). -/
def State.committed (s : State) (t k : Nat) : Nat := sumRemaining (drawsTo k (s.tankOf t).grants)

/-- The committed inflow total (Law 3, R105). -/
def State.committedIn (s : State) (t : Nat) : Nat := sumRemaining (inflows (s.tankOf t).grants)

/-- The larger of 0 and accepted level less floor[k] (Law 4). -/
def State.limit (s : State) (t k : Nat) : Nat := (s.levelCh t).accepted - forClass (s.plan t).floor k

/-- Capacity of a tank; 0 where it is not set up. -/
def State.capacity (s : State) (t : Nat) : Nat := ((s.tankSetup t).map (·.capacity)).getD 0

/-- The larger of 0 and capacity less top margin less accepted level (Law 5). -/
def State.room (s : State) (t : Nat) : Nat := s.capacity t - (s.plan t).topMargin - (s.levelCh t).accepted

/-- Available for class `k` (R106). -/
def State.available (s : State) (t k : Nat) : Nat := s.limit t k - s.committed t 5

/-- Headroom (R106). -/
def State.headroom (s : State) (t : Nat) : Nat := s.room t - s.committedIn t

/-- BELOW, INSIDE or ABOVE. -/
def measured : WindowState → Bool
  | .below | .inside | .above => true
  | _ => false

/-- A claim fits (R105). -/
def State.fits (s : State) (t : Nat) (kind : ClaimKind) (cls volume : Nat) : Bool :=
  measured (s.levelCh t).window && decide ((s.tankOf t).grants.length < 8) &&
    match kind with
    | .inflow => decide (volume ≤ s.headroom t) && !s.made (.overflow t)
    | _ => [1, 2, 3, 4, 5].all fun k => decide (k < cls) || decide (s.committed t k + volume + forClass (s.plan t).floor k
        ≤ (s.levelCh t).accepted)

/-! ## The status record (R37, R38, R145, R178) -/

/-- Flag `n`: the output of cell `n` when its publish setting is set, else 0 (R178). -/
def State.flag (s : State) (n : Nat) : Bool := (s.program n).publish && (s.cell n).output

/-- The eight published flags, bit `n` for cell `n` (Table 12-3). -/
def State.flags (s : State) : Byte :=
  (List.range 8).foldl (fun b n => if s.flag n then b ||| ((1 : Byte) <<< n) else b) 0

/-- The tank item of a tank (R37). -/
def State.tankItem (s : State) (t : Nat) : TankItem where
  index := t
  capacity := s.capacity t
  level := if (s.levelCh t).window = .initial then 0 else (s.levelCh t).accepted
  window := (s.levelCh t).window
  available := ⟨s.available t 1, s.available t 2, s.available t 3, s.available t 4, s.available t 5⟩
  headroom := s.headroom t
  fill := (s.tankOf t).fill

/-- The destination entry at the destination index. -/
def State.destEntry (s : State) : Option Source := s.setup.destinations[s.trs.destIndex]?

/-- The destination tank id as published: that of the destination entry in PRODUCING and DIVERTING unless the retry timer runs,
else address 0 (R145). -/
def State.destination (s : State) : TankId :=
  if (s.trs.state = .producing || s.trs.state = .diverting) && s.trs.retry.isNone then
    (s.destEntry.map (·.tank)).getD ⟨0, 0⟩
  else ⟨0, 0⟩

/-- The train group (R145). -/
def State.trainGroup (s : State) : TrainGroup where
  state := s.trs.state
  rate := s.trs.rate
  dest := s.destination
  quality := s.mch.quality.window
  unflushed := s.trs.unflushed
  pending := s.trs.state == .pending

/-- The segment item of a segment (R37). -/
def State.segItem (s : State) (i : Nat) : SegItem where
  index := i
  status :=
    match (s.segOf i).state, (s.segOf i).holder with
    | .held, some id => .held id
    | .held, none => .free
    | .free, _ => .free
    | .fault, _ => .fault

/-- The claim item of a claim (R38). -/
def claimItem (c : Claim) : ClaimItem where
  sequence := c.sequence
  kind := c.kind
  status :=
    match c.state with
    | .pathing => .pathing
    | .asking => .asking
    | .flowing => .flowing c.delivered
    | .closing => .closing c.delivered
  cls := c.cls
  tank := c.tank

/-- The status record sampled now (R37, R38, R39). -/
def State.sampleRecord (s : State) : StatusRecord where
  bank := s.pls.active
  generation := s.pls.generation
  flags := s.flags
  tanks := ((List.range 2).filter s.hasTank).map s.tankItem
  train := if s.setup.train.isSome then some s.trainGroup else none
  segments := ((List.range 4).filter s.hasSegment).map s.segItem
  claims := s.cle.list.map claimItem

/-! ## Pins -/

/-- The number of a report's kind (Table 12-7). -/
def reportKind : ReportBody → Nat
  | .contact .. => 1
  | .window .. => 2
  | .claimEnd .. => 3
  | .train .. => 4
  | .peer .. => 5
  | .plan .. => 6
  | .bus .. => 7
  | .actuator .. => 8

/-- ATTN is asserted: the ring holds a record of an enabled kind, and the station is neither held in reset nor DORMANT (R193). -/
def State.attn (s : State) : Bool :=
  !s.ident.resetLow && s.bc.busState != .dormant &&
    s.port.ring.any fun r => s.port.mask.getLsbD (reportKind r.body - 1)

/-- SBTE is asserted: a frame of this station is being sent (R1). -/
def State.sbte (s : State) : Bool := !s.ident.resetLow && s.bc.line.isSome

/-- The drive output of an actuator is asserted exactly while its command is DRIVE (R66), and released in reset (R198). -/
def State.drive (s : State) (a : Nat) : Bool := !s.ident.resetLow && (s.actOf a).command == .drive

end Sys2Proof.Machine
end

