-- ==== Sys2Proof/Machine/Frames.lean ====
section
/-!
DEFINITION. The byte layouts of Chapter 12 for the station bus: codes, the status record, messages, MARK and station frame, CRC.
-/

namespace Sys2Proof.Machine

/-! ## Codes (Table 12-5) -/

/-- The value of an enumeration that has a given code. -/
def byCode {α : Type} (all : List α) (code : α → Nat) (n : Nat) : Option α := all.find? fun a => code a == n

/-- Claim kind. -/
def kindCode : ClaimKind → Nat
  | .draw => 1
  | .transfer => 2
  | .inflow => 3

/-- Claim state. -/
def claimStateCode : ClaimState → Nat
  | .pathing => 1
  | .asking => 2
  | .flowing => 3
  | .closing => 4

/-- Window state. -/
def windowCode : WindowState → Nat
  | .initial => 0
  | .below => 1
  | .inside => 2
  | .above => 3
  | .fault => 4

/-- Fill state. -/
def fillCode : FillState → Nat
  | .idle => 0
  | .filling => 1
  | .waiting => 2

/-- Segment state. -/
def segCode : SegState → Nat
  | .free => 0
  | .held => 1
  | .fault => 2

/-- HOLD-REFUSED reason. -/
def holdReasonCode : HoldReason → Nat
  | .noSegment => 1
  | .queueFull => 2
  | .segmentOut => 3

/-- REFUSE reason. -/
def refuseCode : RefuseReason → Nat
  | .noTank => 1
  | .notReady => 2
  | .never => 3
  | .queueFull => 4

/-- END reason. -/
def endCode : EndReason → Nat
  | .done => 1
  | .revoked => 2
  | .interlock => 3
  | .valve => 4
  | .stalled => 5
  | .segmentFault => 6
  | .ownerLost => 7
  | .overflow => 8
  | .stopped => 9
  | .supply => 10
  | .timeout => 11
  | .failed => 12
  | .late => 13

/-- Bank. -/
def bankCode : Bank → Nat
  | .a => 0
  | .b => 1

def allKinds : List ClaimKind := [.draw, .transfer, .inflow]
def allClaimStates : List ClaimState := [.pathing, .asking, .flowing, .closing]
def allWindows : List WindowState := [.initial, .below, .inside, .above, .fault]
def allFills : List FillState := [.idle, .filling, .waiting]
def allSegs : List SegState := [.free, .held, .fault]
def allTrains : List TrainState :=
  [.stopped, .priming, .pending, .ramping, .settling, .diverting, .producing, .stopping, .fault]
def allHoldReasons : List HoldReason := [.noSegment, .queueFull, .segmentOut]
def allRefuses : List RefuseReason := [.noTank, .notReady, .never, .queueFull]
def allEnds : List EndReason :=
  [.done, .revoked, .interlock, .valve, .stalled, .segmentFault, .ownerLost, .overflow, .stopped, .supply, .timeout, .failed,
   .late]
def allBanks : List Bank := [.a, .b]

/-! ## Writing fields -/

/-- A number in one byte. -/
def b1 (n : Nat) : List Byte := [byteOf n]

/-- A word in two bytes, most significant first (R203). -/
def bw (w : Word) : List Byte := [hiByte w, loByte w]

/-- A number in two bytes, most significant first (R203). -/
def b2 (n : Nat) : List Byte := bw (BitVec.ofNat 16 n)

/-- A tank id (section 12.1). -/
def bTank (t : TankId) : List Byte := b1 t.station ++ b1 t.index

/-- The tank item of Table 12-3. -/
def encTank (i : TankItem) : List Byte :=
  b1 i.index ++ b2 i.capacity ++ b2 i.level ++ b1 (windowCode i.window) ++ b2 i.available.c1 ++ b2 i.available.c2 ++
    b2 i.available.c3 ++ b2 i.available.c4 ++ b2 i.available.c5 ++ b2 i.headroom ++ b1 (fillCode i.fill)

/-- The train group of Table 12-3. -/
def encTrain (g : TrainGroup) : List Byte :=
  b1 (trainCode g.state) ++ b2 g.rate ++ bTank g.dest ++ b1 (windowCode g.quality) ++
    b1 (g.unflushed.toNat + 2 * g.pending.toNat)

/-- The segment item of Table 12-3. -/
def encSeg (i : SegItem) : List Byte :=
  match i.status with
  | .free => b1 i.index ++ b1 (segCode .free)
  | .held h => b1 i.index ++ b1 (segCode .held) ++ b1 h.address ++ b1 h.incarnation ++ b1 h.sequence
  | .fault => b1 i.index ++ b1 (segCode .fault)

/-- The claim item of Table 12-3. -/
def encClaim (i : ClaimItem) : List Byte :=
  b1 i.sequence ++ b1 (kindCode i.kind) ++
    match i.status with
    | .pathing => b1 (claimStateCode .pathing) ++ b1 i.cls ++ bTank i.tank
    | .asking => b1 (claimStateCode .asking) ++ b1 i.cls ++ bTank i.tank
    | .flowing d => b1 (claimStateCode .flowing) ++ b1 i.cls ++ bTank i.tank ++ b2 d
    | .closing d => b1 (claimStateCode .closing) ++ b1 i.cls ++ bTank i.tank ++ b2 d

/-- A list with its count byte. -/
def encList {α : Type} (f : α → List Byte) (l : List α) : List Byte := b1 l.length ++ l.flatMap f

/-- The status record of Table 12-3. -/
def encRecord (r : StatusRecord) : List Byte :=
  b1 (bankCode r.bank) ++ bw r.generation ++ [r.flags] ++ encList encTank r.tanks ++
    (match r.train with
      | none => b1 0
      | some g => b1 1 ++ encTrain g) ++
    encList encSeg r.segments ++ encList encClaim r.claims

/-- A message item (Table 12-4). -/
def encMessage (m : Message) : List Byte :=
  b1 m.dest ++
    match m.body with
    | .holdReq q i c => b1 1 ++ b1 q ++ b1 i ++ b1 c
    | .holdGiven q i => b1 2 ++ b1 q ++ b1 i
    | .holdRefused q i r => b1 3 ++ b1 q ++ b1 i ++ b1 (holdReasonCode r)
    | .holdFree q i => b1 4 ++ b1 q ++ b1 i
    | .claim q k t c v => b1 5 ++ b1 q ++ b1 (kindCode k) ++ b1 t ++ b1 c ++ b2 v
    | .grant q v => b1 6 ++ b1 q ++ b2 v
    | .refuse q r => b1 7 ++ b1 q ++ b1 (refuseCode r)
    | .cancel q => b1 8 ++ b1 q
    | .revoke q => b1 9 ++ b1 q
    | .endMsg q d r => b1 10 ++ b1 q ++ b2 d ++ b1 (endCode r)

/-! ## CRC (R4, R203) -/

/-- One bit into the CRC register, generator x^16 + x^12 + x^5 + 1 (R203). -/
def crcBit (r : Word) (b : Bool) : Word := if r.getLsbD 15 != b then (r <<< 1) ^^^ 0x1021 else r <<< 1

/-- One byte into the CRC register, most significant bit first (R203). -/
def crcByte (r : Word) (x : Byte) : Word := [7, 6, 5, 4, 3, 2, 1, 0].foldl (fun r i => crcBit r (x.getLsbD i)) r

/-- The CRC of some bytes, from a register of all ones (R203). -/
def crc (l : List Byte) : Word := l.foldl crcByte 0xFFFF

/-- The bytes of a MARK (Table 12-1). The frame type stands outside the CRC (R203). -/
def encMark (round : Word) (sender : Nat) : List Byte :=
  let body := bw round ++ b1 sender
  b1 1 ++ body ++ bw (crc body)

/-- The bytes of a station frame before its CRC (Table 12-2). -/
def encBody (f : StationFrame) : List Byte :=
  b1 2 ++ b1 f.source ++ b1 f.incarnation ++ bw f.round ++ b1 f.leaving.toNat ++ encRecord f.record ++
    encList encMessage f.messages

/-- The bytes of a station frame (Table 12-2). -/
def encFrame (f : StationFrame) : List Byte := encBody f ++ bw (crc (encBody f))

/-! ## Reading fields -/

/-- A reader takes its field from the head of the bytes, or fails. -/
abbrev Reader (α : Type) : Type := List Byte → Option (α × List Byte)

/-- One byte. -/
def rByte : Reader Byte
  | [] => none
  | x :: l => some (x, l)

/-- A number in one byte. -/
def r1 : Reader Nat
  | [] => none
  | x :: l => some (x.toNat, l)

/-- A word in two bytes. -/
def rw : Reader Word
  | x :: y :: l => some (wordOf x y, l)
  | _ => none

/-- A number in two bytes. -/
def r2 : Reader Nat
  | x :: y :: l => some ((wordOf x y).toNat, l)
  | _ => none

/-- A code of an enumeration; a code outside it fails (R203). -/
def rCode {α : Type} (all : List α) (code : α → Nat) : Reader α
  | [] => none
  | x :: l => (byCode all code x.toNat).map fun a => (a, l)

/-- `n` items. -/
def rMany {α : Type} (r : Reader α) : Nat → Reader (List α)
  | 0, l => some ([], l)
  | n + 1, l => do
    let (a, l) ← r l
    let (as, l) ← rMany r n l
    some (a :: as, l)

/-- A list with its count byte, at most `limit` items (R203). -/
def rList {α : Type} (limit : Nat) (r : Reader α) : Reader (List α) := fun l => do
  let (n, l) ← r1 l
  if n ≤ limit then rMany r n l else none

/-- A tank id. -/
def rTank : Reader TankId := fun l => do
  let (s, l) ← r1 l
  let (i, l) ← r1 l
  some (⟨s, i⟩, l)

/-- The tank item of Table 12-3. -/
def decTank : Reader TankItem := fun l => do
  let (i, l) ← r1 l
  let (cap, l) ← r2 l
  let (lev, l) ← r2 l
  let (w, l) ← rCode allWindows windowCode l
  let (a1, l) ← r2 l
  let (a2, l) ← r2 l
  let (a3, l) ← r2 l
  let (a4, l) ← r2 l
  let (a5, l) ← r2 l
  let (h, l) ← r2 l
  let (f, l) ← rCode allFills fillCode l
  some (⟨i, cap, lev, w, ⟨a1, a2, a3, a4, a5⟩, h, f⟩, l)

/-- The train group of Table 12-3; unused flag bits are ignored (R203). -/
def decTrain : Reader TrainGroup := fun l => do
  let (st, l) ← rCode allTrains trainCode l
  let (rate, l) ← r2 l
  let (d, l) ← rTank l
  let (q, l) ← rCode allWindows windowCode l
  let (f, l) ← rByte l
  some (⟨st, rate, d, q, f.getLsbD 0, f.getLsbD 1⟩, l)

/-- The segment item of Table 12-3. -/
def decSeg : Reader SegItem := fun l => do
  let (i, l) ← r1 l
  let (st, l) ← rCode allSegs segCode l
  match st with
  | .free => some (⟨i, .free⟩, l)
  | .fault => some (⟨i, .fault⟩, l)
  | .held => do
    let (a, l) ← r1 l
    let (n, l) ← r1 l
    let (q, l) ← r1 l
    some (⟨i, .held ⟨a, n, q⟩⟩, l)

/-- The claim item of Table 12-3. -/
def decClaim : Reader ClaimItem := fun l => do
  let (q, l) ← r1 l
  let (k, l) ← rCode allKinds kindCode l
  let (st, l) ← rCode allClaimStates claimStateCode l
  let (c, l) ← r1 l
  let (t, l) ← rTank l
  match st with
  | .pathing => some (⟨q, k, .pathing, c, t⟩, l)
  | .asking => some (⟨q, k, .asking, c, t⟩, l)
  | .flowing => do
    let (d, l) ← r2 l
    some (⟨q, k, .flowing d, c, t⟩, l)
  | .closing => do
    let (d, l) ← r2 l
    some (⟨q, k, .closing d, c, t⟩, l)

/-- The train presence byte and the group it announces (Table 12-3). -/
def decPresence : Reader (Option TrainGroup) := fun l => do
  let (p, l) ← r1 l
  match p with
  | 0 => some (none, l)
  | 1 => do
    let (g, l) ← decTrain l
    some (some g, l)
  | _ => none

/-- The status record of Table 12-3. An active-bank byte that is neither 0 nor 1 fails the parse: R203's list does not name it, and the
bank's codes stand in Table 12-3 (assumption log 36, DESIGN CHOICE). -/
def decRecord : Reader StatusRecord := fun l => do
  let (bank, l) ← rCode allBanks bankCode l
  let (g, l) ← rw l
  let (f, l) ← rByte l
  let (tanks, l) ← rList 2 decTank l
  let (train, l) ← decPresence l
  let (segs, l) ← rList 4 decSeg l
  let (claims, l) ← rList 8 decClaim l
  some (⟨bank, g, f, tanks, train, segs, claims⟩, l)

/-- The fields of a message after its code (Table 12-4); an unknown code fails. -/
def decBody (code : Nat) : Reader MsgBody := fun l => do
  let (q, l) ← r1 l
  match code with
  | 1 => do
    let (i, l) ← r1 l
    let (c, l) ← r1 l
    some (.holdReq q i c, l)
  | 2 => do
    let (i, l) ← r1 l
    some (.holdGiven q i, l)
  | 3 => do
    let (i, l) ← r1 l
    let (r, l) ← rCode allHoldReasons holdReasonCode l
    some (.holdRefused q i r, l)
  | 4 => do
    let (i, l) ← r1 l
    some (.holdFree q i, l)
  | 5 => do
    let (k, l) ← rCode allKinds kindCode l
    let (t, l) ← r1 l
    let (c, l) ← r1 l
    let (v, l) ← r2 l
    some (.claim q k t c v, l)
  | 6 => do
    let (v, l) ← r2 l
    some (.grant q v, l)
  | 7 => do
    let (r, l) ← rCode allRefuses refuseCode l
    some (.refuse q r, l)
  | 8 => some (.cancel q, l)
  | 9 => some (.revoke q, l)
  | 10 => do
    let (d, l) ← r2 l
    let (r, l) ← rCode allEnds endCode l
    some (.endMsg q d r, l)
  | _ => none

/-- A message item (Table 12-4). -/
def decMessage : Reader Message := fun l => do
  let (d, l) ← r1 l
  let (c, l) ← r1 l
  let (b, l) ← decBody c l
  some (⟨d, b⟩, l)

/-- A MARK that passes R5: type 1, CRC equal, six bytes, sender 1..24. The answer is the round number and the sender. -/
def readMark (l : List Byte) : Option (Word × Nat) :=
  match l with
  | [ty, hi, lo, a, x, y] =>
    if ty = 1 && validAddr a.toNat && wordOf x y == crc [hi, lo, a] then some (wordOf hi lo, a.toNat) else none
  | _ => none

/-- The fields of a station frame before its CRC (Table 12-2). -/
def decFields : Reader StationFrame := fun l => do
  let (ty, l) ← r1 l
  let (a, l) ← r1 l
  let (n, l) ← r1 l
  let (r, l) ← rw l
  let (f, l) ← rByte l
  let (rec, l) ← decRecord l
  let (ms, l) ← rList 8 decMessage l
  if ty = 2 then some (⟨a, n, r, f.getLsbD 0, rec, ms⟩, l) else none

/-- A station frame that passes the CRC, the parse and the sender test of R5. Its slot is tested by the bus controller. -/
def readFrame (l : List Byte) : Option StationFrame :=
  match decFields l with
  | some (f, [x, y]) => if validAddr f.source && wordOf x y == crc (l.take (l.length - 2)) then some f else none
  | _ => none

/-- The bytes of a frame of this station as it is sent. -/
def outBytes (address : Nat) : OutFrame → List Byte
  | .mark r => encMark r address
  | .station f => encFrame f

end Sys2Proof.Machine
end

