-- ==== Sys2Proof/Machine/Segments.lean ====
section
/-!
DEFINITION. Segment Arbiter (Chapter 7): requests, gives, releases, faults, sweeps and peer events.
-/

namespace Sys2Proof.Machine

/-! ## The hold wait queue (R129) -/

/-- An entry stands before a new one of class `cls` from `addr` (R129). -/
def HoldWait.precedes (x : HoldWait) (cls addr : Nat) : Bool :=
  decide (x.cls < cls) || (x.cls == cls && (!x.fresh || decide (x.id.address ≤ addr)))

/-- A new entry takes its place (R129). -/
def insertHold (w : HoldWait) : List HoldWait → List HoldWait
  | [] => [w]
  | x :: l => if x.precedes w.cls w.id.address then x :: insertHold w l else w :: x :: l

/-- The hold wait queue replaced. -/
def State.setHoldWaits (s : State) (l : List HoldWait) : State := s.setSga { s.sga with waits := l }

/-- The first waiter of a segment (R129). -/
def State.firstWaiter (s : State) (i : Nat) : Option HoldWait := s.sga.waits.find? (·.segment == i)

/-! ## Gives, releases and faults (R131, R134, R136, R137) -/

/-- On entry to FAULT the segment's waiters leave the queue and are refused, in queue order (R136). -/
def refuseWaiters (i : Nat) (s : State) : State :=
  let out := s.sga.waits.filter (·.segment == i)
  out.foldl (fun s w => send w.id.address (.holdRefused w.id.sequence i .segmentOut) s)
    (s.setHoldWaits (s.sga.waits.filter (·.segment != i)))

/-- A give attempt for one claim (R131). -/
def giveAttempt (i : Nat) (id : ClaimId) (s : State) : State :=
  let was := (s.segOf i).state
  let s := (openRole (.segment i) s).1
  if s.commandOf (.segment i) = .drive then
    send id.address (.holdGiven id.sequence i) (s.putSeg i ⟨.held, some id, 0⟩)
  else
    let s := (closeRole (.segment i) s).1
    let s := send id.address (.holdRefused id.sequence i .segmentOut) (s.putSeg i ⟨.fault, none, 0⟩)
    if was = .fault then s else refuseWaiters i s

/-- A FAULT segment with no holder clears to FREE when its valve is CLOSED and its permissive true (R137). -/
def clearFault (i : Nat) (s : State) : State :=
  let g := s.segOf i
  let permitted :=
    match (s.actWith (.segment i)).bind s.actSetup with
    | some u => s.permitted u
    | none => true
  if g.state = .fault && g.holder.isNone && s.travelOf (.segment i) == .closed && permitted then
    s.putSeg i { g with state := .free }
  else s

/-- A hold is released: a HELD segment passes to its first waiter or stays FREE (R134), a FAULT one keeps FAULT until it clears
(R137). -/
def releaseSeg (i : Nat) (s : State) : State :=
  match (s.segOf i).state with
  | .held =>
    let s := ((closeRole (.segment i) s).1).putSeg i ⟨.free, none, 0⟩
    match s.firstWaiter i with
    | some w => giveAttempt i w.id (s.setHoldWaits (s.sga.waits.erase w))
    | none => s
  | .fault => clearFault i (closeRole (.segment i) (s.putSeg i ⟨.fault, none, 0⟩)).1
  | .free => s

/-- A segment enters FAULT with the holder it has (R135). -/
def faultSeg (i : Nat) (s : State) : State := refuseWaiters i (s.putSeg i { s.segOf i with state := .fault })

/-- A notice of a segment valve (R135, R137). -/
def segNotice (i : Nat) (k : NoticeKind) (s : State) : State :=
  match (s.segOf i).state, k with
  | .held, .stuck _ => faultSeg i s
  | .held, .interlockDrop => faultSeg i (closeRole (.segment i) s).1
  | .free, .stuck _ => faultSeg i s
  | .fault, .travelDone .closed => clearFault i s
  | _, _ => s

/-! ## Messages (R130, R133) -/

/-- A HOLD-REQ (R130, Table 7-3). A FAULT segment with no holder makes a give attempt (row 5, R131), also where R142 says that one of an
unproved valve is refused (assumption log 35, DEDUCED). -/
def takeHoldReq (id : ClaimId) (i cls : Nat) (s : State) : State :=
  let g := s.segOf i
  let answer (b : MsgBody) : State := send id.address b s
  if cls < 1 || 5 < cls then s
  else if !s.hasSegment i then answer (.holdRefused id.sequence i .noSegment)
  else if g.state = .held && g.holder == some id then answer (.holdGiven id.sequence i)
  else if s.sga.waits.any (·.id == id) then s
  else if g.state = .fault && g.holder.isSome then answer (.holdRefused id.sequence i .segmentOut)
  else if g.state = .fault || g.state = .free then giveAttempt i id s
  else if s.sga.waits.length < 8 then s.setHoldWaits (insertHold ⟨id, i, cls, s.bc.round, 0, true⟩ s.sga.waits)
  else answer (.holdRefused id.sequence i .queueFull)

/-- A HOLD-FREE (R133). -/
def takeHoldFree (id : ClaimId) (i : Nat) (s : State) : State :=
  if !s.hasSegment i then s
  else if (s.segOf i).holder == some id then releaseSeg i s
  else s.setHoldWaits (s.sga.waits.filter fun w => !(w.id == id && w.segment == i))

/-! ## Records and peer events (R138 to R140) -/

/-- A claim list shows a claim id of its sender (R138). -/
def showsClaim (claims : List ClaimItem) (id : ClaimId) : Bool := claims.any (·.sequence == id.sequence)

/-- The sweep at one hold (R139). -/
def sweepHold (src inc : Nat) (claims : List ClaimItem) (s : State) (i : Nat) : State :=
  let g := s.segOf i
  match g.holder with
  | some id =>
    if id.address = src && id.incarnation == inc then
      if showsClaim claims id then s.putSeg i { g with absentCount := 0 }
      else if g.absentCount + 1 < 2 then s.putSeg i { g with absentCount := g.absentCount + 1 }
      else releaseSeg i s
    else s
  | none => s

/-- The sweep at one queue entry: the entry that stays, if it does (R139). -/
def sweepWait (src inc : Nat) (claims : List ClaimItem) (w : HoldWait) : Option HoldWait :=
  if w.id.address = src && w.id.incarnation == inc then
    if showsClaim claims w.id then some { w with absentCount := 0 }
    else if w.absentCount + 1 < 2 then some { w with absentCount := w.absentCount + 1 }
    else none
  else some w

/-- The orphan sweep of the arbiter: queue entries first, then holds in ascending index (R139). -/
def sweepSegments (src inc : Nat) (claims : List ClaimItem) (s : State) : State :=
  (List.range 4).foldl (sweepHold src inc claims) (s.setHoldWaits (s.sga.waits.filterMap (sweepWait src inc claims)))

/-- One hold at the loss or restart of an address (R140). -/
def dropHold (a : Nat) (s : State) (i : Nat) : State :=
  match (s.segOf i).holder with
  | some id => if id.address = a then releaseSeg i s else s
  | none => s

/-- *peer lost* or *peer restarted* at the arbiter (R140). -/
def peerSegments (a : Nat) (s : State) : State :=
  (List.range 4).foldl (dropHold a) (s.setHoldWaits (s.sga.waits.filter (·.id.address != a)))

/-- A round boundary at the arbiter: entries no longer arrived in the present round (R129). -/
def boundarySegments (s : State) : State := s.setHoldWaits (s.sga.waits.map fun w => { w with fresh := false })

end Sys2Proof.Machine
end

