-- ==== Sys2Proof/Machine/Claims.lean ====
section
/-!
DEFINITION. Claim Engine, first part: the claim list, creation (section 5.2) and the requests of a claim (R81, R86, R87).
-/

namespace Sys2Proof.Machine

/-! ## The list -/

/-- The claim of a sequence, if it is in the list. -/
def State.claimOf (s : State) (seq : Nat) : Option Claim := s.cle.list.find? (·.sequence == seq)

/-- The claim list replaced. -/
def State.setClaims (s : State) (l : List Claim) : State := s.setCle { s.cle with list := l }

/-- A claim record replaced where it stands. -/
def State.putClaim (s : State) (c : Claim) : State :=
  s.setClaims (s.cle.list.map fun x => if x.sequence = c.sequence then c else x)

/-- A claim record taken out, the others keeping their order (R77). -/
def State.dropClaim (s : State) (seq : Nat) : State := s.setClaims (s.cle.list.filter (·.sequence != seq))

/-- The asked segment: the first unheld one of the path (section 5.1). -/
def Claim.asked (c : Claim) : Option SegId := c.path[c.held]?

/-- The held segments: the first held-count ones of the path (Law 6, R85). -/
def Claim.heldSegs (c : Claim) : List SegId := c.path.take c.held

/-- The role of a target's valve (R88). -/
def targetRole : Target → Role
  | .drawPort p => .outlet p
  | .fillInlet t => .fill t
  | .product => .divert
  | .flush => .flush

/-! ## Creation (R78 to R81) -/

/-- The fields a creator supplies (R79). -/
structure NewClaim where
  kind : ClaimKind
  target : Target
  tank : TankId
  cls : Nat
  volume : Nat
  wait : Nat
  path : List SegId
  creator : Creator
  deriving DecidableEq, Repr

/-- Reasons of a refused creation (Table 5-2). -/
inductive CreateReason
  | badState | badArg | noTarget | busy | full | badPath | noTank
  deriving DecidableEq, Repr

/-- The answer to a creator: the new claim's sequence, or the reason (R79). -/
inductive Created
  | ok (seq : Nat)
  | no (reason : CreateReason)
  deriving DecidableEq, Repr

/-- The kind suits the target (Table 0-5). -/
def suits : ClaimKind → Target → Bool
  | .draw, .drawPort _ => true
  | .draw, .flush => true
  | .transfer, .fillInlet _ => true
  | .inflow, .product => true
  | _, _ => false

/-- The values are in range, the kind suits the target, and a TRANSFER does not name the tank it fills (Table 5-2, row 2;
assumption log 15 for the index of the target). -/
def goodArgs (s : State) (n : NewClaim) : Bool :=
  decide (1 ≤ n.cls ∧ n.cls ≤ 5 ∧ 1 ≤ n.volume ∧ n.volume ≤ 65535 ∧ 10 ≤ n.wait ∧ n.wait ≤ 3000 ∧ n.tank.index ≤ 1 ∧
    n.path.length ≤ 4) && validAddr n.tank.station && suits n.kind n.target &&
    match n.target with
    | .drawPort p => decide (p ≤ 1)
    | .fillInlet t => decide (t ≤ 1) && n.tank != ⟨s.ident.address, t⟩
    | _ => true

/-- The target is set up (Table 5-2, row 3). -/
def State.targetSetUp (s : State) : Target → Bool
  | .drawPort p => (look s.setup.ports none p).isSome
  | .fillInlet t => s.hasTank t
  | .product => s.setup.train.isSome
  | .flush => s.setup.train.isSome

/-- Segment ids order by station first, then by index (spec/00, Identities). -/
def segLt (a b : SegId) : Bool := decide (a.station < b.station) || (a.station == b.station && decide (a.index < b.index))

/-- Strictly ascending, so with no id twice. -/
def ascending : List SegId → Bool
  | a :: b :: l => segLt a b && ascending (b :: l)
  | _ => true

/-- A segment id in range: station 1..24, index 0..3. -/
def goodSeg (g : SegId) : Bool := validAddr g.station && decide (g.index ≤ 3)

/-- Table 5-2, row 6, does not refuse the path. -/
def goodPath (p : List SegId) : Bool := ascending p && p.all goodSeg

/-- The NWT holds an entry for the tank's station whose list lacks the tank (Table 5-2, row 7). -/
def State.noSuchTank (s : State) (t : TankId) : Bool :=
  match s.nwtOf t.station with
  | some e => !e.record.tanks.any (·.index == t.index)
  | none => false

/-- The first reason of Table 5-2 whose condition holds (R80). -/
def createRefusal (s : State) (n : NewClaim) : Option CreateReason :=
  if s.bc.busState ≠ .joined then some .badState
  else if !goodArgs s n then some .badArg
  else if !s.targetSetUp n.target then some .noTarget
  else if s.cle.list.any (·.target == n.target) then some .busy
  else if 8 ≤ s.cle.list.length then some .full
  else if !goodPath n.path then some .badPath
  else if s.noSuchTank n.tank then some .noTank
  else none

/-- The first number from `n` on that no claim of the list bears, within `fuel` tries (R78). -/
def freeSeq (list : List Claim) : Nat → Nat → Nat
  | 0, n => n
  | fuel + 1, n => if list.any (·.sequence == n) then freeSeq list fuel ((n + 1) % 256) else n

/-- The present request of a claim in PATHING or ASKING: HOLD-REQ for the asked segment, or CLAIM (R81, R86). -/
def Claim.request (c : Claim) : Message :=
  match c.state, c.asked with
  | .pathing, some g => ⟨g.station, .holdReq c.sequence g.index c.cls⟩
  | _, _ => ⟨c.tank.station, .claim c.sequence c.kind c.tank.index c.cls c.volume⟩

/-- A claim offers its request and sets its repeat timer: 5, or 1 when the queue refuses (R81, R87). -/
def offerRequest (c : Claim) (s : State) : State :=
  let r := offer c.request s
  r.1.putClaim { c with repeatTimer := if r.2 then 5 else 1 }

/-- The record of a new claim (R81). -/
def freshClaim (seq : Nat) (n : NewClaim) : Claim where
  sequence := seq
  kind := n.kind
  target := n.target
  tank := n.tank
  cls := n.cls
  volume := n.volume
  path := n.path
  held := 0
  wait := n.wait
  age := 0
  repeatTimer := 5
  delivered := 0
  remainder := 0
  stall := 0
  state := if n.path.isEmpty then .asking else .pathing
  reason := none
  owner := none
  creator := n.creator

/-- A creation request (R78, R80, R81). -/
def createClaim (n : NewClaim) (s : State) : State × Created :=
  match createRefusal s n with
  | some r => (s, .no r)
  | none =>
    let seq := freeSeq s.cle.list 9 s.cle.nextSeq
    let c := freshClaim seq n
    let s := s.setCle { list := s.cle.list ++ [c], nextSeq := (seq + 1) % 256 }
    (offerRequest c s, .ok seq)

/-! ## Requests made again (R86) -/

/-- A repeat of the request of a claim whose repeat timer has reached 0 (R86). -/
def repeatRequest (seq : Nat) (s : State) : State :=
  match s.claimOf seq with
  | some c => if (c.state = .pathing || c.state = .asking) && c.repeatTimer == 0 then offerRequest c s else s
  | none => s

/-- The station's default wait limit (Table 11-2). -/
def State.defaultWait (s : State) : Nat := (s.setup.station.map (·.wait)).getD 0

/-- The fill class of a tank: SERVICE unless set (Table 6-1). -/
def State.fillClass (s : State) (t : Nat) : Nat := ((s.fillSetup t).map (·.cls)).getD 4

end Sys2Proof.Machine
end

