-- ==== Sys2Proof/Machine/Tanks.lean ====
section
/-!
DEFINITION. Tank Manager (Chapter 6): admission, the wait queue and its scan, ends, records and the orphan sweep, revocation,
level events and automatic fill.
-/

namespace Sys2Proof.Machine

/-! ## Grants and the wait queue (R104, R109, R110) -/

/-- The tank wait queue replaced. -/
def State.setTankWaits (s : State) (l : List TankWait) : State := s.setTkm { s.tkm with waits := l }

/-- The revocation memory replaced. -/
def State.setMemory (s : State) (l : List Revoked) : State := s.setTkm { s.tkm with memory := l }

/-- The grant list of a tank replaced. -/
def State.setGrants (s : State) (t : Nat) (l : List Grant) : State := s.putTank t { s.tankOf t with grants := l }

/-- An entry stands before a new one of class `cls` from `addr` (R109). -/
def TankWait.precedes (x : TankWait) (cls addr : Nat) : Bool :=
  decide (x.cls < cls) || (x.cls == cls && (!x.fresh || decide (x.id.address ≤ addr)))

/-- A new entry takes its place (R109). -/
def insertTankWait (w : TankWait) : List TankWait → List TankWait
  | [] => [w]
  | x :: l => if x.precedes w.cls w.id.address then x :: insertTankWait w l else w :: x :: l

/-- A new grant (R104). -/
def newGrant (id : ClaimId) (kind : ClaimKind) (cls volume : Nat) (round : Word) : Grant :=
  ⟨id, kind, cls, volume, 0, volume, round, 0⟩

/-- Admission: the grant joins the tail, and GRANT is offered (R104, Table 6-3 row 8). -/
def admitRequest (t : Nat) (id : ClaimId) (kind : ClaimKind) (cls volume : Nat) (s : State) : State :=
  send id.address (.grant id.sequence volume)
    (s.setGrants t ((s.tankOf t).grants ++ [newGrant id kind cls volume s.bc.round]))

/-- The scan at one entry (R110). -/
def scanEntry (s : State) (w : TankWait) : State :=
  if s.fits w.tank w.kind w.cls w.volume then
    admitRequest w.tank w.id w.kind w.cls w.volume (s.setTankWaits (s.tkm.waits.erase w))
  else s

/-- The queue scan (R110). -/
def scanQueue (s : State) : State := s.tkm.waits.foldl scanEntry s

/-! ## CLAIM, END, CANCEL (R107, R111, R112) -/

/-- The grant of a claim id in a tank's list. -/
def State.grantOf (s : State) (t : Nat) (id : ClaimId) : Option Grant := (s.tankOf t).grants.find? (·.id == id)

/-- The volume can never be given (Table 6-3, row 5). -/
def neverFits (s : State) (t : Nat) (kind : ClaimKind) (cls volume : Nat) : Bool :=
  match kind with
  | .inflow => decide (s.capacity t - (s.plan t).topMargin < volume)
  | _ => decide (s.capacity t - forClass (s.plan t).floor cls < volume)

/-- A CLAIM (R107, Table 6-3). -/
def takeClaim (id : ClaimId) (kind : ClaimKind) (t cls volume : Nat) (s : State) : State :=
  let answer (b : MsgBody) : State := send id.address b s
  if cls < 1 || 5 < cls || volume == 0 then s
  else match (s.grantOf 0 id).or (s.grantOf 1 id) with
  | some g => answer (.grant id.sequence g.volume)
  | none =>
    if s.tkm.waits.any (·.id == id) then s
    else if !s.hasTank t then answer (.refuse id.sequence .noTank)
    else if !measured (s.levelCh t).window then answer (.refuse id.sequence .notReady)
    else if neverFits s t kind cls volume then answer (.refuse id.sequence .never)
    else if s.fits t kind cls volume then admitRequest t id kind cls volume s
    else if s.tkm.waits.length < 8 then
      s.setTankWaits (insertTankWait ⟨id, t, kind, cls, volume, s.bc.round, 0, true⟩ s.tkm.waits)
    else answer (.refuse id.sequence .queueFull)

/-- Grants that satisfy `out` leave both lists. -/
def dropGrants (out : Grant → Bool) (s : State) : State :=
  let s := s.setGrants 0 ((s.tankOf 0).grants.filter fun g => !out g)
  s.setGrants 1 ((s.tankOf 1).grants.filter fun g => !out g)

/-- END and CANCEL: the grant and the queue entry of the claim id leave, its memory entry too, and the scan runs when a grant
left (R111, R112). Each message of a frame is an event of its own, with its own scan (R6, R110; assumption log 37, DESIGN CHOICE). -/
def endGrant (id : ClaimId) (s : State) : State :=
  let had := (s.grantOf 0 id).isSome || (s.grantOf 1 id).isSome
  let s := dropGrants (·.id == id) s
  let s := s.setTankWaits (s.tkm.waits.filter (·.id != id))
  let s := s.setMemory (s.tkm.memory.filter (·.id != id))
  if had then scanQueue s else s

/-! ## Revocation (R116 to R119) -/

/-- A grant taken back enters the memory, whose oldest entry leaves to make room (R119). -/
def remember (r : Revoked) (l : List Revoked) : List Revoked := (if 8 ≤ l.length then l.tail else l) ++ [r]

/-- One grant is taken back: it leaves the list, REVOKE is offered, and its id enters the memory (R116, R119). -/
def takeBack (t : Nat) (g : Grant) (s : State) : State :=
  let s := s.setGrants t ((s.tankOf t).grants.erase g)
  let r := offer ⟨g.id.address, .revoke g.id.sequence⟩ s
  r.1.setMemory (remember ⟨g.id, t, if r.2 then 5 else 0⟩ r.1.tkm.memory)

/-- The grant to be taken back for class `k`: highest class number, then newest, with remaining above 0 (R117). -/
def victim (k : Nat) (l : List Grant) : Option Grant :=
  (drawsTo k l).foldl
    (fun best g =>
      if g.remaining = 0 then best
      else match best with
        | some b => if b.cls ≤ g.cls then some g else best
        | none => some g) none

/-- Draws and transfers are taken back while C(k) is too great (R117). A list holds at most 8 grants. -/
def revokeClass (t k : Nat) : Nat → State → State
  | 0, s => s
  | fuel + 1, s =>
    if s.limit t k < s.committed t k then
      match victim k (s.tankOf t).grants with
      | some g => revokeClass t k fuel (takeBack t g s)
      | none => s
    else s

/-- The newest inflow grant with remaining above 0 (R118). -/
def newestInflow (l : List Grant) : Option Grant := (inflows l).reverse.find? fun g => decide (0 < g.remaining)

/-- Inflows are taken back while the committed inflow total is too great (R118). -/
def revokeInflow (t : Nat) : Nat → State → State
  | 0, s => s
  | fuel + 1, s =>
    if s.room t < s.committedIn t then
      match newestInflow (s.tankOf t).grants with
      | some g => revokeInflow t fuel (takeBack t g s)
      | none => s
    else s

/-- The grants a list can hold (R104); also the most that one run takes back. -/
def grantLimit : Nat := 8

/-- A revocation run (R116): k from 5 down to 1, then inflows. -/
def revocationRun (t : Nat) (s : State) : State :=
  revokeInflow t grantLimit ([5, 4, 3, 2, 1].foldl (fun s k => revokeClass t k grantLimit s) s)

/-! ## Records and lost claimants (R113 to R115, R119) -/

/-- The item of a claim list that shows a claim against a tank of this station (R113). -/
def shownItem (own : Nat) (claims : List ClaimItem) (id : ClaimId) (t : Nat) : Option ClaimItem :=
  claims.find? fun i => i.sequence == id.sequence && i.tank == ⟨own, t⟩

/-- The delivered litres an item carries. -/
def deliveredOf (i : ClaimItem) : Option Nat :=
  match i.status with
  | .flowing d => some d
  | .closing d => some d
  | _ => none

/-- A grant after a record of its claimant: delivered and absent count; `none` when the sweep removes it (R113, R114). -/
def examineGrant (own src inc : Nat) (claims : List ClaimItem) (t : Nat) (g : Grant) : Option Grant :=
  if g.id.address = src && g.id.incarnation == inc then
    match shownItem own claims g.id t with
    | some i =>
      match deliveredOf i with
      | some d =>
        if g.delivered < d then some { g with delivered := d, remaining := g.volume - d, absentCount := 0 }
        else some { g with absentCount := 0 }
      | none => some { g with absentCount := 0 }
    | none => if g.absentCount + 1 < 2 then some { g with absentCount := g.absentCount + 1 } else none
  else some g

/-- A queue entry after a record of its claimant; `none` when the sweep removes it (R114). -/
def examineWait (own src inc : Nat) (claims : List ClaimItem) (w : TankWait) : Option TankWait :=
  if w.id.address = src && w.id.incarnation == inc then
    match shownItem own claims w.id w.tank with
    | some _ => some { w with absentCount := 0 }
    | none => if w.absentCount + 1 < 2 then some { w with absentCount := w.absentCount + 1 } else none
  else some w

/-- A memory entry after a record of its claimant (R119): it stays, with REVOKE offered again where its timer is 0, or leaves. -/
def examineMemory (src inc : Nat) (claims : List ClaimItem) (m : Revoked) (s : State) : State × Option Revoked :=
  if m.id.address = src && m.id.incarnation == inc then
    match shownItem s.ident.address claims m.id m.tank with
    | some ⟨_, _, .flowing _, _, _⟩ =>
      if m.timer = 0 then
        let r := offer ⟨m.id.address, .revoke m.id.sequence⟩ s
        (r.1, some { m with timer := if r.2 then 5 else 0 })
      else (s, some m)
    | _ => (s, none)
  else (s, some m)

/-- The memory entries after a record, each by itself (R119), the oldest first (assumption log 32, DESIGN CHOICE). -/
def examineEntries (src inc : Nat) (claims : List ClaimItem) : List Revoked → State → State × List Revoked
  | [], s => (s, [])
  | m :: l, s =>
    let r := examineMemory src inc claims m s
    let k := examineEntries src inc claims l r.1
    (k.1, r.2.toList ++ k.2)

/-- The revocation memory after a record (R119). -/
def examineRevoked (src inc : Nat) (claims : List ClaimItem) (s : State) : State :=
  let r := examineEntries src inc claims s.tkm.memory s
  r.1.setMemory r.2

/-- A status record at the Tank Manager (R113, R114, R119): the scan runs when a remaining fell or anything was removed. The
memory's entries are examined, and their REVOKEs offered, oldest first (assumption log 32, DESIGN CHOICE). -/
def recordTanks (src inc : Nat) (claims : List ClaimItem) (s : State) : State :=
  let own := s.ident.address
  let g0 := (s.tankOf 0).grants
  let g1 := (s.tankOf 1).grants
  let h0 := g0.filterMap (examineGrant own src inc claims 0)
  let h1 := g1.filterMap (examineGrant own src inc claims 1)
  let w := s.tkm.waits.filterMap (examineWait own src inc claims)
  let changed := decide (h0.length < g0.length) || decide (h1.length < g1.length) ||
    decide (w.length < s.tkm.waits.length) || decide (sumRemaining h0 < sumRemaining g0) ||
    decide (sumRemaining h1 < sumRemaining g1)
  let s := ((s.setGrants 0 h0).setGrants 1 h1).setTankWaits w
  let s := examineRevoked src inc claims s
  if changed then scanQueue s else s

/-- *peer lost* or *peer restarted* at the Tank Manager, the queue scan apart (R115). -/
def peerTanks (a : Nat) (s : State) : State :=
  let s := dropGrants (·.id.address == a) s
  let s := s.setTankWaits (s.tkm.waits.filter (·.id.address != a))
  s.setMemory (s.tkm.memory.filter (·.id.address != a))

/-! ## Automatic fill (R122 to R125) -/

/-- Automatic fill is set up (R122). -/
def State.autoFill (s : State) (t : Nat) : Bool :=
  s.hasTank t && ((s.fillSetup t).map fun f => !f.sources.isEmpty).getD false

/-- The conditions of an attempt (R123). -/
def State.mayFill (s : State) (t : Nat) : Bool :=
  s.autoFill t && s.bc.busState == .joined && (s.tankOf t).fill != .filling && (s.levelCh t).window == .below &&
    !s.made (.overflow t) && !s.cle.list.any (·.target == .fillInlet t)

/-- What an eligible source publishes as available for a class; `none` when it is not eligible (R124). -/
def eligible (s : State) (t : Nat) (i : Nat) (src : Source) : Option Nat :=
  if look (s.tankOf t).skips 0 i = 0 then
    match s.nwtOf src.tank.station with
    | some e =>
      if e.stale then none
      else
        match e.record.tanks.find? (·.index == src.tank.index) with
        | some it =>
          if it.window = .inside || it.window = .above then some (forClass it.available (s.fillClass t)) else none
        | none => none
    | none => none
  else none

/-- The first eligible entry that has the volume wanted (R124). -/
def firstEnough (wanted : Nat) (l : List (Nat × Source × Option Nat)) : Option (Nat × Source × Nat) :=
  (l.find? fun x => match x.2.2 with
    | some a => decide (wanted ≤ a)
    | none => false).map fun x => (x.1, x.2.1, wanted)

/-- The eligible entry with the largest figure of at least 100 L, the earlier of two equal (R124). -/
def largest (l : List (Nat × Source × Option Nat)) : Option (Nat × Source × Nat) :=
  l.foldl
    (fun best x =>
      match x.2.2 with
      | some a =>
        if a < 100 then best
        else match best with
          | some b => if b.2.2 < a then some (x.1, x.2.1, a) else best
          | none => some (x.1, x.2.1, a)
      | none => best) none

/-- The source chosen, with its volume (R124). -/
def chooseSource (s : State) (t wanted : Nat) : Option (Nat × Source × Nat) :=
  let srcs := ((s.fillSetup t).map (·.sources)).getD []
  let l := (List.range srcs.length).zip srcs |>.map fun x => (x.1, x.2, eligible s t x.1 x.2)
  (firstEnough wanted l).or (largest l)

/-- The claim an attempt asks for (R125). -/
def fillClaim (s : State) (t : Nat) (src : Source) (volume : Nat) (creator : Creator) : NewClaim :=
  ⟨.transfer, .fillInlet t, src.tank, s.fillClass t, volume, s.defaultWait, src.path, creator⟩

/-- The claim of an attempt is asked, and its answer taken (R125). -/
def askFill (t i : Nat) (src : Source) (volume : Nat) (s : State) : State :=
  let r := createClaim (fillClaim s t src volume .fill) s
  let x := r.1.tankOf t
  match r.2 with
  | .ok _ => r.1.putTank t { x with fill := .filling, live := some i }
  | .no .noTank => r.1.putTank t { x with fill := .waiting, skips := put x.skips i 50 }
  | .no .badPath => r.1.putTank t { x with fill := .waiting, skips := put x.skips i 50 }
  | .no _ => r.1.putTank t { x with fill := .waiting }

/-- A fill attempt (R123 to R125). -/
def attemptFill (t : Nat) (s : State) : State :=
  if s.mayFill t then
    let s := s.putTank t { s.tankOf t with retry := 50 }
    let wanted := (s.plan t).fillTarget - (s.levelCh t).accepted
    if wanted < 1 then s.putTank t { s.tankOf t with fill := .idle }
    else
      match chooseSource s t wanted with
      | some (i, src, volume) => askFill t i src volume s
      | none => s.putTank t { s.tankOf t with fill := .waiting }
  else s

/-- The level has left BELOW: WAITING becomes IDLE, and the retry timer 0 (R122). -/
def leaveBelow (t : Nat) (s : State) : State :=
  let x := s.tankOf t
  s.putTank t { x with fill := if x.fill = .waiting then .idle else x.fill, retry := 0 }

/-- Automatic fill takes a level event (R121 step 3, R122, R123). -/
def fillEvent (t : Nat) (before after : WindowState) (s : State) : State :=
  if before = .below && after != .below then leaveBelow t s
  else if after = .below && before != .below then attemptFill t s
  else s

/-- The level event that awaits this one replaced. -/
def State.setLate (s : State) (e : Option LevelEvent) : State := s.setTkm { s.tkm with late := e }

/-- A reading of a tank's channel is complete and not yet taken: it completed at the same tick (R42). -/
def State.readingPends (s : State) (t : Nat) : Bool := readingDone (s.levelExp t) (s.levelCh t)

/-- Automatic fill takes a level event that awaited another, if there is one (R121 step 3). -/
def fillLate (s : State) : State :=
  match s.tkm.late with
  | some e => fillEvent e.tank e.before e.after (s.setLate none)
  | none => s

/-- The queue scan after the level events of one instant, and automatic fill in their order (R110, R121 steps 2 and 3). -/
def scanAndFill (t : Nat) (before after : WindowState) (s : State) : State := fillEvent t before after (fillLate (scanQueue s))

/-- A level event at the Tank Manager in JOINED and HOLDING (R121). `run`: a valid reading. The scan runs once, after both readings
of a tick (R110). -/
def levelEvent (t : Nat) (run : Bool) (before after : WindowState) (s : State) : State :=
  if s.serving then
    let s := if run then revocationRun t s else s
    if s.readingPends (1 - t) then s.setLate (some ⟨t, before, after⟩) else scanAndFill t before after s
  else s

/-- A completed level reading, whole (R50). -/
def levelReading (t : Nat) (s : State) : State :=
  match look s.setup.levels none t with
  | some u =>
    if readingDone (some u.n) (s.levelCh t) then
      let before := (s.levelCh t).window
      let valid := !(s.levelCh t).rail
      let s := completeLevel t u s
      levelEvent t valid before (s.levelCh t).window s
    else s
  | none => s

/-- *plan swapped* at one tank, as far as the revocation run (R47, R121, R186). -/
def swapTank (t : Nat) (s : State) : State :=
  if s.hasTank t then
    let s' := reclassify t s
    if measured (s.levelCh t).window then revocationRun t s' else s'
  else s

/-- Automatic fill takes the swap event of one tank (R121 step 3). -/
def swapFill (t : Nat) (before : WindowState) (s : State) : State :=
  if s.hasTank t then fillEvent t before (s.levelCh t).window s else s

/-- *plan swapped* at both tanks: their runs, then one queue scan for the swap, then automatic fill (R110, R121, R186). Tank 0 comes
before tank 1 in the reclassifications and their WINDOW reports, the runs and their REVOKEs, and the fill attempts (R50, R186: either may
come first; assumption log 32, DESIGN CHOICE). -/
def planSwapped (s : State) : State :=
  swapFill 1 (s.levelCh 1).window (swapFill 0 (s.levelCh 0).window (scanQueue (swapTank 1 (swapTank 0 s))))

/-- The exchange of a pending swap, its PLAN report, and *plan swapped* (R185, R186). The PLAN record joins the ring before the WINDOW
records of cause SWAP: R192 lets records of several blocks at one instant join in whichever order (assumption log 32, DESIGN CHOICE). -/
def planExchange (s : State) : State :=
  if s.pls.pending && s.serving then
    let s := s.setPls (exchange s.pls)
    planSwapped (report (.plan s.pls.active s.pls.generation) s)
  else s

/-! ## Boundaries and outcomes (R119, R122, R126) -/

/-- The timers of a tank at a boundary (R122). -/
def tankTimers (x : TankState) : TankState :=
  { x with retry := x.retry - 1, skips := put (put (put x.skips 0 (look x.skips 0 0 - 1)) 1 (look x.skips 0 1 - 1)) 2
             (look x.skips 0 2 - 1) }

/-- An attempt is due at this boundary (R123). -/
def fillDue (t : Nat) (s : State) : State :=
  dueIf (decide ((s.tankOf t).retry = 0) && s.mayFill t) (.fillRetry t) s

/-- A round boundary at the Tank Manager: timers, and the end of the entries' same round (R109, R119, R122). -/
def boundaryTanks (s : State) : State :=
  let s := s.putTank 0 (tankTimers (s.tankOf 0))
  let s := s.putTank 1 (tankTimers (s.tankOf 1))
  let s := s.setMemory (s.tkm.memory.map fun m => { m with timer := m.timer - 1 })
  s.setTankWaits (s.tkm.waits.map fun w => { w with fresh := false })

/-- The outcomes that make a fill source be passed over (R126). -/
def skipsSource : EndReason → Bool
  | .failed | .timeout | .revoked => true
  | _ => false

/-- The outcome of a FILL claim (R126). -/
def fillOutcome (t : Nat) (reason : EndReason) (s : State) : State :=
  let x := s.tankOf t
  match x.live with
  | some i =>
    s.putTank t { x with fill := .idle, live := none, skips := if skipsSource reason then put x.skips i 50 else x.skips }
  | none => s.putTank t { x with fill := .idle }

end Sys2Proof.Machine
end

