-- ==== Sys2Proof/Machine/Outcomes.lean ====
section
/-!
DEFINITION. Train Sequencer, first part: changes of train state, the train's claims and what their outcomes do
(R145, R151, R153, R154, R160, R161), as far as they need no claim to be ended.
-/

namespace Sys2Proof.Machine

/-! ## Changes of train state (Table 8-1, R145, R155) -/

/-- PRODUCING or DIVERTING: the states in which the rate is measured (R155). -/
def rated : TrainState → Bool
  | .producing | .diverting => true
  | _ => false

/-- The marginal timer runs in this state and cause (R156). -/
def watched (st : TrainState) (dc : DivertCause) : Bool :=
  st == .producing || (st == .diverting && dc == .noDestination)

/-- The train's fields after a change to a state and causes: a cause is held in its own state only (Table 8-2), the marginal
timer in the watched states only (R156), the good timer in a quality diversion only (assumption log 30), the rate in the
rated states only (R155). -/
def changed (st : TrainState) (dc : DivertCause) (fc : FaultCause) (sc : StopCause) (t : Train) : Train :=
  { t with
    state := st
    divertCause := dc
    faultCause := fc
    stopCause := sc
    marginal := if watched st dc then t.marginal else none
    good := if dc = .quality then t.good else none
    productCount := if rated st then t.productCount else 0
    rateTimer := if rated st then t.rateTimer else 0
    rate := if rated st then t.rate else 0 }

/-- The train changes state, or divert cause within DIVERTING; the TRAIN report follows (R145). -/
def changeTrain (st : TrainState) (dc : DivertCause) (fc : FaultCause) (sc : StopCause) (s : State) : State :=
  s.setTrs (changed st dc fc sc s.trs)

/-- The TRAIN report of a change from the state `before`: state, causes, destination and unflushed mark as they stand now (R145). -/
def tellTrain (before : TrainState) (s : State) : State :=
  report (.train before s.trs.state s.trs.divertCause s.trs.faultCause s.trs.stopCause s.destination s.trs.unflushed) s

/-- The train changes state, or divert cause within DIVERTING, and makes its TRAIN report (R145). -/
def enterTrain (st : TrainState) (dc : DivertCause) (fc : FaultCause) (sc : StopCause) (s : State) : State :=
  tellTrain s.trs.state (changeTrain st dc fc sc s)

/-- DIVERTING with a cause. -/
def toDiverting (dc : DivertCause) (s : State) : State := enterTrain .diverting dc .none .none s

/-- Every timer at 0, stopped or none (R160, R163, Table 8-6). -/
def stillTimers (t : Train) : Train :=
  { t with phase := 0, hold := 0, settle := 0, marginal := none, sensor := none, diversion := 0, good := none, permit := 0,
           retry := none }

/-- The Train Sequencer's fields changed by a function. -/
def State.mapTrs (s : State) (f : Train → Train) : State := s.setTrs (f s.trs)

/-! ## The end of STOPPING (R161) -/

/-- STOPPING ends when the flush has an outcome and both pumps are STOPPED; a flush DONE clears the unflushed mark and FAILED
sets it (R161). -/
def tryStopped (s : State) : State :=
  if s.trs.state = .stopping && (s.trs.flushResult == .done || s.trs.flushResult == .failed) &&
      s.travelOf .feed == .closed && s.travelOf .highpress == .closed then
    enterTrain .stopped .none .none .none
      (s.mapTrs fun t => { t with unflushed := t.flushResult == .failed, flushResult := .none })
  else s

/-! ## Entry to STOPPING, in two parts (R160) -/

/-- Steps 1 and 2: HIGHPRESS off, DIVERT to reject. The notices of DIVERT go to the claim engine too. -/
def stopFirst (s : State) : State × List Notice := closeRole .divert (closeRole .highpress s).1

/-- The flush claim (R160 step 5): class SERVICE. -/
def flushClaim (s : State) (u : TrainSetup) : NewClaim :=
  ⟨.draw, .flush, u.flushTank, 4, u.flushVolume, s.defaultWait, u.flushPath, .train⟩

/-- Steps 5 and 6 of R160. -/
def askFlush (cause : StopCause) (s : State) : State :=
  match cause, s.setup.train with
  | .supply, _ => s.mapTrs fun t => { t with flushResult := .failed }
  | _, some u =>
    let r := createClaim (flushClaim s u) s
    match r.2 with
    | .ok q => r.1.mapTrs fun t => { t with flush := some q, flushResult := .pending }
    | .no _ => r.1.mapTrs fun t => { t with flushResult := .failed }
  | _, none => s.mapTrs fun t => { t with flushResult := .failed }

/-- Steps 4 to 6, the timers, and the test of R161 (R160). -/
def stopLast (cause : StopCause) (s : State) : State :=
  tryStopped ((askFlush cause (closeRole .feed s).1).mapTrs stillTimers)

/-! ## The next inflow claim (R151, R153, R154) -/

/-- The retry wait starts (R154). -/
def retryWait (keepIndex : Bool) (s : State) : State :=
  s.mapTrs fun t => { t with passCount := 0, destIndex := if keepIndex then t.destIndex else 0, retry := some 0 }

/-- R151 allows an inflow claim. -/
def State.mayAsk (s : State) : Bool :=
  s.trs.state == .diverting && s.trs.divertCause == .noDestination && s.trs.inflow.isNone && s.trs.retry.isNone

/-- The inflow claim for a destination (R151): 2000 L. -/
def inflowClaim (s : State) (u : TrainSetup) (d : Source) : NewClaim :=
  ⟨.inflow, .product, d.tank, u.inflowClass, 2000, s.defaultWait, d.path, .train⟩

/-- The pass count rises by one (R153). -/
def failOnce (s : State) : State := s.mapTrs fun t => { t with passCount := t.passCount + 1 }

/-- The destination index moves to the next entry, from the last back to the first (R153). -/
def nextDest (s : State) : State :=
  s.mapTrs fun t => { t with destIndex := (t.destIndex + 1) % max 1 s.setup.destinations.length }

/-- Every destination entry has failed in this pass (R153). -/
def State.passOver (s : State) : Bool := decide (s.setup.destinations.length ≤ s.trs.passCount)

/-- The next inflow claim is asked, if R151 allows it; a refused creation counts as a failed destination (R151, R153). A pass
has at most three entries, which bounds the tries. -/
def askNext : Nat → State → State
  | 0, s => s
  | fuel + 1, s =>
    if s.mayAsk then
      match s.setup.train, s.destEntry with
      | some u, some d =>
        let r := createClaim (inflowClaim s u d) s
        match r.2 with
        | .ok q => r.1.mapTrs fun t => { t with inflow := some q }
        | .no _ =>
          let s := failOnce r.1
          if s.passOver then retryWait false s else askNext fuel (nextDest s)
      | _, _ => s
    else s

/-- The tries one pass can take. -/
def passTries : Nat := 4

/-- DIVERTING with cause NO-DESTINATION, the next claim asked, and then the TRAIN report, whose destination is the one that will be
published (R145, R150, R151, R157). -/
def divertAndAsk (s : State) : State :=
  tellTrain s.trs.state (askNext passTries (changeTrain .diverting .noDestination .none .none s))

/-- STOPPING with cause REVOKED, entered at an outcome, when no inflow claim is left to stop (R153, R159, R160). -/
def stopRevoked (s : State) : State :=
  stopLast .revoked (stopFirst (enterTrain .stopping .none .none .revoked s)).1

/-- A failed destination ends the pass (R153). -/
def State.lastFailure (s : State) : Bool := (failOnce s).passOver

/-- The pass is over by a REVOKED outcome: the train stops (R153). -/
def stopsTrain (reason : EndReason) (s : State) : Bool := reason == .revoked && s.lastFailure

/-- A failed destination: pass count, destination index and retry wait, and the next claim (R153). -/
def failedDest (reason : EndReason) (s : State) : State :=
  let t := failOnce s
  if stopsTrain reason s then t
  else if s.lastFailure then retryWait false t
  else askNext passTries (nextDest t)

/-- Table 8-4, in PRODUCING and DIVERTING, as far as the entry to STOPPING. -/
def inflowEffect (reason : EndReason) (s : State) : State :=
  match reason with
  | .supply => s
  | .done => askNext passTries (s.mapTrs fun t => { t with passCount := 0 })
  | .stopped =>
    if s.trs.ownStop then askNext passTries (s.mapTrs fun t => { t with ownStop := false })
    else retryWait true s
  | r => failedDest r s

/-- An outcome other than SUPPLY ends PRODUCING: the train enters DIVERTING with cause NO-DESTINATION, before any next claim is asked
(R153). -/
def leavesProducing (reason : EndReason) (s : State) : Bool := s.trs.state == .producing && reason != .supply

/-- An outcome in PRODUCING and DIVERTING (Table 8-4). The report of a change to DIVERTING is made when the destination index and the
retry wait stand as they will be published (R145), and before that of a change to STOPPING (assumption log 10, DESIGN CHOICE). -/
def runningOutcome (reason : EndReason) (s : State) : State :=
  let t :=
    if leavesProducing reason s then
      tellTrain .producing (inflowEffect reason (changeTrain .diverting .noDestination .none .none s))
    else inflowEffect reason s
  if stopsTrain reason s then stopRevoked t else t

/-- The outcome of the inflow claim (R153, R161, R163). -/
def inflowOutcome (reason : EndReason) (s : State) : State :=
  let s := s.mapTrs fun t => { t with inflow := none }
  match s.trs.state with
  | .fault => s
  | .producing | .diverting => runningOutcome reason s
  | _ => s.mapTrs fun t => { t with ownStop := false }

/-- The outcome of the flush claim (R161). -/
def flushOutcome (reason : EndReason) (s : State) : State :=
  let s := s.mapTrs fun t => { t with flush := none }
  if s.trs.state = .stopping then
    tryStopped (s.mapTrs fun t => { t with flushResult := if reason = .done then .done else .failed })
  else s

/-- An outcome of a claim of the train; one that finds no such claim recorded changes nothing (R153, R161). -/
def trainOutcome (seq : Nat) (target : Target) (reason : EndReason) (s : State) : State :=
  match target with
  | .product => if s.trs.inflow = some seq then inflowOutcome reason s else s
  | .flush => if s.trs.flush = some seq then flushOutcome reason s else s
  | _ => s

/-- A claim's outcome reaches its creator (R82). For a PORT claim the outcome is the report itself. -/
def handOutcome (c : Claim) (reason : EndReason) (s : State) : State :=
  match c.creator, c.target with
  | .port, _ => s
  | .fill, .fillInlet t => fillOutcome t reason s
  | .fill, _ => s
  | .train, g => trainOutcome c.sequence g reason s

end Sys2Proof.Machine
end

