-- ==== Sys2Proof/Machine/ClaimFlow.lean ====
section
/-!
DEFINITION. Claim Engine, second part: how claims end (sections 5.3 and 5.8), notices, records, peer events, boundaries.
-/

namespace Sys2Proof.Machine

/-! ## Leaving the list (R82) -/

/-- HOLD-FREE for each of some segments, in path order (R82). -/
def freeSegs (seq : Nat) (l : List SegId) (s : State) : State :=
  l.foldl (fun s g => send g.station (.holdFree seq g.index) s) s

/-- The reason is FAILED by a REFUSE. -/
def byRefuse (c : Claim) : Bool :=
  match c.reason, c.owner with
  | some .failed, some (.refuse _) => true
  | _, _ => false

/-- The reason is FAILED by a HOLD-REFUSED. -/
def byHoldRefused (c : Claim) : Bool :=
  match c.reason, c.owner with
  | some .failed, some (.hold _) => true
  | _, _ => false

/-- The reason of a claim that ends. -/
def Claim.endReason (c : Claim) : EndReason := c.reason.getD .stopped

/-- The final messages, in the order R82 gives for the state the claim leaves from. -/
def finalMessages (c : Claim) (s : State) : State :=
  match c.state with
  | .pathing =>
    let s := freeSegs c.sequence c.heldSegs s
    if byHoldRefused c then s else freeSegs c.sequence c.asked.toList s
  | .asking =>
    freeSegs c.sequence c.heldSegs (if byRefuse c then s else send c.tank.station (.cancel c.sequence) s)
  | _ => freeSegs c.sequence c.heldSegs (send c.tank.station (.endMsg c.sequence c.delivered c.endReason) s)

/-- The state a claim ended from, when it leaves the list: one that leaves from CLOSING ended from FLOWING (R82, Table 5-3). -/
def endedFrom : ClaimState → ClaimState
  | .closing => .flowing
  | st => st

/-- A claim leaves the list: final messages, CLAIM-END report, removal, outcome (R82; assumption log 11 for the removal). -/
def leaveList (c : Claim) (s : State) : State :=
  let s := report (.claimEnd c (endedFrom c.state)) (finalMessages c s)
  handOutcome c c.endReason (s.dropClaim c.sequence)

/-- FLOWING to CLOSING with a reason: the valve's close request, and the end of closing at once when it is CLOSED (R94). -/
def toClosing (c : Claim) (reason : EndReason) (s : State) : State :=
  let c := { c with state := .closing, reason := some reason }
  let s := (closeRole (targetRole c.target) (s.putClaim c)).1
  if s.travelOf (targetRole c.target) = .closed then leaveList c s else s

/-- A cause that ends a claim, by its state (R83). -/
def endClaim (c : Claim) (reason : EndReason) (owner : Option OwnerReason) (s : State) : State :=
  match c.state with
  | .flowing => toClosing c reason s
  | .closing => s
  | _ => leaveList { c with reason := some reason, owner := owner } s

/-- A cause that ends the claim of a sequence, if it is in the list. -/
def endSeq (reason : EndReason) (s : State) (seq : Nat) : State :=
  match s.claimOf seq with
  | some c => endClaim c reason none s
  | none => s

/-- The sequences of the claims that satisfy a condition, in list order (R77). -/
def State.seqsWhere (s : State) (p : Claim → Bool) : List Nat := (s.cle.list.filter p).map (·.sequence)

/-- A cause that ends several claims takes them in list order (R77). They are those of the list as it stood at the cause: a claim that the
train creates at the outcome of one of them is not reached by it (R99; assumption log 37, DESIGN CHOICE). -/
def endWhere (p : Claim → Bool) (reason : EndReason) (s : State) : State := (s.seqsWhere p).foldl (endSeq reason) s

/-! ## Causes (R91, R97 to R100) -/

/-- Every claim is stopped with reason SUPPLY (R91). -/
def stopAll (s : State) : State := endWhere (fun _ => true) .supply s

/-- The claim depends on a station (R99). -/
def dependsOn (a : Nat) (c : Claim) : Bool :=
  c.tank.station == a || c.heldSegs.any (·.station == a) ||
    (c.state == .pathing && (c.asked.map (·.station)) == some a)

/-- *peer lost* or *peer restarted* at the claim engine (R99). -/
def peerClaims (a : Nat) (s : State) : State := endWhere (dependsOn a) .ownerLost s

/-- A record shows FAULT for a segment (R98). -/
def showsFault (items : List SegItem) (i : Nat) : Bool := items.any fun x => x.index == i && x.status == .fault

/-- A status record from `src` at the claim engine (R98). -/
def recordClaims (src : Nat) (items : List SegItem) (s : State) : State :=
  endWhere (fun c => c.heldSegs.any fun g => g.station == src && showsFault items g.index) .segmentFault s

/-- The overflow notice for a fill inlet (R100). -/
def overflowClaims (t : Nat) (s : State) : State :=
  endWhere (fun c => c.kind == .transfer && c.target == .fillInlet t) .overflow s

/-- A notice of a target valve at a claim (R97). -/
def claimNotice (c : Claim) (k : NoticeKind) (s : State) : State :=
  match c.state, k with
  | .flowing, .interlockDrop => toClosing c .interlock s
  | .flowing, .permissiveDenied => toClosing c .interlock s
  | .flowing, .stuck _ => toClosing c .valve s
  | .flowing, .travelDone .opened => s.putClaim { c with stall := 0 }
  | .closing, .travelDone .closed => leaveList c s
  | .closing, .stuck _ => leaveList c s
  | _, _ => s

/-- A notice at the claim engine: for the claim in FLOWING or CLOSING whose target the valve is (R97). -/
def cleNotice (n : Notice) (s : State) : State :=
  match s.cle.list.find? fun c => targetRole c.target == n.role && (c.state == .flowing || c.state == .closing) with
  | some c => claimNotice c n.kind s
  | none => s

/-- Some notices at the claim engine, in order. -/
def cleNotices (l : List Notice) (s : State) : State := l.foldl (fun s n => cleNotice n s) s

/-! ## Messages that end or advance a claim, GRANT apart (R85, R89, R96, R101) -/

/-- A HOLD-GIVEN (R84, R85, R101). -/
def takeHoldGiven (src seq i : Nat) (s : State) : State :=
  let g : SegId := ⟨src, i⟩
  match s.claimOf seq with
  | some c =>
    if c.state = .pathing && c.asked == some g then
      let c := { c with held := c.held + 1 }
      offerRequest { c with state := if c.held = c.path.length then .asking else .pathing } s
    else if c.heldSegs.contains g then s
    else send src (.holdFree seq i) s
  | none => send src (.holdFree seq i) s

/-- A HOLD-REFUSED (R89). -/
def takeHoldRefused (src seq i : Nat) (r : HoldReason) (s : State) : State :=
  match s.claimOf seq with
  | some c =>
    if c.state = .pathing && c.asked == some ⟨src, i⟩ then endClaim c .failed (some (.hold r)) s else s
  | none => s

/-- A REFUSE (R89). -/
def takeRefuse (src seq : Nat) (r : RefuseReason) (s : State) : State :=
  match s.claimOf seq with
  | some c => if c.tank.station = src && c.state == .asking then endClaim c .failed (some (.refuse r)) s else s
  | none => s

/-- A REVOKE (R96). -/
def takeRevoke (src seq : Nat) (s : State) : State :=
  match s.claimOf seq with
  | some c => if c.tank.station = src && c.state == .flowing then toClosing c .revoked s else s
  | none => s

/-! ## Metering (R92, R95, R155) -/

/-- The targets a meter input serves, in the order in which they count (R92). -/
def meterTargets (input : Nat) : List Target :=
  match input with
  | 0 => [.drawPort 0]
  | 1 => [.drawPort 1]
  | 2 => [.fillInlet 0]
  | 3 => [.fillInlet 1]
  | 4 => [.product, .flush]
  | _ => []

/-- The pulse weight of a meter input, in decilitres (R92, Table 11-2). -/
def State.weight (s : State) (input : Nat) : Nat :=
  match input with
  | 0 => (look s.setup.ports none 0).getD 0
  | 1 => (look s.setup.ports none 1).getD 0
  | 2 => ((s.tankSetup 0).map (·.weight)).getD 0
  | 3 => ((s.tankSetup 1).map (·.weight)).getD 0
  | 4 => (s.setup.train.map (·.weight)).getD 0
  | _ => 0

/-- The claim in FLOWING or CLOSING on a target. -/
def State.counting (s : State) (g : Target) : Option Claim :=
  s.cle.list.find? fun c => c.target == g && (c.state == .flowing || c.state == .closing)

/-- The claim a pulse counts to (R92). -/
def State.counted (s : State) (input : Nat) : Option Claim := (meterTargets input).findSome? s.counting

/-- A pulse of `w` decilitres at a claim: remainder and litres, held at 65535 (R92), and the stall timer of a FLOWING one at 0
(R93). -/
def meter (w : Nat) (c : Claim) : Claim :=
  { c with
    delivered := min 65535 (c.delivered + (c.remainder + w) / 10)
    remainder := (c.remainder + w) % 10
    stall := if c.state = .flowing then 0 else c.stall }

/-- A pulse counted to the train's INFLOW claim also adds to the product count in the rated states (R155). -/
def productPulse (c : Claim) (w : Nat) (s : State) : State :=
  if c.target = .product && rated s.trs.state then s.mapTrs fun t => { t with productCount := t.productCount + w } else s

/-- A rising edge on a meter input (R92, R95, R155). -/
def takePulse (input : Nat) (s : State) : State :=
  match s.counted input with
  | some c0 =>
    let w := s.weight input
    let c := meter w c0
    let s := productPulse c w (s.putClaim c)
    if c.state = .flowing && decide (c.volume ≤ c.delivered) then toClosing c .done s else s
  | none => s

/-! ## Boundaries (R86, R90, R93) -/

/-- A claim's timers at a boundary: age, then in PATHING and ASKING short of the wait limit the repeat timer, in FLOWING with
the valve OPEN the stall timer (R86, R90, R93). -/
def claimTimers (valveOpen : Bool) (c : Claim) : Claim :=
  let c := { c with age := min 65535 (c.age + 1) }
  match c.state with
  | .pathing => if c.wait ≤ c.age then c else { c with repeatTimer := c.repeatTimer - 1 }
  | .asking => if c.wait ≤ c.age then c else { c with repeatTimer := c.repeatTimer - 1 }
  | .flowing => if valveOpen then { c with stall := c.stall + 1 } else c
  | .closing => c

/-- The event of a claim that falls due at a boundary, by its timers (R86, R90, R93). -/
def claimDue (c : Claim) : Option Due :=
  match c.state with
  | .closing => none
  | .flowing => if 30 ≤ c.stall then some (.stalled c.sequence) else none
  | _ =>
    if c.wait ≤ c.age then some (.timeout c.sequence)
    else if c.repeatTimer = 0 then some (.requestRepeat c.sequence) else none

/-- A round boundary at the claim engine: each claim's timers, and its event, in list order (R77, R86). -/
def boundaryClaims (s : State) : State :=
  let l := s.cle.list.map fun c => claimTimers (s.travelOf (targetRole c.target) == .opened) c
  (s.setClaims l).setDue (s.due ++ l.filterMap claimDue)

/-- The wait limit of a claim is reached (R90). -/
def timeoutClaim (seq : Nat) (s : State) : State :=
  match s.claimOf seq with
  | some c =>
    if (c.state = .pathing || c.state = .asking) && decide (c.wait ≤ c.age) then endClaim c .timeout none s else s
  | none => s

/-- The stall timer of a claim is reached (R93). -/
def stallClaim (seq : Nat) (s : State) : State :=
  match s.claimOf seq with
  | some c => if c.state = .flowing && decide (30 ≤ c.stall) then toClosing c .stalled s else s
  | none => s

/-- STOP-CLAIM (R91): whether a claim of the sequence is in the list, and the stop. -/
def stopSeq (seq : Nat) (s : State) : State := endSeq .stopped s seq

end Sys2Proof.Machine
end

