-- ==== Sys2Proof/Machine/Train.lean ====
section
/-!
DEFINITION. Train Sequencer, second part (Chapter 8): stops, faults, notices, quality events, boundaries and the train's own
timed events.
-/

namespace Sys2Proof.Machine

/-! ## Stops and faults (R159, R160, R163) -/

/-- The train stops its own inflow claim: own-stop mark, then a stop request with reason STOPPED (R160 step 3, R157). -/
def stopInflow (s : State) : State :=
  match s.trs.inflow with
  | some q => endSeq .stopped (s.mapTrs fun t => { t with ownStop := true }) q
  | none => s

/-- The train stops its flush claim (R163). -/
def stopFlush (s : State) : State :=
  match s.trs.flush with
  | some q => endSeq .stopped s q
  | none => s

/-- The six states that a stop cause leaves (R159). -/
def stoppable : TrainState → Bool
  | .priming | .pending | .ramping | .settling | .diverting | .producing => true
  | _ => false

/-- Entry to STOPPING (R160), in one of the six states. The TRAIN record (R145) is made before the entry's actions, so before the WINDOW
record PUMP-OFF (R55) and the CLAIM-END records that they make (R192; assumption log 32, DESIGN CHOICE). -/
def stopTrain (cause : StopCause) (s : State) : State :=
  if stoppable s.trs.state then
    let r := stopFirst (enterTrain .stopping .none .none cause s)
    stopLast cause (stopInflow (cleNotices r.2 r.1))
  else s

/-- Entry to FAULT, from any other state (R163). The TRAIN record (R145) is made before the entry's actions, so before the WINDOW record
PUMP-OFF (R55) and the CLAIM-END records that they make (R192; assumption log 32, DESIGN CHOICE). -/
def faultTrain (cause : FaultCause) (s : State) : State :=
  if s.trs.state = .fault then s
  else
    let s := enterTrain .fault .none cause .none s
    let s := s.mapTrs fun t => { stillTimers t with flushResult := .none, ownStop := true }
    let s := (closeRole .feed (closeRole .highpress s).1).1
    let r := closeRole .divert s
    stopFlush (stopInflow (cleNotices r.2 r.1))

/-! ## Notices (Table 8-5, R152) -/

/-- DIVERT is held or dropped: PRODUCING becomes DIVERTING with cause NO-DESTINATION (R152). -/
def divertLost (s : State) : State := if s.trs.state = .producing then toDiverting .noDestination s else s

/-- A notice of FEED, HIGHPRESS or DIVERT (Table 8-5). -/
def trsNotice (n : Notice) (s : State) : State :=
  match n.role, n.kind with
  | .divert, .stuck _ => faultTrain .divert s
  | .divert, .interlockDrop => divertLost s
  | .divert, .permissiveDenied => divertLost s
  | .divert, .travelDone _ => s
  | _, .stuck _ => faultTrain .stuck s
  | _, .interlockDrop => faultTrain .interlock s
  | _, .permissiveDenied => s
  | _, .travelDone .closed => tryStopped s
  | _, .travelDone _ => s

/-- A claim in FLOWING has the valve of a role as its target (R97). -/
def State.flowingOn (s : State) (r : Role) : Bool := s.cle.list.any fun c => targetRole c.target == r && c.state == .flowing

/-- A notice of DIVERT goes to the claim engine and the train (Table 4-4): to the claim engine first where it meets a FLOWING claim,
so that one *stuck* does not both end the claim and end its closing (R97), else to the train first (assumption log 10, DESIGN
CHOICE). -/
def divertNotice (s : State) (n : Notice) : State :=
  if s.flowingOn n.role then trsNotice n (cleNotice n s) else cleNotice n (trsNotice n s)

/-- Some notices of DIVERT, in order. -/
def divertNotices (l : List Notice) (s : State) : State := l.foldl divertNotice s

/-- DIVERT is given its close request by the train, its notices taken. -/
def closeDivert (s : State) : State :=
  let r := closeRole .divert s
  divertNotices r.2 r.1

/-- DIVERT is given its open request by the train, its notices taken (R157). -/
def openDivert (s : State) : State :=
  let r := openRole .divert s
  divertNotices r.2 r.1

/-! ## Starting (R147 to R149) -/

/-- Entry to PRIMING (R147). -/
def startPriming (s : State) : State :=
  let s := enterTrain .priming .none .none .none s
  let s := s.mapTrs fun t => { t with phase := 0, permit := 0, passCount := 0, destIndex := 0 }
  closeDivert (openRole .feed s).1

/-- Entry to PENDING (R148). -/
def toPending (s : State) : State := enterTrain .pending .none .none .none s

/-- FEED-OK made while FEED is driven ends PRIMING (R147). -/
def tryPending (s : State) : State :=
  if s.trs.state = .priming && s.made .feedOk && s.commandOf .feed == .drive then toPending s else s

/-- A change of the FEED-OK contact (R147, R148, R163). -/
def feedChange (active : Bool) (s : State) : State :=
  if active then tryPending s
  else match s.trs.state with
    | .pending | .ramping | .settling | .producing | .diverting => faultTrain .noFeed s
    | _ => s

/-- An NWT entry's train runs (R148). -/
def runningTrain (e : NwtEntry) : Bool :=
  match e.record.train with
  | some g => g.state == .ramping || g.state == .settling || g.state == .producing || g.state == .diverting
  | none => false

/-- An NWT entry's train is pending. -/
def pendingTrain (e : NwtEntry) : Bool :=
  match e.record.train with
  | some g => g.pending
  | none => false

/-- The addresses 1..24. -/
def addresses : List Nat := (List.range 24).map (· + 1)

/-- The budget count of R148: running trains, and pending trains of lower addresses. -/
def State.budgetCount (s : State) : Nat :=
  (addresses.filter fun a => ((s.nwtOf a).map runningTrain).getD false).length +
    (addresses.filter fun a => decide (a < s.ident.address) && ((s.nwtOf a).map pendingTrain).getD false).length

/-- The own entry shows the pending flag (R148). -/
def State.ownPending (s : State) : Bool := ((s.nwtOf s.ident.address).map pendingTrain).getD false

/-- The number of trains allowed. -/
def State.allowed (s : State) : Nat := (s.setup.station.map (·.p)).getD 0

/-- Entry to RAMPING (R149). -/
def toRamping (s : State) : State :=
  let s := enterTrain .ramping .none .none .none (s.mapTrs fun t => { t with unflushed := true })
  closeDivert ((openRole .highpress (s.mapTrs fun t => { t with phase := 0, hold := 0 })).1)

/-- The budget test (R148), over the NWT as the boundary's losses have left it: a train whose station is lost at the boundary of the test no
longer counts (R34; assumption log 32, DESIGN CHOICE). -/
def budgetTest (s : State) : State :=
  if s.trs.state = .pending && s.ownPending && decide (s.budgetCount < s.allowed) then toRamping s else s

/-! ## Timed events -/

/-- PRIMING has lasted 30 s (R147). -/
def noFeed (s : State) : State :=
  if s.trs.state = .priming && decide (300 ≤ s.trs.phase) then faultTrain .noFeed s else s

/-- The ramp is complete: SETTLING (R149, R150). -/
def rampComplete (s : State) : State :=
  if s.trs.state = .ramping && decide (200 ≤ s.trs.phase) then
    (enterTrain .settling .none .none .none s).mapTrs fun t => { t with phase := 0, settle := 0 }
  else s

/-- HIGHPRESS has been held for 10 s in RAMPING (R149). -/
def holdTimeout (s : State) : State :=
  if s.trs.state = .ramping && decide (100 ≤ s.trs.hold) then faultTrain .interlock s else s

/-- The settle is complete: DIVERTING with cause NO-DESTINATION, and the first inflow claim (R150, R151). -/
def settleComplete (s : State) : State :=
  if s.trs.state = .settling && decide (600 ≤ s.trs.settle) then divertAndAsk s else s

/-- The settle limit is reached without a complete settle (R150). -/
def settleLimit (s : State) : State :=
  if s.trs.state = .settling && decide (3000 ≤ s.trs.phase) && decide (s.trs.settle < 600) then faultTrain .quality s else s

/-- An excursion: DIVERTING with cause QUALITY (R156). -/
def excursion (s : State) : State :=
  (closeDivert (toDiverting .quality s)).mapTrs fun t => { t with diversion := 0, good := none }

/-- The train watches for an excursion (R156). -/
def State.watching (s : State) : Bool := watched s.trs.state s.trs.divertCause

/-- The marginal timer has reached 30 s (R156). -/
def marginalTimeout (s : State) : State :=
  if s.watching && decide (300 ≤ s.trs.marginal.getD 0) then excursion s else s

/-- The train is in DIVERTING with cause QUALITY. -/
def State.diverted (s : State) : Bool := s.trs.state == .diverting && s.trs.divertCause == .quality

/-- The diversion timer has reached 60 s: a held inflow claim is stopped by the train itself (R157). -/
def diversionLimit (s : State) : State :=
  if s.diverted && decide (600 ≤ s.trs.diversion) then stopInflow s else s

/-- The inflow claim is FLOWING. -/
def State.inflowFlowing (s : State) : Bool :=
  match s.trs.inflow.bind s.claimOf with
  | some c => c.state == .flowing
  | none => false

/-- The good timer has reached 60 s: the diversion ends (R157). -/
def goodResume (s : State) : State :=
  if s.diverted && decide (600 ≤ s.trs.good.getD 0) then
    if s.inflowFlowing then openDivert (enterTrain .producing .none .none .none s)
    else divertAndAsk s
  else s

/-- The states in which the sensor timer runs (R158). -/
def sensed : TrainState → Bool
  | .ramping | .settling | .producing | .diverting => true
  | _ => false

/-- The sensor timer has reached 10 s (R158). -/
def sensorTimeout (s : State) : State :=
  if sensed s.trs.state && decide (100 ≤ s.trs.sensor.getD 0) then faultTrain .sensor s else s

/-- PERMIT has been deasserted for 10 s (R159). -/
def permitTimeout (s : State) : State :=
  if stoppable s.trs.state && decide (100 ≤ s.trs.permit) then stopTrain .permit s else s

/-- The retry wait is over (R154). -/
def retryEnd (s : State) : State :=
  if 50 ≤ s.trs.retry.getD 0 then askNext passTries (s.mapTrs fun t => { t with retry := none }) else s

/-- A rate period is over (R155). -/
def rateEnd (s : State) : State :=
  if rated s.trs.state && decide (100 ≤ s.trs.rateTimer) then
    s.mapTrs fun t => { t with rate := min 65535 (t.productCount * 36), productCount := 0, rateTimer := 0 }
  else s

/-! ## Quality events (R150, R156 to R158) -/

/-- The event enters a window state. -/
def enters (w before after : WindowState) : Bool := after == w && before != w

/-- The event leaves a window state. -/
def leaves (w before after : WindowState) : Bool := before == w && after != w

/-- A timer that one window state starts and its end stops. -/
def restart (w before after : WindowState) (t : Option Nat) : Option Nat :=
  if enters w before after then some 0 else if leaves w before after then none else t

/-- The timers a quality event sets, by train state and cause (R150, R156, R157, R158). -/
def qualityTimers (before after : WindowState) (t : Train) : Train :=
  let t := if sensed t.state then { t with sensor := restart .fault before after t.sensor } else t
  let t :=
    if t.state = .settling && (enters .below before after || leaves .below before after) then { t with settle := 0 } else t
  if watched t.state t.divertCause then { t with marginal := restart .inside before after t.marginal }
  else if t.state = .diverting && t.divertCause == .quality then { t with good := restart .below before after t.good }
  else t

/-- A quality event of a completed reading (R54, R156 to R158). -/
def qualityEvent (before after : WindowState) (s : State) : State :=
  let s := s.mapTrs (qualityTimers before after)
  if s.watching && (enters .above before after || enters .fault before after) then excursion s else s

/-- A completed quality reading, whole (R54). -/
def qualityReading (s : State) : State :=
  match s.setup.quality with
  | some u =>
    if readingDone (some u.n) s.mch.quality then
      let before := s.mch.quality.window
      let s := completeQuality u s
      qualityEvent before s.mch.quality.window s
    else s
  | none => s

/-! ## The boundary (R144) -/

/-- A timer that may be none. -/
def tick (t : Option Nat) : Option Nat := t.map (· + 1)

/-- The permit timer at a boundary, in the six states (R159). -/
def permitTick (permit : Bool) (t : Train) : Train :=
  if stoppable t.state then { t with permit := if permit then 0 else t.permit + 1 } else t

/-- The timers of PRODUCING and DIVERTING at a boundary (R154 to R157). -/
def productTicks (quality : WindowState) (t : Train) : Train :=
  if rated t.state then
    let bad := t.state == .diverting && t.divertCause == .quality
    { t with
      marginal := if watched t.state t.divertCause then tick t.marginal else t.marginal
      diversion := if bad && quality != .below then min 600 (t.diversion + 1) else t.diversion
      good := if bad then tick t.good else t.good
      retry := tick t.retry
      rateTimer := t.rateTimer + 1 }
  else t

/-- The sensor timer at a boundary (R158). -/
def sensorTick (t : Train) : Train := if sensed t.state then { t with sensor := tick t.sensor } else t

/-- PRIMING and RAMPING at a boundary: a held pump is asked again, the phase or hold timer rises (R147, R149; assumption log
19). FEED-OK read made at the boundary at which the phase timer reaches 300 gives PENDING, before NO-FEED (R165; assumption log 19, DESIGN
CHOICE). SETTLING counts its limit and the continuous BELOW (R150). -/
def phaseTick (s : State) : State :=
  match s.trs.state with
  | .priming =>
    let s := s.mapTrs fun t => { t with phase := t.phase + 1 }
    tryPending (if s.commandOf .feed = .held then (openRole .feed s).1 else s)
  | .ramping =>
    if s.commandOf .highpress = .held then
      let s := (openRole .highpress s).1
      if s.commandOf .highpress = .held then s.mapTrs fun t => { t with hold := t.hold + 1 } else s
    else s.mapTrs fun t => { t with phase := t.phase + 1 }
  | .settling =>
    s.mapTrs fun t =>
      { t with phase := t.phase + 1, settle := if s.mch.quality.window = .below then t.settle + 1 else t.settle }
  | _ => s

/-- The timer value stands at its limit. -/
def isAt (n : Nat) (t : Option Nat) : Bool := t == some n

/-- The train's events due at a boundary, by its timers (assumption log 1 for their order). -/
def trainDue (d0 : Nat) (s : State) : List Due :=
  let t := s.trs
  let when (c : Bool) (e : Due) : List Due := if c then [e] else []
  List.flatten
    [when (t.state == .priming && decide (300 ≤ t.phase)) .noFeed,
     when (t.state == .pending && s.ownPending) .budgetTest,
     when (t.state == .ramping && decide (200 ≤ t.phase)) .rampComplete,
     when (t.state == .ramping && decide (100 ≤ t.hold)) .highpressHold,
     when (t.state == .settling && decide (600 ≤ t.settle)) .settleComplete,
     when (t.state == .settling && decide (3000 ≤ t.phase)) .settleLimit,
     when (s.watching && isAt 300 t.marginal) .marginal,
     when (s.diverted && decide (d0 < 600) && decide (t.diversion = 600)) .diversionLimit,
     when (s.diverted && isAt 600 t.good) .goodResume,
     when (sensed t.state && isAt 100 t.sensor) .sensor,
     when (stoppable t.state && decide (100 ≤ t.permit)) .permit,
     when (isAt 50 t.retry) .retryWaitEnd,
     when (rated t.state && decide (100 ≤ t.rateTimer)) .ratePeriodEnd]

/-- A round boundary at the train (R144), with the level of PERMIT. -/
def boundaryTrain (permit : Bool) (s : State) : State :=
  let d0 := s.trs.diversion
  let s := s.mapTrs fun t => sensorTick (productTicks s.mch.quality.window (permitTick permit t))
  let s := phaseTick s
  s.setDue (s.due ++ trainDue d0 s)

/-! ## Requests of the port (Table 8-3) -/

/-- TRAIN-CLEAR in FAULT (R146): STOPPED, fault cause none, timers 0, stopped or none. -/
def clearTrain (s : State) : State := (enterTrain .stopped .none .none .none s).mapTrs stillTimers

end Sys2Proof.Machine
end

