-- ==== Sys2Proof/Machine/Field.lean ====
section
/-!
DEFINITION. Where notices, grants, contact events and scans go: the dispatch of Tables 4-3 and 4-4, GRANT (R88), overflow (R120),
group samplings and *scan complete* (R58, R68, R71, R168).
-/

namespace Sys2Proof.Machine

/-! ## Notices (Table 4-4) -/

/-- A notice reaches the blocks of its role (Table 4-4, R73). -/
def dispatch (s : State) (n : Notice) : State :=
  match n.role with
  | .fill _ => cleNotice n s
  | .outlet _ => cleNotice n s
  | .flush => cleNotice n s
  | .segment i => segNotice i n.kind s
  | .divert => divertNotice s n
  | _ => trsNotice n s

/-- The state of an actuator operation with its notices handed on, in the order of the changes (R74). -/
def notify (r : State × List Notice) : State := r.2.foldl dispatch r.1

/-! ## GRANT (R88, R101) -/

/-- The flowing notice to the creator (R88, R152). Only the train acts on it. -/
def flowingNotice (c : Claim) (s : State) : State :=
  if c.creator = .train && s.trs.inflow == some c.sequence then
    if s.diverted then closeDivert s
    else if s.trs.state = .diverting then enterTrain .producing .none .none .none s
    else s
  else s

/-- ASKING to FLOWING: the target valve's open request, then the flowing notice if the claim still flows (R88). -/
def startFlow (c : Claim) (s : State) : State :=
  let c := { c with state := .flowing, repeatTimer := 0, delivered := 0, stall := 0 }
  let s := notify (openRole (targetRole c.target) (s.putClaim c))
  match s.claimOf c.sequence with
  | some x => if x.state = .flowing then flowingNotice x s else s
  | none => s

/-- A GRANT (R88, R101). -/
def takeGrant (src seq : Nat) (s : State) : State :=
  let late : State := send src (.endMsg seq 0 .late) s
  match s.claimOf seq with
  | some c =>
    if c.tank.station = src then
      match c.state with
      | .asking => startFlow c s
      | .pathing => late
      | _ => s
    else late
  | none => late

/-! ## Overflow (R120) -/

/-- The inflow grants of a tank with remaining above 0 are taken back, newest first (R120). -/
def revokeOverflow (t : Nat) (s : State) : State :=
  ((inflows (s.tankOf t).grants).reverse.filter fun g => decide (0 < g.remaining)).foldl (fun s g => takeBack t g s) s

/-- The OVERFLOW contact of a tank changes, the queue scan apart (R120). In every bus state its close request starts a closing travel at a
FILL valve that is STUCK, as R66 and R68 give (assumption log 38, DEDUCED). -/
def overflowChange (t : Nat) (active : Bool) (s : State) : State :=
  if active then overflowClaims t (notify (closeRole (.fill t) (revokeOverflow t s))) else s

/-! ## Contact events (Table 4-3) -/

/-- A change of a contact reaches its consumer (R60, R61). A *stuck* of cause POSITION and its notice are one with the change (R70), so that a
HOLD_FREE row comes before the change itself or after the notice (R141; assumption log 9, DESIGN CHOICE). -/
def contactEvent (r : ContactRole) (active : Bool) (s : State) : State :=
  match r with
  | .openLimit a => notify (openLimitChange a active s)
  | .closedLimit a => notify (closedLimitChange a active s)
  | .feedOk => feedChange active s
  | .overflow t => overflowChange t active s
  | _ => s

/-- One contact at its sampling, its change handed on (R59, R61). -/
def contactStep (closed : Bool) (c : Nat) (s : State) : State :=
  let r := sampleContact c closed s
  match r.2 with
  | some active => contactEvent (s.contactSetup c).role active r.1
  | none => r.1

/-- A contact of role OVERFLOW changes at this sampling. -/
def overflows (closed : Bool) (c : Nat) (s : State) : Bool :=
  match (s.contactSetup c).role with
  | .overflow _ => (sampleContact c closed s).2.isSome
  | _ => false

/-- The eight contacts of a group at its sampling (R58): contact 8 g + r is on return r. Changes are taken in ascending contact number
(assumption log 32, DESIGN CHOICE), and one queue scan follows the changes of OVERFLOW contacts (R110, R120): after all eight contacts, so that
its GRANTs are offered behind what the other changes of the sampling offer, the END of a claim that a limit contact ends among it (R19, R59;
assumption log 32, DESIGN CHOICE). -/
def sampleGroup (g : Nat) (returns : Byte) (s : State) : State :=
  let t := (List.range 8).foldl (fun s r => contactStep (returns.getLsbD r) (8 * g + r) s) s
  if (List.range 8).any fun r => overflows (returns.getLsbD r) (8 * g + r) s then scanQueue t else t

/-! ## *scan complete* (R58, R62, R68, R71, R168) -/

/-- The interlock drops of one evaluation, in ascending actuator number (R71, R177). -/
def dropAll (s : State) : State := (List.range 12).foldl (fun s a => notify (dropActuator a s)) s

/-- *scan complete*: alarm and travel timers, then the evaluation and its drops (assumption log 10). The event of a travel timer that
reaches its limit here is only due after it, so that a drop of the same actuator comes first (R71; assumption log 32, DESIGN CHOICE). So is
the repeat of an alarm contact whose timer reaches 0 here: its CONTACT record joins the ring after the records that the drops make (R62, R192;
assumption log 32, DESIGN CHOICE). -/
def scanComplete (permit : Bool) (s : State) : State :=
  dropAll (evaluate permit (scanActuators (scanAlarms s)))

/-- The scans counted for the start mark, held at 2 (R64). -/
def countScan (s : State) : State := s.setFsc { s.fsc with scans := min 2 (s.fsc.scans + 1) }

/-- The scanner goes on to the next group (R58). -/
def nextGroup (s : State) : State := s.setFsc { s.fsc with group := (s.fsc.group + 1) % 4 }

/-! ## Travel events (R67, R68) -/

/-- The travel time of an unbound travel has run out (R67, R68). -/
def travelTimeEnd (a : Nat) (s : State) : State :=
  match s.actSetup a with
  | some u => if s.travelEnds a then notify (endTravel a u s) else s
  | none => s

/-- The notices of an actuator that became STUCK, when something came before them (R141): none where it was driven anew, whose new
travel stands; and where a close request ended at once at the closed limit, the *travel done* CLOSED of that request after them (R67, R74). -/
def stuckNotices (a : Nat) (u : ActuatorSetup) (l : List Notice) (s : State) : List Notice :=
  let x := s.actOf a
  if x.command = .drive then []
  else if x.travel = .closed then l ++ [⟨a, u.role, .travelDone .closed⟩]
  else l

/-- A travel is overdue: STUCK (R68). `f` is what comes between the valve's change and its notice. -/
def stuckAround (a : Nat) (f : State → State) (s : State) : State :=
  match s.actSetup a with
  | some u =>
    if s.travelOverdue a then
      let r := becomeStuck a u .travel s
      let t := f r.1
      notify (t, stuckNotices a u r.2 t)
    else f s
  | none => f s

/-- A travel is overdue: STUCK (R68). -/
def travelStuck (a : Nat) (s : State) : State := stuckAround a (fun s => s) s

end Sys2Proof.Machine
end

