-- ==== Sys2Proof/Machine/Resets.lean ====
section
/-!
DEFINITION. Resets and withdrawals: entry to SILENT (R9), DORMANT (R13, R202), HOLDING (R200), warm and cold resets (R198), and the
start at RUN (R196).
-/

namespace Sys2Proof.Machine

/-! ## Entry to SILENT (R9) -/

/-- The Bus Controller at entry to SILENT (Table 1-5). -/
def BusCtl.silent (b : BusCtl) : BusCtl :=
  { b with busState := .silent, queue := [], markHolder := false, backoff := 0, line := none, dormantNext := false }

/-- A segment at entry to SILENT (R143, Table 7-5). -/
def Segment.withdrawn (g : Segment) : Segment := ⟨if g.state = .fault then .fault else .free, none, 0⟩

/-- The arbiter at entry to SILENT (R143). -/
def Segments.silent (x : Segments) : Segments where
  seg := put (put (put (put x.seg 0 (look x.seg Segment.initial 0).withdrawn) 1 (look x.seg Segment.initial 1).withdrawn) 2
    (look x.seg Segment.initial 2).withdrawn) 3 (look x.seg Segment.initial 3).withdrawn
  waits := []

/-- The own entries of roster and NWT go (R28, R36). -/
def dropOwn (s : State) : State :=
  (s.putRoster s.ident.address RosterEntry.absent).putNwt s.ident.address none

/-- The port at entry to SILENT: ring and mask kept, supply phase NORMAL (R194, R201). -/
def Port.silent (p : Port) : Port := { p with phase := .normal, supplyTimer := 0 }

/-- One actuator at entry to SILENT: a close request when its command is DRIVE or HELD (R76). -/
def withdrawActuator (s : State) (a : Nat) : State :=
  if (s.actOf a).command = .safe then s else notify (closeReq a s)

/-- Entry to SILENT with its cause (R9). -/
def enterSilent (cause : BusNews) (s : State) : State :=
  let s := dropOwn (s.setBc s.bc.silent)
  let s := (s.setClaims []).setTkm Tanks.initial
  let s := s.setSga s.sga.silent
  let s := (s.setTrs (Train.initial s.trs.unflushed)).setMch Channels.initial
  let s := (List.range 12).foldl withdrawActuator s
  let s := (dropSwap s).setPort s.port.silent
  report (.bus cause) s

/-! ## Entry to DORMANT (R13, R202) -/

/-- The Bus Controller at entry to DORMANT (Table 1-5). -/
def BusCtl.dormant (b : BusCtl) : BusCtl :=
  { b with busState := .dormant, clock := none, queue := [], markHolder := false, backoff := 0, line := none, heard := [],
           slotTaken := false, numberTaken := false, dormantNext := false }

/-- The port at entry to DORMANT: ring emptied, mask kept, supply phase NORMAL (R194, R202). -/
def Port.emptied (p : Port) : Port := { p with ring := [], taking := false, phase := .normal, supplyTimer := 0 }

/-- Roster and NWT emptied without events (R30, R36). -/
def forgetPeers (s : State) : State := (s.setRoster State.reset.roster).setNwt State.reset.nwt

/-- Entry to DORMANT (R202). -/
def enterDormant (s : State) : State :=
  let s := forgetPeers (s.setBc s.bc.dormant)
  let s := ((s.setClaims []).setTkm Tanks.initial).setSga Segments.initial
  let s := (s.setTrs (Train.initial s.trs.unflushed)).setMch Channels.initial
  let s := (dormantActuators s).setFsc Scanner.initial
  let s := s.setIla State.reset.ila
  ((dropSwap s).setPort s.port.emptied).setDue []

/-! ## Supply failure (R200, R201) -/

/-- The own roster entry takes a leaving mark (R28). -/
def markLeaving (s : State) : State := s.putRoster s.ident.address { s.rosterOf s.ident.address with leaving := true }

/-- Entry to HOLDING: the own leaving mark is set (R28), GRACE runs from 0, claims and train are stopped, in either order
(R162, R200). -/
def enterHolding (trainFirst : Bool) (s : State) : State :=
  let s := (s.setBc { s.bc with busState := .holding }).setPort { s.port with phase := .grace, supplyTimer := 0 }
  let s := markLeaving s
  if trainFirst then stopAll (stopTrain .supply s) else stopTrain .supply (stopAll s)

/-- Return to JOINED (R201). -/
def leaveHolding (s : State) : State :=
  (s.setBc { s.bc with busState := .joined }).setPort { s.port with phase := .normal, supplyTimer := 0 }

/-- The station is in the grace of a supply that still fails (R200). -/
def State.failing (s : State) : Bool := s.bc.busState == .holding && s.port.phase == .grace && s.pins.supplyLow

/-- The timer has reached 2000 ms with SUPPLY-LOW still asserted: DORMANT at once, or when the frame being sent has ended (R13,
R201). -/
def graceExpiry (s : State) : State :=
  if s.failing && s.port.supplyTimer == 2000 then
    if s.bc.line.isSome then s.setBc { s.bc with dormantNext := true } else enterDormant s
  else s

/-- The rest of the grace passes, up to the instant at which the timer reaches 2000 ms (R201; assumption log 4). -/
def restOfGrace (s : State) : State := if s.failing then s.setPort { s.port with supplyTimer := 2000 } else s

/-! ## Time (R2, R200, R201) -/

/-- `ms` milliseconds pass: in GRACE the supply timer rises to at most 2000. A grace that ends before they are over ends then; one
that ends with them falls due, and is taken after all that the command of that instant makes due, the exchange of a boundary among it
(R185, R200, R201; assumption log 4, DESIGN CHOICE). -/
def passSupply (ms : Nat) (s : State) : State :=
  if s.port.phase = .grace && decide (s.port.supplyTimer < 2000) then
    let v := s.port.supplyTimer + ms
    let s := s.setPort { s.port with supplyTimer := min 2000 v }
    if 2000 < v then graceExpiry s else dueIf (decide (v = 2000)) .graceExpiry s
  else s

/-- The instant moves to `ms` milliseconds after the last boundary, never back (assumption log 4). -/
def timeTo (ms : Nat) (s : State) : State :=
  match s.bc.clock with
  | some c => passSupply (ms - c) (s.setBc { s.bc with clock := some (max c ms) })
  | none => s

/-- The grace ends before the instant `ms` (R201). -/
def State.graceEnds (s : State) (ms : Nat) : Bool :=
  s.port.phase == .grace && decide (s.port.supplyTimer < 2000) && decide (2000 < s.port.supplyTimer + (ms - s.elapsed)) &&
    s.bc.clock.isSome

/-! ## Warm and cold resets (R14, R198) -/

/-- The incarnation after a warm reset (R197). -/
def nextIncarnation (n : Nat) : Nat := if n = 255 then 1 else n + 1

/-- The Bus Controller after a warm reset (R14): LISTEN with a count of 2 when the setup is locked, else OFFLINE. -/
def BusCtl.warm (locked : Bool) (b : BusCtl) : BusCtl :=
  { BusCtl.powerOn with
    busState := if locked then .listen else .offline
    round := b.round
    listenCount := if locked then 2 else 0 }

/-- The port after a warm reset (R189, R194, R200): IDLE, ring empty, mask kept. -/
def Port.warm (p : Port) : Port := { Port.powerOn with mask := p.mask }

/-- Every actuator's travel starts afresh toward safe (R75). -/
def restartActuators (s : State) : State := (List.range 12).foldl (fun s a => notify (safeAfresh a s)) s

/-- A warm reset in every block (R198, R199). A frame being sent ends within it. Where that frame is the own MARK, it is no boundary and a
pending swap is dropped without an exchange (R14 and R188 beside R3 and R185; assumption log 6, DESIGN CHOICE): VALID_MARK given before the
reset's row is the boundary first. -/
def warmReset (s : State) : State :=
  let s := s.setIdent { s.ident with incarnation := nextIncarnation s.ident.incarnation }
  let s := forgetPeers (s.setBc (s.bc.warm s.setup.locked))
  let s := (s.setMch Channels.initial).setFsc Scanner.initial
  let s := ((s.setClaims []).setTkm Tanks.initial).setSga Segments.initial
  let s := (s.setTrs (Train.initial s.trs.unflushed)).setIla State.reset.ila
  let s := ((dropSwap s).setPort s.port.warm).setDue []
  if s.setup.locked then restartActuators s else s

/-- A cold reset in every block (R198): power-on values, with the address, the pins and the queue of commands kept. -/
def coldReset (s : State) : State :=
  { State.reset with
    ident := ⟨s.ident.address, 1, s.ident.resetLow, s.ident.cold⟩
    pins := s.pins
    pending := s.pending }

/-- The straps are sampled (R197). -/
def sampleStraps (straps : BitVec 5) (s : State) : State := s.setIdent { s.ident with address := straps.toNat }

/-! ## The start at RUN (R196) -/

/-- The station starts (R196): LISTEN with a count of 4, actuators safe, default plan banks. -/
def startStation (s : State) : State :=
  let s := s.setSetup { s.setup with locked := true }
  let s := s.setBc { s.bc with busState := .listen, listenCount := 4, clash := false }
  let s := (s.setPls (Plans.atRun s.setup.tanks)).setFsc Scanner.initial
  let s := (s.setSga Segments.initial).setTrs (Train.initial false)
  restartActuators s

end Sys2Proof.Machine
end

