-- ==== Sys2Proof/Machine/Timed.lean ====
section
/-!
DEFINITION. The events that fall due at one instant (assumption log 1): what each does, and taking them.
-/

namespace Sys2Proof.Machine

/-- An event of the station's own takes place, if its condition still holds (the rule of each is named at its operation). -/
def perform (s : State) (e : Due) : State :=
  match e with
  | .levelReading t => levelReading t s
  | .qualityReading => qualityReading s
  | .alarmRepeat c => repeatAlarm c s
  | .travelTimeEnd a => travelTimeEnd a s
  | .travelStuck a => travelStuck a s
  | .requestRepeat q => repeatRequest q s
  | .timeout q => timeoutClaim q s
  | .stalled q => stallClaim q s
  | .fillRetry t => attemptFill t s
  | .noFeed => noFeed s
  | .budgetTest => budgetTest s
  | .rampComplete => rampComplete s
  | .highpressHold => holdTimeout s
  | .settleComplete => settleComplete s
  | .settleLimit => settleLimit s
  | .marginal => marginalTimeout s
  | .diversionLimit => diversionLimit s
  | .goodResume => goodResume s
  | .sensor => sensorTimeout s
  | .permit => permitTimeout s
  | .retryWaitEnd => retryEnd s
  | .ratePeriodEnd => rateEnd s
  | .planExchange => planExchange s
  | .graceExpiry => graceExpiry s

/-- The order in which events due are taken: as they stand, but the end of the grace after all others, so that a boundary that is taken in
the millisecond in which the supply timer reaches 2000 has its exchange and its other events before DORMANT (R185, R201). That the boundary
comes first there is assumption log 4, DESIGN CHOICE: SUPPLY_GRACE_EXPIRY given before the boundary's row is the other order. -/
def expiryLast (l : List Due) : List Due := l.filter (· != .graceExpiry) ++ l.filter (· == .graceExpiry)

/-- The events due take place in their order, and none is left due. -/
def settle (s : State) : State := (expiryLast s.due).foldl perform (s.setDue [])

/-- An event of a claim (R77: several are taken in list order). -/
def Due.ofClaim : Due → Bool
  | .requestRepeat _ => true
  | .timeout _ => true
  | .stalled _ => true
  | _ => false

/-- The events taken when the given one is: those of claims earlier in the list (R77), then itself. -/
def takenWith (e : Due) : List Due → List Due
  | [] => []
  | x :: l => if x = e then [x] else if e.ofClaim && x.ofClaim then x :: takenWith e l else takenWith e l

/-- The events left due when the given one is taken. -/
def leftBy (e : Due) : List Due → List Due
  | [] => []
  | x :: l => if x = e then l else if e.ofClaim && x.ofClaim then leftBy e l else x :: leftBy e l

/-- A command that stands for an event of the station's own: it takes place when it is due, and nothing happens otherwise. -/
def takeDue (e : Due) (s : State) : State :=
  if s.due.contains e then (takenWith e s.due).foldl perform (s.setDue (leftBy e s.due)) else s

/-- The station runs commands: RESET is high (R198). -/
def State.held (s : State) : Bool := s.ident.resetLow

/-- A command of an event of the station's own, held off while RESET is low. -/
def ownEvent (e : Due) (s : State) : State := if s.held then s else takeDue e s

/-- Any other command: what is due takes place first, then the command's effect; nothing while RESET is low (R198). -/
def act (f : State → State) (s : State) : State := if s.held then s else f (settle s)

/-- A millisecond passes on an empty queue: the time since the last boundary rises up to 103 ms, the last before the local
timer's instant, and in GRACE the supply timer rises (R2, R3, R200; assumption log 2). -/
def tickMs (s : State) : State :=
  match s.bc.clock with
  | some c => if c < 103 then timeTo (c + 1) s else passSupply 1 s
  | none => passSupply 1 s

/-- An empty queue: what is due takes place, then a millisecond passes; nothing while RESET is low. -/
def idle (s : State) : State := if s.held then s else tickMs (settle s)

end Sys2Proof.Machine
end

