-- ==== Sys2Proof/Machine/Bus.lean ====
section
/-!
DEFINITION. Station Roster and Network Water Table (Chapter 2), the handing on of frames (R6, R7), and the Bus Controller's
boundaries, own frames and clashes (Chapter 1).
-/

namespace Sys2Proof.Machine

/-! ## Peer events (Table 2-2) -/

/-- PEER reports of kinds joined, lost and restarted are made in JOINED, HOLDING and SILENT (R29). -/
def reportPeer (a : Nat) (n : PeerNews) (s : State) : State :=
  if s.serving || s.bc.busState == .silent then report (.peer a n) s else s

/-- *peer lost* and *peer restarted* at their receivers (Table 2-2; assumption log 10 for the order). The queue scan that
follows comes once for all the losses of one instant (R110, R115), and after the arbiter too: its GRANTs are offered behind the HOLD-GIVENs of the
segments that the arbiter releases and gives again (R19, R29; assumption log 10, DESIGN CHOICE). -/
def peerGone (a : Nat) (s : State) : State := peerSegments a (peerTanks a (peerClaims a s))

/-- The header of a valid frame at the roster (R22 to R25). The Tank Manager's queue scan at a *peer restarted* comes after the arbiter's releases
and gives, so that its GRANTs are offered behind HOLD-GIVENs (R19, R29, R115; assumption log 10, DESIGN CHOICE). -/
def takeHeader (a inc : Nat) (leaving : Bool) (s : State) : State :=
  let e := s.rosterOf a
  let s := s.putRoster a ⟨.present, inc, s.bc.round, 0, leaving⟩
  if e.presence = .absent then reportPeer a (.joined inc) s
  else if e.incarnation = inc then s
  else scanQueue (peerGone a (reportPeer a (.restarted inc e.incarnation) s))

/-! ## The NWT (R32, R35, R98) -/

/-- A record in the NWT is passed on: segments to the claim engine, claims to tank manager and then to the arbiter (R32, R98, R113,
R139). That they take it in this order, which decides who gets the last place of the transmit queue, is assumption log 32 (DESIGN CHOICE). -/
def passRecord (a inc : Nat) (r : StatusRecord) (s : State) : State :=
  sweepSegments a inc r.claims (recordTanks a inc r.claims (recordClaims a r.segments s))

/-- A record enters the NWT, creating or replacing the entry whole (R32). -/
def takeRecord (a inc : Nat) (round : Word) (r : StatusRecord) (s : State) : State :=
  passRecord a inc r (s.putNwt a (some ⟨r, round, s.bc.round, false⟩))

/-! ## Messages (R6, Table 1-3) -/

/-- One message at its block, with the address and incarnation it came with. -/
def takeMessage (src inc : Nat) (b : MsgBody) (s : State) : State :=
  if s.serving then
    match b with
    | .holdReq q i c => takeHoldReq ⟨src, inc, q⟩ i c s
    | .holdFree q i => takeHoldFree ⟨src, inc, q⟩ i s
    | .holdGiven q i => takeHoldGiven src q i s
    | .holdRefused q i r => takeHoldRefused src q i r s
    | .claim q k t c v => takeClaim ⟨src, inc, q⟩ k t c v s
    | .grant q _ => takeGrant src q s
    | .refuse q r => takeRefuse src q r s
    | .revoke q => takeRevoke src q s
    | .cancel q => endGrant ⟨src, inc, q⟩ s
    | .endMsg q _ _ => endGrant ⟨src, inc, q⟩ s
  else s

/-- The messages of a frame that are addressed to this station, in frame order (R6). -/
def takeMessages (src inc : Nat) (l : List Message) (s : State) : State :=
  l.foldl (fun s m => if m.dest = s.ident.address then takeMessage src inc m.body s else s) s

/-! ## Frames heard (R5, R6, R12) -/

/-- A valid station frame from another station, handed on in the order of R6 (Table 1-2). -/
def takeFrame (f : StationFrame) (s : State) : State :=
  let s := s.setBc { s.bc with heard := f.source :: s.bc.heard }
  takeMessages f.source f.incarnation f.messages
    (takeRecord f.source f.incarnation f.round f.record (takeHeader f.source f.incarnation f.leaving s))

/-- An address clash (R12). Its PEER report holds this station's own address and no incarnation; R12 and R29 name no field for it
(assumption log 13, DESIGN CHOICE). -/
def clash (s : State) : State :=
  match s.bc.busState with
  | .listen => if s.bc.clash then s else report (.peer s.ident.address .clash) (s.setBc { s.bc with clash := true })
  | .joined => enterSilent .silentClash (report (.peer s.ident.address .clash) s)
  | .holding => enterSilent .silentClash (report (.peer s.ident.address .clash) s)
  | _ => s

/-- The slot of a time since the last boundary: slots 0 to 24 are 4 ms each; no slot begins after slot 24 (R2). -/
def slotAt (ms : Nat) : Nat := ms / 4

/-- A station frame that passes the checks of R5, its first and last bit at given times: valid, misplaced or a clash. -/
def frameHeard (f : StationFrame) (firstMs lastMs : Nat) (s : State) : State :=
  if f.source = s.ident.address then clash (if s.graceEnds lastMs then timeTo lastMs s else s)
  else if s.bc.clock.isSome && slotAt firstMs == f.source then
    let s := timeTo lastMs s
    if s.hearing then takeFrame f s else s
  else s

/-- The last bit arrives within the 4 ms slot of the first, where there are slots (R5); slot 24 ends at 100 ms. -/
def withinSlot (firstMs lastMs : Nat) (s : State) : Bool :=
  s.bc.clock.isNone || (decide (firstMs ≤ lastMs) && slotAt firstMs == slotAt lastMs && decide (lastMs < 100))

/-! ## Missed slots (R26, R27) -/

/-- The slot of an address occurred in a round that ran `ran` milliseconds (R26). -/
def slotOccurred (ran a : Nat) : Bool := decide (4 * (a + 1) ≤ ran)

/-- One address at the count of missed slots (R26, R27, R33, R34). -/
def missSlot (ran : Nat) (s : State) (a : Nat) : State :=
  if a = s.ident.address || !slotOccurred ran a || s.bc.heard.contains a then s
  else
    let e := s.rosterOf a
    match e.presence with
    | .absent => s
    | .present =>
      (s.putRoster a { e with presence := .stale, missed := 1 }).putNwt a ((s.nwtOf a).map fun n => { n with stale := true })
    | .stale =>
      if e.missed + 1 < 3 then s.putRoster a { e with missed := e.missed + 1 }
      else
        peerGone a (reportPeer a (.lost e.incarnation e.leaving)
          ((s.putRoster a RosterEntry.absent).putNwt a none))

/-- The slot of an address is missed for the third time running, so that the address is lost (R27). -/
def losesPeer (ran : Nat) (s : State) (a : Nat) : Bool :=
  a != s.ident.address && slotOccurred ran a && !s.bc.heard.contains a && (s.rosterOf a).presence == .stale &&
    decide (3 ≤ (s.rosterOf a).missed + 1)

/-- The exchange of a swap falls at this boundary, with a queue scan of its own (R110, R185). -/
def State.swapsNow (s : State) : Bool := s.pls.pending && s.serving

/-- The count of missed slots at a boundary (R26), in ascending addresses (assumption log 32, DESIGN CHOICE), and one queue scan after
any losses (R110, R115), which a plan swap of the same boundary makes instead. The scan comes after the arbiter's releases and gives, so that its
GRANTs are offered behind HOLD-GIVENs (R19, R29; assumption log 10, DESIGN CHOICE). -/
def missedSlots (ran : Nat) (s : State) : State :=
  let t := addresses.foldl (missSlot ran) s
  if addresses.any (losesPeer ran s) && !s.swapsNow then scanQueue t else t

/-! ## Boundaries (R3, R11, R16, R17) -/

/-- Where a boundary came from: a valid MARK with its round and sender, or the local timer (R3). -/
inductive BoundarySource
  | mark (round : Word) (sender : Nat)
  | timer
  deriving DecidableEq, Repr

/-- No address lower than the own is PRESENT (R16, R17). -/
def State.lowest (s : State) : Bool :=
  addresses.all fun a => !(decide (a < s.ident.address) && (s.rosterOf a).presence == .present)

/-- The mark-holder flag is taken (R16, R17). -/
def takeover (s : State) : State := report (.bus .takeover) (s.setBc { s.bc with markHolder := true })

/-- The takeover tests at a boundary (R16 at the timer's, R17 at a MARK's). -/
def testTakeover (src : BoundarySource) (s : State) : State :=
  if s.bc.busState = .joined && !s.bc.markHolder && s.lowest then
    match src with
    | .timer => if 3 ≤ s.bc.markless then takeover s else s
    | .mark _ sender => if s.ident.address < sender then takeover s else s
  else s

/-- The holder yields to a valid MARK from a lower address (R17). -/
def yieldMark (src : BoundarySource) (s : State) : State :=
  match src with
  | .timer => s
  | .mark _ sender =>
    if s.bc.markHolder && decide (sender < s.ident.address) then
      s.setBc { s.bc with markHolder := false, backoff := 0 }
    else s

/-- The round number at a boundary: adopted, or increased unless MARK_SEND has already done so (R3, R15). -/
def openRound (src : BoundarySource) (s : State) : State :=
  match src with
  | .mark r _ => s.setBc { s.bc with round := r, markless := 0, numberTaken := false }
  | .timer =>
    s.setBc { s.bc with round := if s.bc.numberTaken then s.bc.round else s.bc.round + 1,
                        markless := min 255 (s.bc.markless + 1), numberTaken := false }

/-- Entry to JOINED (R11, R28, R35): the own roster and NWT entries are made, and the new entry's record is passed on. HOLDING
follows at once while SUPPLY-LOW is asserted (R200). -/
def join (s : State) : State :=
  let s := s.setBc { s.bc with busState := .joined }
  let a := s.ident.address
  let s := s.putRoster a ⟨.present, s.ident.incarnation, s.bc.round, 0, false⟩
  let s := takeRecord a s.ident.incarnation s.bc.round s.sampleRecord s
  if s.pins.supplyLow then enterHolding false s else s

/-- The listen count at a boundary that closes a complete round (R11). -/
def countListen (s : State) : State :=
  if s.bc.busState = .listen then
    let n := s.bc.listenCount
    let s := s.setBc { s.bc with listenCount := n - 1 }
    if n = 1 && !s.bc.clash then join s else s
  else s

/-- The new round's slots begin (R2, R26). `now`: milliseconds since the boundary's dated instant. -/
def openSlots (now : Nat) (s : State) : State :=
  s.setBc { s.bc with clock := some now, heard := [], slotTaken := false }

/-- What a pending swap and the fill timers make due, around the claims' own events (assumption log 1). The Tank Manager's timers are
lowered before these events are taken, so that a memory entry that the swap makes stands at 5 after the boundary, and a skip timer that a
TIMEOUT sets at 50 (R119, R126; assumption log 37, DESIGN CHOICE). -/
def boundaryBlocks (permit : Bool) (s : State) : State :=
  let s := dueIf s.swapsNow .planExchange s
  let s := boundaryClaims (boundarySegments (boundaryTanks s))
  boundaryTrain permit (fillDue 1 (fillDue 0 s))

/-- A round boundary (R3): round number, roster, mark, listen count, takeover, then the timers of the blocks. `ran`: how long
the round that it closes ran; `now`: time since the boundary's dated instant. The missed slots come before the listen count, so that a
loss at the boundary of the join is counted in LISTEN and makes no PEER report (R29), and a lost peer's claims end before the others' ages
and timers move (R90, R99): assumption log 32, DESIGN CHOICE. The train's timers come last, so that a retry wait or another timer of the
train that a lost peer's claim starts stands at 1 after this boundary (R144; assumption log 32, DESIGN CHOICE). A running or pending peer
that is lost at this boundary has left the NWT before the budget test, which no longer counts it (R34, R148; assumption log 32, DESIGN
CHOICE). Before the exchange of a pending swap too its grants have gone and its NWT entry with them, so that the swap's revocation run does
not meet the grants and its fill attempt passes over the source (R27, R115, R124, R186; assumption log 32, DESIGN CHOICE). The records that
the boundary itself makes (the losses' PEER and CLAIM-END records, the BUS record of a takeover, the TRAIN record of an entry to PENDING) join
the ring before the PLAN record of an exchange and before the records of the other events due at it (R185, R192; assumption log 32, DESIGN
CHOICE). -/
def boundary (src : BoundarySource) (ran now : Nat) (permit : Bool) (s : State) : State :=
  let aligned := s.bc.clock.isSome
  let s := s.setPins { s.pins with permit := permit }
  let s := openRound src s
  let s := if aligned then missedSlots ran s else s
  let s := yieldMark src s
  let s := openSlots now s
  let s := if aligned then countListen s else s
  boundaryBlocks permit (testTakeover src s)

/-! ## Own frames (R1, R4, R7, R8, R15, R18) -/

/-- Messages are taken from the head of the queue: at most `n`, and no further than `room` bytes (R4, R20). -/
def takeQueue : Nat → Nat → List Message → List Message × List Message
  | 0, _, l => ([], l)
  | _ + 1, _, [] => ([], [])
  | n + 1, room, m :: l =>
    let k := (encMessage m).length
    if k ≤ room then
      let r := takeQueue n (room - k) l
      (m :: r.1, r.2)
    else ([], m :: l)

/-- The bytes of a frame that ends no later than 3.5 ms after the slot start: 350, at 10 µs a byte (R4, R203). -/
def frameRoom : Nat := 350

/-- A station frame is composed at the start of the own slot (R4): record sampled, messages taken. -/
def compose (s : State) : StationFrame × List Message :=
  let base : StationFrame :=
    ⟨s.ident.address, s.ident.incarnation, s.bc.round, s.bc.busState == .holding, s.sampleRecord, []⟩
  let q := takeQueue 8 (frameRoom - (encFrame base).length) s.bc.queue
  ({ base with messages := q.1 }, q.2)

/-- The own slot starts (R4, R20, R28, R35): the frame goes on the line, and the own entries take what it says. -/
def startSlot (s : State) : State :=
  let c := compose s
  let f := c.1
  let s := s.setBc { s.bc with queue := c.2, line := some (.station f), slotTaken := true }
  let s := s.putRoster f.source { s.rosterOf f.source with lastHeard := f.round, leaving := f.leaving }
  takeRecord f.source f.incarnation f.round f.record s

/-- The frame being sent has ended; DORMANT if the grace has expired meanwhile (R13). What an own good MARK has made due belongs to the
boundary at its first bit (R3), before the frame's end, and so takes place before DORMANT: the exchange of a pending swap among it (R185). -/
def frameEnded (s : State) : State := if s.bc.dormantNext then enterDormant (settle s) else s

/-- An own station frame fails (R8). -/
def frameFailed (s : State) : State :=
  let n := s.bc.failures + 1
  let next := s.bc.dormantNext
  let s := s.setBc { s.bc with failures := min 8 n, line := none }
  let s := if 8 ≤ n then enterSilent .silentReadback s else s
  if next then enterDormant s else s

/-- An own MARK fails: a collision (R18). -/
def markFailed (s : State) : State :=
  frameEnded (s.setBc { s.bc with backoff := s.ident.address, line := none })

/-- A readback mismatch (R1). -/
def mismatch (s : State) : State :=
  match s.bc.line with
  | some (.station _) => frameFailed s
  | some (.mark _) => markFailed s
  | none => s

/-- An own station frame is good: the count is 0, and its self-addressed messages are handed on (R7, R8), unless DORMANT is due
(R13). -/
def frameGood (s : State) : State :=
  match s.bc.line with
  | some (.station f) =>
    let s := s.setBc { s.bc with failures := 0, line := none }
    if s.bc.dormantNext then enterDormant s else takeMessages f.source f.incarnation f.messages s
  | _ => s

/-- An expected boundary at the mark holder (R15). -/
def sendMark (s : State) : State :=
  if 0 < s.bc.backoff then s.setBc { s.bc with backoff := s.bc.backoff - 1 }
  else
    let r := s.bc.round + 1
    s.setBc { s.bc with round := r, numberTaken := true, line := some (.mark r) }

end Sys2Proof.Machine
end

