-- ==== Sys2Proof/Machine/SetupItems.lean ====
section
/-!
DEFINITION. Setup (section 11.4): the layouts and ranges of the items (R195, Tables 11-2 and 12-9), and the tests of RUN (R196,
Table 11-3).
-/

namespace Sys2Proof.Machine

/-! ## Shapes: the length an item requires, from its counts (R204) -/

/-- `n` entries of a tank id and a path fill the bytes exactly, no path above four segments. -/
def entriesShape : Nat → List Byte → Bool
  | 0, l => l.isEmpty
  | n + 1, _ :: _ :: k :: l =>
    decide (k.toNat ≤ 4) && decide (2 * k.toNat ≤ l.length) && entriesShape n (l.drop (2 * k.toNat))
  | _ + 1, _ => false

/-- The content of an item has the length its counts require, no count above its limit (Table 12-9, R204). A count below its range is
a value that R195 tests, after the bus state (R190). A CHANNEL item of an instance above 2 is judged by the level channels' layout
(assumption log 21, DEDUCED). -/
def itemShape (item inst : Nat) (c : List Byte) : Bool :=
  match item with
  | 1 => c.length == 3
  | 2 => c.length == 3
  | 3 => c.length == 1
  | 4 => c.length == 0
  | 5 =>
    match (c.drop 6).head? with
    | some n => decide (n.toNat ≤ 4) && c.length == 7 + 2 * n.toNat
    | none => false
  | 6 =>
    match c with
    | n :: l => decide (n.toNat ≤ 3) && entriesShape n.toNat l
    | [] => false
  | 7 => c.length == 6
  | 8 => c.length == 96
  | 9 => c.length == 16
  | 10 =>
    if inst = 2 then c.length == 7
    else
      match (c.drop 1).head? with
      | some n => decide (n.toNat ≤ 16) && c.length == 2 + 4 * n.toNat
      | none => false
  | 11 =>
    match c with
    | _ :: n :: l => decide (n.toNat ≤ 3) && entriesShape n.toNat l
    | _ => false
  | _ => false

/-! ## Reading the fields of an item -/

/-- A value is kept when it lies in its range (R195). -/
def ranged {α : Type} (ok : α → Bool) (r : Reader α) : Reader α := fun l => do
  let (a, l) ← r l
  if ok a then some (a, l) else none

/-- A number in one byte, within limits. -/
def rIn (lo hi : Nat) : Reader Nat := ranged (fun n => decide (lo ≤ n ∧ n ≤ hi)) r1

/-- A number in two bytes, within limits. -/
def rIn2 (lo hi : Nat) : Reader Nat := ranged (fun n => decide (lo ≤ n ∧ n ≤ hi)) r2

/-- A tank id of a setup item: station 1..24, index 0..1 (Table 11-2). -/
def rTankId : Reader TankId := ranged (fun t => validAddr t.station && decide (t.index ≤ 1)) rTank

/-- A segment id: two bytes, station then index. -/
def rSegId : Reader SegId := fun l => do
  let (s, l) ← r1 l
  let (i, l) ← r1 l
  some (⟨s, i⟩, l)

/-- A path: a segment count of at most 4, and segment ids in range (R195). -/
def rPath : Reader (List SegId) := rList 4 (ranged goodSeg rSegId)

/-- A tank id with its path. -/
def rSource : Reader Source := fun l => do
  let (t, l) ← rTankId l
  let (p, l) ← rPath l
  some (⟨t, p⟩, l)

/-- A role code and role index (Table 12-5): the index within the role's own range (assumption log 21). -/
def roleOf (code i : Nat) : Option Role :=
  match code with
  | 1 => if i ≤ 1 then some (.fill i) else none
  | 2 => if i ≤ 1 then some (.outlet i) else none
  | 3 => if i ≤ 3 then some (.segment i) else none
  | 4 => if i = 0 then some .feed else none
  | 5 => if i = 0 then some .highpress else none
  | 6 => if i = 0 then some .divert else none
  | 7 => if i = 0 then some .flush else none
  | _ => none

/-- A contact role code and role index (Table 12-5, R195). -/
def contactRoleOf (code i : Nat) : Option ContactRole :=
  match code with
  | 0 => if i = 0 then some .none else none
  | 1 => if i ≤ 11 then some (.openLimit i) else none
  | 2 => if i ≤ 11 then some (.closedLimit i) else none
  | 3 => if i = 0 then some .feedOk else none
  | 4 => if i ≤ 1 then some (.overflow i) else none
  | 5 => if i = 0 then some .leak else none
  | 6 => if i = 0 then some .general else none
  | _ => none

/-- A window state code 1..4 of a cell input. -/
def chosenState (n : Nat) : Option WindowState := if 1 ≤ n then byCode allWindows windowCode n else none

/-- A cell input: source code and two parameter bytes (Table 12-5; assumption log 21). -/
def inputOf (code : Nat) (p q : Byte) : Option Input :=
  let none2 := p == 0 && q == 0
  match code with
  | 0 => if none2 then some .mask else none
  | 1 => if none2 then some .feedback else none
  | 2 => if none2 then some .link else none
  | 3 => if q = 0 then some (.contact p.toNat) else none
  | 4 => if none2 then some .permit else none
  | 5 => (chosenState q.toNat).map fun w => .level p.toNat w
  | 6 => if q = 0 then (chosenState p.toNat).map fun w => .quality w else none
  | 7 => some (.train (wordOf p q))
  | 8 => some (.peer p.toNat q.toNat)
  | _ => none

/-- A yes-no byte: 0 or 1 (assumption log 21). -/
def rBool : Reader Bool := fun l => do
  let (n, l) ← rIn 0 1 l
  some (decide (n = 1), l)

/-- One input of a CELL item with its initial or absent value. -/
def rInput : Reader (Input × Bool) := fun l => do
  let (c, l) ← r1 l
  let (p, l) ← rByte l
  let (q, l) ← rByte l
  let (b, l) ← rBool l
  match inputOf c p q with
  | some i => some ((i, b), l)
  | none => none

/-- Filter codes. -/
def filterOf (n : Nat) : Option Filter :=
  match n with
  | 0 => some .none
  | 1 => some .sync
  | 2 => some .hold
  | _ => none

/-- Edge codes. -/
def edgeOf (n : Nat) : Option Edge :=
  match n with
  | 0 => some .none
  | 1 => some .risingPulse
  | _ => none

/-- The content of a CELL item (Table 12-9). -/
def rCell : Reader CellProgram := fun l => do
  let (a, l) ← rInput l
  let (b, l) ← rInput l
  let (c, l) ← rInput l
  let (t, l) ← rByte l
  let (f, l) ← r1 l
  let (e, l) ← r1 l
  let (g, l) ← rByte l
  match filterOf f, edgeOf e with
  | some f, some e => some (⟨a.1, a.2, b.1, b.2, c.1, c.2, t, f, e, g.getLsbD 0, g.getLsbD 1⟩, l)
  | _, _ => none

/-- One contact of a CONTACT-MAP item (Table 12-9). -/
def rContact : Reader ContactSetup := fun l => do
  let (c, l) ← r1 l
  let (i, l) ← r1 l
  let (g, l) ← rByte l
  match contactRoleOf c i with
  | some r => some (⟨r, g.getLsbD 0, g.getLsbD 1⟩, l)
  | none => none

/-- The content of an ACTUATOR item (Table 12-9). -/
def rActuator : Reader ActuatorSetup := fun l => do
  let (k, l) ← rIn 0 1 l
  let (c, l) ← r1 l
  let (i, l) ← r1 l
  let (t, l) ← rIn2 1 600 l
  let (p, l) ← ranged (fun n => decide (n ≤ 7 ∨ n = 255)) r1 l
  match roleOf c i with
  | some r => some (⟨if k = 0 then .valve else .pump, r, t, if p = 255 then none else some p⟩, l)
  | none => none

/-- The content of a TRAIN item (Table 12-9). -/
def rTrain : Reader TrainSetup := fun l => do
  let (t, l) ← rTankId l
  let (v, l) ← rIn2 20 400 l
  let (c, l) ← rIn 1 5 l
  let (w, l) ← rIn 1 50 l
  let (p, l) ← rPath l
  some (⟨t, p, v, c, w⟩, l)

/-- One point of a strapping table. -/
def rPoint : Reader (Nat × Nat) := fun l => do
  let (r, l) ← rIn2 0 4095 l
  let (v, l) ← r2 l
  some ((r, v), l)

/-- The content of a level CHANNEL item (Table 12-9). -/
def rLevel : Reader LevelSetup := fun l => do
  let (n, l) ← rIn 0 7 l
  let (p, l) ← ranged (fun p => decide (2 ≤ p.length)) (rList 16 rPoint) l
  some (⟨n, p⟩, l)

/-- The content of a quality CHANNEL item (Table 12-9). -/
def rQuality : Reader QualitySetup := fun l => do
  let (n, l) ← rIn 0 7 l
  let (a, l) ← rIn2 0 2000 l
  let (j, l) ← rIn2 0 2000 l
  let (h, l) ← rIn2 0 2000 l
  some (⟨n, a, j, h⟩, l)

/-- The content of a FILL-SOURCES item (Table 12-9). -/
def rFill : Reader FillSetup := fun l => do
  let (c, l) ← rIn 1 5 l
  let (e, l) ← rList 3 rSource l
  some (⟨c, e⟩, l)

/-- A reader that must take every byte. -/
def whole {α : Type} (r : Reader α) (l : List Byte) : Option α :=
  match r l with
  | some (a, []) => some a
  | _ => none

/-- The setup with an item written, or none when the item, the instance or a value is outside Table 11-2 (R195). Items without
instances take instance 0 (assumption log 21). -/
def writeItem (item inst : Nat) (c : List Byte) (u : Setup) : Option Setup :=
  let only (n : Nat) (r : Option Setup) : Option Setup := if inst < n then r else none
  match item with
  | 1 => only 1 ((whole (fun l => do
      let (p, l) ← rIn 1 4 l
      let (w, l) ← rIn2 10 3000 l
      some ((⟨p, w⟩ : StationItem), l)) c).map fun x => { u with station := some x })
  | 2 => only 2 ((whole (fun l => do
      let (v, l) ← rIn2 500 65000 l
      let (w, l) ← rIn 1 50 l
      some ((⟨v, w⟩ : TankSetup), l)) c).map fun x => { u with tanks := put u.tanks inst (some x) })
  | 3 => only 2 ((whole (rIn 1 50) c).map fun x => { u with ports := put u.ports inst (some x) })
  | 4 => only 4 (if c.isEmpty then some { u with segments := put u.segments inst true } else none)
  | 5 => only 1 ((whole rTrain c).map fun x => { u with train := some x })
  | 6 => only 1 ((whole (ranged (fun d => !d.isEmpty) (rList 3 rSource)) c).map fun x => { u with destinations := x })
  | 7 => only 12 ((whole rActuator c).map fun x => { u with actuators := put u.actuators inst (some x) })
  | 8 => only 1 ((whole (rMany rContact 32) c).map fun x =>
      { u with contacts := (List.range 32).foldl (fun v i => put v i (x.getD i ⟨.none, false, false⟩)) u.contacts })
  | 9 => only 8 ((whole rCell c).map fun x => { u with cells := put u.cells inst (some x) })
  | 10 =>
    if inst = 2 then (whole rQuality c).map fun x => { u with quality := some x }
    else only 2 ((whole rLevel c).map fun x => { u with levels := put u.levels inst (some x) })
  | 11 => only 2 ((whole rFill c).map fun x => { u with fills := put u.fills inst (some x) })
  | _ => none

/-! ## The tests of RUN (Table 11-3) -/

/-- Reasons of a refused RUN (Table 11-3). -/
inductive RunReason
  | badAddress | noStation | noChannel | table | trainParts | noActuator | role | noCell | contactMap | cell | fillSources
  | badPath
  deriving DecidableEq, Repr

/-- A failed test: reason, item code and instance (R196; assumption log 22). -/
structure RunFailure where
  reason : RunReason
  item : Nat
  inst : Nat
  deriving DecidableEq, Repr

/-- The first instance of a row that fails. -/
def firstBad (reason : RunReason) (item n : Nat) (bad : Nat → Bool) : Option RunFailure :=
  ((List.range n).find? bad).map fun i => ⟨reason, item, i⟩

/-- A failed test of an item without instances. -/
def failIf (c : Bool) (reason : RunReason) (item : Nat) : Option RunFailure := if c then some ⟨reason, item, 0⟩ else none

/-- A strapping table whose raw values strictly increase and whose litres do not decrease (Table 11-3, row 4). -/
def rising : List (Nat × Nat) → Bool
  | p :: q :: l => decide (p.1 < q.1) && decide (p.2 ≤ q.2) && rising (q :: l)
  | _ => true

/-- Row 4 for one level channel. -/
def badTable (s : State) (t : Nat) : Bool :=
  match look s.setup.levels none t with
  | some u => !(rising u.points && u.points.all fun p => decide (p.2 ≤ s.capacity t))
  | none => false

/-- Row 5. -/
def badTrain (s : State) : Bool :=
  match s.setup.train, s.setup.quality with
  | some _, some q =>
    s.setup.destinations.isEmpty || !(decide (q.accept < q.reject) &&
      decide (q.accept + 2 * q.hysteresis ≤ q.reject))
  | some _, none => true
  | none, some _ => true
  | none, none => !s.setup.destinations.isEmpty

/-- A role that is referenced has an actuator. -/
def State.hasRole (s : State) (r : Role) : Bool := (s.actWith r).isSome

/-- Row 6: the item that references a role without an actuator (assumption log 22). -/
def missingRole (s : State) : Option RunFailure :=
  (firstBad .noActuator 3 2 fun p => (look s.setup.ports none p).isSome && !s.hasRole (.outlet p)).or
  ((firstBad .noActuator 2 2 fun t => s.hasTank t && !s.hasRole (.fill t)).or
  ((firstBad .noActuator 4 4 fun i => s.hasSegment i && !s.hasRole (.segment i)).or
  (failIf (s.setup.train.isSome &&
    !(s.hasRole .feed && s.hasRole .highpress && s.hasRole .divert && s.hasRole .flush)) .noActuator 5)))

/-- A role names something set up (Table 11-3, row 7). -/
def State.roleTarget (s : State) : Role → Bool
  | .fill t => s.hasTank t
  | .outlet p => (look s.setup.ports none p).isSome
  | .segment i => s.hasSegment i
  | _ => s.setup.train.isSome

/-- The kind of a role (Table 4-4). -/
def roleKind : Role → Kind
  | .feed => .pump
  | .highpress => .pump
  | _ => .valve

/-- Row 7 for one actuator: its role stands on an earlier one too, names nothing set up, or has the wrong kind. Of two actuators of one
role the later fails (assumption log 22, DEDUCED). -/
def badRole (s : State) (a : Nat) : Bool :=
  match s.actSetup a with
  | some u => s.actWith u.role != some a || !s.roleTarget u.role || u.kind != roleKind u.role
  | none => false

/-- Row 8 for one actuator. -/
def badPermissive (s : State) (a : Nat) : Bool :=
  match (s.actSetup a).bind (·.permissive) with
  | some c => (look s.setup.cells none c).isNone
  | none => false

/-- Actuator `a` is set up. -/
def State.hasAct (s : State) (a : Nat) : Bool := (s.actSetup a).isSome

/-- Row 9 for one contact: a role on an earlier contact too, one that names nothing set up, or a CLOSED-LIMIT of a pump (R60,
R72). NONE is the absence of a role, and may stand on any number. -/
def badContact (s : State) (c : Nat) : Bool :=
  let r := (s.contactSetup c).role
  match r with
  | .none => false
  | .leak => s.contactWith r != some c
  | .general => s.contactWith r != some c
  | .openLimit a => s.contactWith r != some c || !s.hasAct a
  | .closedLimit a => s.contactWith r != some c || !s.hasAct a || (s.actSetup a).map (·.kind) == some .pump
  | .feedOk => s.contactWith r != some c || s.setup.train.isNone
  | .overflow t => s.contactWith r != some c || !s.hasTank t

/-- Row 9. -/
def badMap (s : State) : Bool :=
  (List.range 32).any (badContact s) || (s.setup.train.isSome && (s.contactWith .feedOk).isNone)

/-- An input that R167 refuses at RUN. -/
def badInput (s : State) : Input → Bool
  | .level t _ => !s.hasTank t
  | .quality _ => s.setup.train.isNone
  | .train set => s.setup.train.isNone || set &&& 0x1FF == 0
  | .contact c => decide (31 < c)
  | .peer a b => !validAddr a || decide (7 < b)
  | _ => false

/-- Row 10 for one cell. -/
def badCell (s : State) (n : Nat) : Bool :=
  match look s.setup.cells none n with
  | some p => badInput s p.in0 || badInput s p.in1 || badInput s p.in2
  | none => false

/-- Row 11 for one tank. -/
def badFill (s : State) (t : Nat) : Bool :=
  match s.fillSetup t with
  | some f => !s.hasTank t || f.sources.any fun x => x.tank == ⟨s.ident.address, t⟩ || !ascending x.path
  | none => false

/-- The first failing test, in the order of Table 11-3 (R196). BAD-ADDRESS names item 0, TRAIN-PARTS the item TRAIN, both instance 0
(assumption log 22, DEDUCED). -/
def runFailure (s : State) : Option RunFailure :=
  (failIf (!validAddr s.ident.address) .badAddress 0).or
  ((failIf s.setup.station.isNone .noStation 1).or
  ((firstBad .noChannel 10 2 fun t => s.hasTank t != (look s.setup.levels none t).isSome).or
  ((firstBad .table 10 2 (badTable s)).or
  ((failIf (badTrain s) .trainParts 5).or
  ((missingRole s).or
  ((firstBad .role 7 12 (badRole s)).or
  ((firstBad .noCell 7 12 (badPermissive s)).or
  ((failIf (badMap s) .contactMap 8).or
  ((firstBad .cell 9 8 (badCell s)).or
  ((firstBad .fillSources 11 2 (badFill s)).or
  ((failIf (match s.setup.train with
      | some u => !ascending u.flushPath
      | none => false) .badPath 5).or
   (failIf (s.setup.destinations.any fun d => !ascending d.path) .badPath 6))))))))))))

end Sys2Proof.Machine
end

