-- ==== Sys2Proof/Machine/Operands.lean ====
section
/-!
DEFINITION. The byte layouts of the local port (section 12.2): report records, response data, and the requests that the argument
bytes spell.
-/

namespace Sys2Proof.Machine

/-! ## Codes of the port (Table 12-5) -/

/-- Bus state. -/
def busCode : BusState → Nat
  | .offline => 0
  | .listen => 1
  | .joined => 2
  | .holding => 3
  | .silent => 4
  | .dormant => 5

/-- Roster state. -/
def presenceCode : Presence → Nat
  | .absent => 0
  | .present => 1
  | .stale => 2

/-- Claim target. -/
def targetCode : Target → Nat
  | .drawPort p => p
  | .fillInlet t => 2 + t
  | .product => 4
  | .flush => 5

/-- Claim creator. -/
def creatorCode : Creator → Nat
  | .port => 1
  | .fill => 2
  | .train => 3

/-- The owner's reason of a FAILED claim; 0 for none. -/
def ownerCode : Option OwnerReason → Nat
  | none => 0
  | some (.hold r) => holdReasonCode r
  | some (.refuse r) => 3 + refuseCode r

/-- Actuator role, code and index. -/
def roleBytes : Role → List Byte
  | .fill t => [1, byteOf t]
  | .outlet p => [2, byteOf p]
  | .segment i => [3, byteOf i]
  | .feed => [4, 0]
  | .highpress => [5, 0]
  | .divert => [6, 0]
  | .flush => [7, 0]

/-- Contact role, code and index. -/
def contactRoleBytes : ContactRole → List Byte
  | .none => [0, 0]
  | .openLimit a => [1, byteOf a]
  | .closedLimit a => [2, byteOf a]
  | .feedOk => [3, 0]
  | .overflow t => [4, byteOf t]
  | .leak => [5, 0]
  | .general => [6, 0]

/-- Travel state. -/
def travelCode : Travel → Nat
  | .closed => 0
  | .opening => 1
  | .opened => 2
  | .closing => 3
  | .stuck => 4

/-- WINDOW cause. -/
def windowCauseCode : WindowCause → Nat
  | .reading => 1
  | .swap => 2
  | .pumpOff => 3

/-- Divert cause. -/
def divertCode : DivertCause → Nat
  | .none => 0
  | .noDestination => 1
  | .quality => 2

/-- Fault cause. -/
def faultCode : FaultCause → Nat
  | .none => 0
  | .interlock => 1
  | .stuck => 2
  | .noFeed => 3
  | .quality => 4
  | .sensor => 5
  | .divert => 6

/-- Stop cause. -/
def stopCode : StopCause → Nat
  | .none => 0
  | .command => 1
  | .permit => 2
  | .revoked => 3
  | .supply => 4

/-- Flush result. -/
def flushCode : FlushResult → Nat
  | .none => 0
  | .pending => 1
  | .done => 2
  | .failed => 3

/-- ACTUATOR report cause. -/
def stuckCode : StuckCause → Nat
  | .travel => 1
  | .position => 2

/-- A flag, mark or yes-no value (R204). -/
def bb (b : Bool) : List Byte := [boolByte b]

/-- A number in two bytes; above 65535 a free value (assumption log 14). -/
def bWide (n : Nat) : List Byte := if n < 65536 then b2 n else bw (Config.wideField n)

/-- A timer that may be none or stopped: 65535 then (R204). -/
def bTimer (t : Option Nat) : List Byte :=
  match t with
  | some n => b2 n
  | none => [255, 255]

/-- An end reason; 0 for none. -/
def endReasonCode (r : Option EndReason) : Nat := (r.map endCode).getD 0

/-! ## Report records (Table 12-7; assumption log 13) -/

/-- The fields of a report's kind, in its rule's order. The accepted value of a WINDOW record takes two bytes for the quality channel
also (R204 names volumes; assumption log 13, DEDUCED). R12 and R29 name no field of a PEER record of kind clash: it carries the kind and this
station's own address, and no incarnation (assumption log 13, DESIGN CHOICE). -/
def bodyBytes : ReportBody → List Byte
  | .contact n r active repeated start => b1 n ++ contactRoleBytes r ++ bb active ++ bb repeated ++ bb start
  | .window c before after v cause g =>
    b1 c ++ b1 (windowCode before) ++ b1 (windowCode after) ++ b2 v ++ b1 (windowCauseCode cause) ++
      (match g with
        | some g => bw g
        | none => [])
  | .claimEnd c st =>
    b1 c.sequence ++ b1 (kindCode c.kind) ++ b1 (targetCode c.target) ++ bTank c.tank ++ b1 c.cls ++ b2 c.volume ++
      b2 c.delivered ++ b1 (endReasonCode c.reason) ++ b1 (ownerCode c.owner) ++ b1 (claimStateCode st) ++
      b1 (creatorCode c.creator)
  | .train before after d f st dest u =>
    b1 (trainCode before) ++ b1 (trainCode after) ++ b1 (divertCode d) ++ b1 (faultCode f) ++ b1 (stopCode st) ++
      bTank dest ++ bb u
  | .peer a n =>
    match n with
    | .joined i => b1 1 ++ b1 a ++ b1 i
    | .lost i l => b1 2 ++ b1 a ++ b1 i ++ bb l
    | .restarted i o => b1 3 ++ b1 a ++ b1 i ++ b1 o
    | .clash => b1 4 ++ b1 a
  | .plan k g => b1 (bankCode k) ++ bw g
  | .bus n =>
    match n with
    | .silentReadback => [1, 1]
    | .silentClash => [1, 2]
    | .takeover => [2, 0]
  | .actuator n r before cause => b1 n ++ roleBytes r ++ b1 (travelCode before) ++ b1 (stuckCode cause)

/-- Bytes padded with 0 to a length. -/
def padTo (n : Nat) (l : List Byte) : List Byte := l ++ List.replicate (n - l.length) 0

/-- A report record, 20 bytes (Table 12-7). -/
def reportBytes (r : Report) : List Byte :=
  b1 (reportKind r.body) ++ bb r.loss ++ bw r.round ++ padTo 16 (bodyBytes r.body)

/-! ## Response data (R191, R103, R181; assumption log 12) -/

/-- A path: its segment count, and its segment ids. -/
def pathBytes (p : List SegId) : List Byte := encList (fun g => b1 g.station ++ b1 g.index) p

/-- A claim id. -/
def idBytes (i : ClaimId) : List Byte := b1 i.address ++ b1 i.incarnation ++ b1 i.sequence

/-- The whole of Table 8-2. The phase, hold, settle, diversion and permit timers have no value *stopped* in Table 8-2 and are returned as
the 0 that R160 and R163 set; the retry, marginal, sensor and good timers are returned as 65535 when stopped or none (R204; assumption
log 12, DEDUCED). -/
def trainBytes (t : Train) : List Byte :=
  List.flatten
    [b1 (trainCode t.state), b1 (divertCode t.divertCause), b1 (faultCode t.faultCause), b1 (stopCode t.stopCause),
     b1 t.destIndex, b1 t.passCount, b1 (t.inflow.getD 0), b1 (t.flush.getD 0), b1 (flushCode t.flushResult), bb t.ownStop,
     bb t.unflushed, b2 t.phase, b2 t.hold, b2 t.settle, bTimer t.marginal, bTimer t.sensor, b2 t.diversion, bTimer t.good,
     b2 t.permit, bTimer t.retry, bWide t.productCount, b2 t.rateTimer, b2 t.rate]

/-- One cell of STATUS. -/
def cellBytes (h : CellHistory) : List Byte := bb h.output ++ bb h.filtered ++ b1 h.holdCount ++ bb h.latch

/-- The slot position code: 255 while unaligned. -/
def slotCode (s : State) : Nat := s.slot.getD 255

/-- STATUS (R191). -/
def statusBytes (s : State) : List Byte :=
  List.flatten
    [b1 s.ident.address, b1 s.ident.incarnation, bb s.setup.locked, b1 (busCode s.bc.busState), bw s.bc.round,
     b1 (slotCode s), bb s.bc.markHolder, b1 s.bc.markless, b1 s.bc.failures, b1 s.bc.backoff, bb s.bc.clash,
     b1 s.bc.queue.length, b1 (if s.port.phase = .grace then 1 else 0), b2 s.port.supplyTimer, b1 s.port.ring.length,
     [s.port.mask], b1 (bankCode s.pls.active), bw s.pls.generation, bb s.pls.pending,
     (if s.setup.train.isSome then trainBytes s.trs else []), (List.range 8).flatMap fun n => cellBytes (s.cell n)]

/-- NWT-READ (R191): the roster entry and, when there is one, the NWT entry. -/
def nwtBytes (s : State) (a : Nat) : List Byte :=
  let e := s.rosterOf a
  List.flatten
    [b1 (presenceCode e.presence), b1 e.incarnation, bw e.lastHeard, b1 e.missed, bb e.leaving,
     (match s.nwtOf a with
      | some n => encRecord n.record ++ bw n.recordRound ++ bw n.receiptRound ++ bb n.stale
      | none => [])]

/-- One claim of CLAIM-READ, every field of Table 5-1. The delivered litres take two bytes and their remainder of 0..9 dL one: R204 does not
say whether the remainder, which Table 5-1 gives within *delivered*, is a volume of its own (assumption log 12, DEDUCED). -/
def claimBytes (c : Claim) : List Byte :=
  List.flatten
    [b1 c.sequence, b1 (kindCode c.kind), b1 (targetCode c.target), bTank c.tank, b1 c.cls, b2 c.volume, pathBytes c.path,
     b1 c.held, b2 c.wait, b2 c.age, b2 c.repeatTimer, b2 c.delivered, b1 c.remainder, b2 c.stall,
     b1 (claimStateCode c.state), b1 (endReasonCode c.reason), b1 (ownerCode c.owner), b1 (creatorCode c.creator)]

/-- One grant of GRANT-READ, every field of Table 6-2. -/
def grantBytes (g : Grant) : List Byte :=
  List.flatten
    [idBytes g.id, b1 (kindCode g.kind), b1 g.cls, b2 g.volume, b2 g.delivered, b2 g.remaining, bw g.admitted,
     b1 g.absentCount]

/-- One queue entry of GRANT-READ, every field of Table 6-4. -/
def waitBytes (w : TankWait) : List Byte :=
  List.flatten [idBytes w.id, b1 w.tank, b1 (kindCode w.kind), b1 w.cls, b2 w.volume, bw w.arrival, b1 w.absentCount]

/-- GRANT-READ (R103). -/
def grantReadBytes (s : State) (t : Nat) : List Byte :=
  List.flatten
    [b2 (s.capacity t), bWide (s.committed t 5), bWide (s.committedIn t), encList grantBytes (s.tankOf t).grants,
     encList waitBytes (s.tkm.waits.filter (·.tank == t))]

/-- The ten fields of a plan entry. -/
def planBytes (p : PlanEntry) : List Byte :=
  List.flatten
    [b2 p.floor.c1, b2 p.floor.c2, b2 p.floor.c3, b2 p.floor.c4, b2 p.floor.c5, b2 p.low, b2 p.high, b2 p.hysteresis,
     b2 p.fillTarget, b2 p.topMargin]

/-- PLAN-READ (R181). -/
def planReadBytes (s : State) (k : Bank) (t : Nat) : List Byte :=
  planBytes ((look (s.pls.entries k) none t).getD (defaultPlan 0)) ++ bb (s.pls.active == k) ++ bw s.pls.generation ++
    bb s.pls.pending

/-! ## Requests (Table 12-6) -/

/-- A request of the local port. -/
inductive Request
  | setupWrite (item inst : Byte) (content : List Byte)
  | run
  | status
  | restart
  | draw (port : Nat) (tank : TankId) (cls volume wait : Nat) (path : List SegId)
  | fill (tank : Nat) (source : TankId) (volume : Nat) (path : List SegId)
  | stopClaim (seq : Nat)
  | trainStart (permit : Bool)
  | trainStop
  | trainClear
  | planWrite (tank : Nat) (entry : PlanEntry)
  | planRead (bank : Bank) (tank : Nat)
  | planSwap
  | nwtRead (address : Nat)
  | claimRead
  | grantRead (tank : Nat)
  | reportTake
  | attnMask (mask : Byte)
  | bad
  deriving DecidableEq, Repr

/-- A path of a request: a segment count of at most 4, and that many segment ids of any value (R80 judges them). -/
def rAnyPath : Reader (List SegId) := rList 4 rSegId

/-- The arguments of DRAW. -/
def rDraw : Reader Request := fun l => do
  let (p, l) ← r1 l
  let (t, l) ← rTank l
  let (c, l) ← r1 l
  let (v, l) ← r2 l
  let (w, l) ← r2 l
  let (g, l) ← rAnyPath l
  some (.draw p t c v w g, l)

/-- The arguments of FILL. -/
def rFillRequest : Reader Request := fun l => do
  let (t, l) ← r1 l
  let (s, l) ← rTank l
  let (v, l) ← r2 l
  let (g, l) ← rAnyPath l
  some (.fill t s v g, l)

/-- The arguments of PLAN-WRITE. -/
def rPlanWrite : Reader Request := fun l => do
  let (t, l) ← r1 l
  let (a, l) ← r2 l
  let (b, l) ← r2 l
  let (c, l) ← r2 l
  let (d, l) ← r2 l
  let (e, l) ← r2 l
  let (lo, l) ← r2 l
  let (hi, l) ← r2 l
  let (h, l) ← r2 l
  let (f, l) ← r2 l
  let (m, l) ← r2 l
  some (.planWrite t ⟨⟨a, b, c, d, e⟩, lo, hi, h, f, m⟩, l)

/-- A request with no arguments. -/
def noArgs (r : Request) (l : List Byte) : Option Request := if l.isEmpty then some r else none

/-- The request that a code and its argument bytes spell; an unknown code, a wrong length, a count above its limit or an unknown
item or bank code spells a bad one (R190, R204). -/
def requestOf (code : Nat) (args : List Byte) (permit : Bool) : Request :=
  let r : Option Request :=
    match code with
    | 1 =>
      match args with
      | item :: inst :: c => if itemShape item.toNat inst.toNat c then some (.setupWrite item inst c) else none
      | _ => none
    | 2 => noArgs .run args
    | 3 => noArgs .status args
    | 4 => noArgs .restart args
    | 5 => whole rDraw args
    | 6 => whole rFillRequest args
    | 7 => (whole r1 args).map .stopClaim
    | 8 => noArgs (.trainStart permit) args
    | 9 => noArgs .trainStop args
    | 10 => noArgs .trainClear args
    | 11 => whole rPlanWrite args
    | 12 => whole (fun l => do
        let (k, l) ← rCode allBanks bankCode l
        let (t, l) ← r1 l
        some (.planRead k t, l)) args
    | 13 => noArgs .planSwap args
    | 14 => (whole r1 args).map .nwtRead
    | 15 => noArgs .claimRead args
    | 16 => (whole r1 args).map .grantRead
    | 17 => noArgs .reportTake args
    | 18 => (whole rByte args).map .attnMask
    | _ => none
  r.getD .bad

end Sys2Proof.Machine
end

