-- ==== Sys2Proof/Machine/Port.lean ====
section
/-!
DEFINITION. Local Port (sections 11.1 to 11.3): transactions, Table 11-1, the answer of every request, and the report ring's taking.
-/

namespace Sys2Proof.Machine

/-! ## Results (R204) -/

/-- OK with response data. -/
def okAnswer (data : List Byte) : List Byte := 0 :: data

/-- BUSY. -/
def busyAnswer : List Byte := [1]

/-- FULL. -/
def fullAnswer : List Byte := [2]

/-- REFUSED with a reason code and what follows it. -/
def refusedAnswer (reason : Nat) (more : List Byte) : List Byte := 3 :: byteOf reason :: more

/-- BAD-STATE. -/
def badStateAnswer : List Byte := [4]

/-- BAD-ARG. -/
def badArgAnswer : List Byte := [5]

/-- The answer to a creation (R80, R204). -/
def createAnswer : Created → List Byte
  | .ok q => okAnswer (b1 q)
  | .no .badState => badStateAnswer
  | .no .badArg => badArgAnswer
  | .no .noTarget => refusedAnswer 1 []
  | .no .busy => busyAnswer
  | .no .full => fullAnswer
  | .no .badPath => refusedAnswer 2 []
  | .no .noTank => refusedAnswer 3 []

/-- The code of a RUN reason (R204). -/
def runCode : RunReason → Nat
  | .badAddress => 11
  | .noStation => 12
  | .noChannel => 13
  | .table => 14
  | .trainParts => 15
  | .noActuator => 16
  | .role => 17
  | .noCell => 18
  | .contactMap => 19
  | .cell => 20
  | .fillSources => 21
  | .badPath => 2

/-- The code of a PLAN-SWAP reason (R204). -/
def planCode : PlanReason → Nat
  | .floorOrder => 6
  | .floorHigh => 7
  | .marks => 8
  | .topMargin => 9
  | .fillTarget => 10

/-! ## Requests by bus state (Table 11-1) -/

/-- The classes of requests that Table 11-1 groups. -/
inductive RequestClass
  | setup | always | report | read | command
  deriving DecidableEq, Repr

/-- The row of Table 11-1. -/
def classOf : Request → RequestClass
  | .setupWrite .. => .setup
  | .run => .setup
  | .status => .always
  | .restart => .always
  | .bad => .always
  | .reportTake => .report
  | .attnMask _ => .report
  | .nwtRead _ => .read
  | .claimRead => .read
  | .grantRead _ => .read
  | .planRead .. => .read
  | _ => .command

/-- Table 11-1. -/
def allowedIn (c : RequestClass) (b : BusState) : Bool :=
  match c, b with
  | .setup, .offline => true
  | .setup, _ => false
  | .always, _ => true
  | .report, .dormant => false
  | .report, _ => true
  | .read, .offline => false
  | .read, .dormant => false
  | .read, _ => true
  | .command, .joined => true
  | .command, _ => false

/-! ## The requests -/

/-- SETUP-WRITE (R195). -/
def askSetup (item inst : Byte) (c : List Byte) (s : State) : State × List Byte :=
  match writeItem item.toNat inst.toNat c s.setup with
  | some u => (s.setSetup u, okAnswer [])
  | none => (s, badArgAnswer)

/-- RUN (R196). -/
def askRun (s : State) : State × List Byte :=
  match runFailure s with
  | some f => (s, refusedAnswer (runCode f.reason) (b1 f.item ++ b1 f.inst))
  | none => (startStation s, okAnswer [])

/-- DRAW (R79). -/
def askDraw (p : Nat) (t : TankId) (c v w : Nat) (g : List SegId) (s : State) : State × List Byte :=
  let r := createClaim ⟨.draw, .drawPort p, t, c, v, w, g, .port⟩ s
  (r.1, createAnswer r.2)

/-- FILL (R79). -/
def askFillRequest (t : Nat) (src : TankId) (v : Nat) (g : List SegId) (s : State) : State × List Byte :=
  let r := createClaim (fillClaim s t ⟨src, g⟩ v .port) s
  (r.1, createAnswer r.2)

/-- STOP-CLAIM (R91). -/
def askStop (seq : Nat) (s : State) : State × List Byte :=
  if (s.claimOf seq).isSome then (stopSeq seq s, okAnswer []) else (s, badArgAnswer)

/-- TRAIN-START (Table 8-3), with the level of PERMIT at the instant it is taken. -/
def askStart (permit : Bool) (s : State) : State × List Byte :=
  let s := s.setPins { s.pins with permit := permit }
  if s.setup.train.isNone then (s, refusedAnswer 1 [])
  else if s.trs.state ≠ .stopped then (s, busyAnswer)
  else if permit then (startPriming s, okAnswer [])
  else (s, refusedAnswer 4 [])

/-- TRAIN-STOP (Table 8-3). -/
def askTrainStop (s : State) : State × List Byte :=
  if s.setup.train.isNone then (s, refusedAnswer 1 []) else (stopTrain .command s, okAnswer [])

/-- TRAIN-CLEAR (Table 8-3). -/
def askClear (s : State) : State × List Byte :=
  if s.setup.train.isNone then (s, refusedAnswer 1 [])
  else if s.trs.state = .fault then (clearTrain s, okAnswer [])
  else (s, refusedAnswer 5 [])

/-- PLAN-WRITE (R182). -/
def askPlanWrite (t : Nat) (e : PlanEntry) (s : State) : State × List Byte :=
  if s.pls.pending then (s, busyAnswer)
  else if !s.hasTank t then (s, badArgAnswer)
  else (writeStandby t e s, okAnswer [])

/-- PLAN-SWAP (R183). -/
def askSwap (s : State) : State × List Byte :=
  if s.pls.pending then (s, busyAnswer)
  else
    match swapCheck s with
    | some (r, t) => (s, refusedAnswer (planCode r) (b1 t))
    | none => (s.setPls { s.pls with pending := true }, okAnswer [])

/-- REPORT-TAKE's response data (R194, R204). -/
def ringHead (s : State) : List Byte :=
  match s.port.ring with
  | r :: _ => 1 :: reportBytes r
  | [] => [0]

/-- A request that Table 11-1 allows: the state it leaves, and its result byte and response data (R190). -/
def doRequest (r : Request) (s : State) : State × List Byte :=
  match r with
  | .setupWrite item inst c => askSetup item inst c s
  | .run => askRun s
  | .status => (s, okAnswer (statusBytes s))
  | .restart => (s, okAnswer [])
  | .draw p t c v w g => askDraw p t c v w g s
  | .fill t src v g => askFillRequest t src v g s
  | .stopClaim q => askStop q s
  | .trainStart permit => askStart permit s
  | .trainStop => askTrainStop s
  | .trainClear => askClear s
  | .planWrite t e => askPlanWrite t e s
  | .planRead k t => (s, if s.hasTank t then okAnswer (planReadBytes s k t) else badArgAnswer)
  | .planSwap => askSwap s
  | .nwtRead a => (s, if validAddr a then okAnswer (nwtBytes s a) else badArgAnswer)
  | .claimRead => (s, okAnswer (encList claimBytes s.cle.list))
  | .grantRead t => (s, if s.hasTank t then okAnswer (grantReadBytes s t) else badArgAnswer)
  | .reportTake => (s, okAnswer (ringHead s))
  | .attnMask m => (s.setPort { s.port with mask := m }, okAnswer [])
  | .bad => (s, badArgAnswer)

/-- A request is tested against the bus state, then done (R190, Table 11-1). -/
def answer (r : Request) (s : State) : State × List Byte :=
  if allowedIn (classOf r) s.bc.busState then doRequest r s else (s, badStateAnswer)

/-- A report is being taken: the request is REPORT-TAKE, it is allowed, and the ring holds a record (R194). -/
def takesReport (r : Request) (s : State) : Bool :=
  r == .reportTake && allowedIn .report s.bc.busState && !s.port.ring.isEmpty

/-- The port once a request is taken: TAKING, its answer prepared, SDO at the filler value (R189, R190, R204). -/
def Port.taken (a : List Byte) (restart taking : Bool) (p : Port) : Port :=
  { p with txn := .taking, fillers := 0, answer := a, left := a, sdo := 255, restart := restart, taking := taking }

/-- A request is taken (R189, R190). -/
def takeRequest (r : Request) (s : State) : State :=
  let x := answer r s
  x.1.setPort (x.1.port.taken x.2 (r == .restart) (takesReport r s))

/-! ## Transactions (R189) -/

/-- A transaction begins (R189). -/
def Port.begin (p : Port) : Port :=
  { p with txn := .code, code := 0, length := 0, args := [], fillers := 0, answer := [], left := [], sdo := 255,
           restart := false, taking := false }

/-- The port with no transaction (R189): IDLE, SDO at the filler value (R204). -/
def Port.idle (p : Port) : Port := { p.begin with txn := .idle }

/-- SEL falls (R189). -/
def selFalls (s : State) : State := if s.port.txn = .idle then s.setPort s.port.begin else s

/-- SEL rises (R189): the transaction ends, and a RESTART asked for in it takes effect (R199). -/
def selRises (s : State) : State :=
  let again := s.port.restart
  let s := s.setPort s.port.idle
  if again then warmReset s else s

/-- The record being taken leaves the ring (R194). -/
def Port.popRing (p : Port) : Port := { p with ring := p.ring.tail, taking := false }

/-- The last response byte of REPORT-TAKE has been clocked out (R194). -/
def reportTaken (s : State) : State :=
  if s.port.taking then s.setPort { s.port.popRing with left := [], txn := .answering } else s

/-- The next byte of the answer goes out on SDO, the filler value after the last (R189); the last byte of a report being taken
removes it from the ring (R194). -/
def Port.clockOut (p : Port) : Port :=
  match p.left with
  | x :: l =>
    let p := { p with sdo := x, left := l }
    if l.isEmpty && p.taking then p.popRing else p
  | [] => { p with sdo := 255 }

/-- A byte is clocked on SCK (R189). -/
def clockByte (sdi : Byte) (permit : Bool) (s : State) : State :=
  match s.port.txn with
  | .idle => s
  | .code => s.setPort { s.port with txn := .length, code := sdi, sdo := 255 }
  | .length =>
    let s := s.setPort { s.port with txn := .arguments, length := sdi, sdo := 255 }
    if sdi = 0 then takeRequest (requestOf s.port.code.toNat [] permit) s else s
  | .arguments =>
    let s := s.setPort { s.port with args := s.port.args ++ [sdi], sdo := 255 }
    if s.port.args.length = s.port.length.toNat then takeRequest (requestOf s.port.code.toNat s.port.args permit) s else s
  | .taking =>
    if s.port.fillers = 0 then s.setPort { s.port with fillers := 1, sdo := 255 }
    else s.setPort { s.port with txn := .answering, fillers := 2, sdo := 255 }
  | .answering => s.setPort s.port.clockOut

end Sys2Proof.Machine
end

