-- ==== Sys2Proof/Machine/BoardCommands.lean ====
section
/-!
DEFINITION. The commands of the board: power, RESET, SUPPLY-LOW (sections 11.5, 11.6). No rule of spec/ stops the station, so every
command answers a next state.
-/

namespace Sys2Proof.Machine

/-- POWER_ON (R198, R197): a cold reset whose hold ends when the supply is established; the straps are sampled. -/
def powerUp (straps : BitVec 5) (s : State) : State :=
  { State.reset with ident := ⟨straps.toNat, 1, false, false⟩, pins := s.pins, pending := s.pending }

/-- RESET falls (R198): a warm reset at once, then the hold. A frame being sent completes within the event, without effect
(R14; assumption log 6). -/
def resetFalls (s : State) : State :=
  let s := warmReset s
  s.setIdent { s.ident with resetLow := true, cold := false }

/-- RESET rises (R198): the hold ends; after a cold reset the straps are sampled (R197). -/
def resetRises (straps : BitVec 5) (s : State) : State :=
  if s.ident.resetLow then
    let s := if s.ident.cold then sampleStraps straps s else s
    s.setIdent { s.ident with resetLow := false, cold := false }
  else s

/-- RESET has been low for 200 ms (R198). -/
def goCold (s : State) : State :=
  if s.ident.resetLow && !s.ident.cold then
    let s := coldReset s
    s.setIdent { s.ident with cold := true }
  else s

/-- SUPPLY-LOW as a level (R200). -/
def supplyPin (v : Bool) (s : State) : State := s.setPins { s.pins with supplyLow := v }

/-- SUPPLY-LOW asserted while JOINED: HOLDING (R200). -/
def supplyFails (trainFirst : Bool) (s : State) : State :=
  if s.bc.busState = .joined then enterHolding trainFirst s else s

/-- SUPPLY-LOW released in HOLDING, unless the grace has expired already (R201). -/
def supplyReturns (s : State) : State :=
  if s.bc.busState = .holding && !s.bc.dormantNext then leaveHolding s else s

def execPowerOn (straps : BitVec 5) (s : State) : Host.Outcome State Fault Refusal := .next (powerUp straps s)

def execResetFall (s : State) : Host.Outcome State Fault Refusal := .next (act resetFalls s)

def execResetRise (straps : BitVec 5) (s : State) : Host.Outcome State Fault Refusal := .next (resetRises straps s)

def execColdReset (s : State) : Host.Outcome State Fault Refusal := .next (goCold s)

/-- SUPPLY_LOW_ASSERTED (R200). The level is the pin's, whatever the station does. -/
def execSupplyLowAsserted (trainFirst : Bool) (s : State) : Host.Outcome State Fault Refusal :=
  .next (act (supplyFails trainFirst) (supplyPin true s))

/-- SUPPLY_LOW_RELEASED (R201). What is due at this instant takes place before the level changes. -/
def execSupplyLowReleased (s : State) : Host.Outcome State Fault Refusal := .next (supplyPin false (act supplyReturns s))

/-- SUPPLY_GRACE_EXPIRY (R201): the instant at which the timer reaches 2000 ms. -/
def execSupplyGraceExpiry (s : State) : Host.Outcome State Fault Refusal := .next (act (fun s => graceExpiry (restOfGrace s)) s)

end Sys2Proof.Machine
end

