-- ==== Sys2Proof/Machine/BusCommands.lean ====
section
/-!
DEFINITION. The commands of the station bus (Chapters 1 and 2).
-/

namespace Sys2Proof.Machine

/-- The own slot can start now: JOINED or HOLDING, aligned, the slot of this round not taken, no frame being sent (R1, R4). -/
def State.slotReady (s : State) : Bool :=
  s.serving && !s.bc.slotTaken && s.bc.line.isNone &&
    match s.bc.clock with
    | some c => decide (c ≤ 4 * s.ident.address)
    | none => false

/-- The own slot starts, if it can (R4). -/
def ownSlot (s : State) : State :=
  if s.slotReady then
    let s := timeTo (4 * s.ident.address) s
    if s.slotReady then startSlot s else s
  else s

/-- The instant is that of the own slot already, so that what is due now may come after the sampling (R39, R187). -/
def State.atSlot (s : State) : Bool := s.slotReady && s.bc.clock == some (4 * s.ident.address)

/-- An expected boundary at the mark holder (R15). Each MARK_SEND stands for one expected boundary: given again at the same one while the
backoff count is above 0 it lowers the count again, and sends where the count is 0, and with the clock at 101 to 103 ms it sends as at 100
(assumption log 18, DESIGN CHOICE). -/
def markNow (s : State) : State :=
  if s.serving && s.bc.markHolder && s.bc.clock.isSome && s.bc.line.isNone && !s.bc.numberTaken then
    let s := timeTo 100 s
    if s.serving then sendMark s else s
  else s

/-- A MARK that passes R5 is this station's own good one (R3). -/
def State.ownMark (s : State) (round : Word) (sender : Nat) : Bool :=
  sender == s.ident.address && s.bc.line == some (.mark round)

/-- A MARK that passes R5 (R3, R12): a boundary, or an address clash. -/
def markHeard (round : Word) (sender ms : Nat) (permit : Bool) (s : State) : State :=
  if s.ownMark round sender then
    frameEnded (boundary (.mark round sender) ms 0 permit (s.setBc { s.bc with line := none }))
  else if sender = s.ident.address then clash s
  else boundary (.mark round sender) ms 0 permit s

/-- The bytes of a MARK heard (R5). -/
def takeMark (frame : List Byte) (ms : Nat) (permit : Bool) (s : State) : State :=
  match readMark frame with
  | some (r, a) =>
    let s := if s.hearing then timeTo ms s else s
    if s.hearing then markHeard r a ms permit s else s
  | none => s

/-- The local round timer, 4 ms after the expected boundary (R3; assumption log 8). -/
def roundTimer (permit : Bool) (s : State) : State :=
  let s := if s.hearing then timeTo 104 s else s
  if s.hearing then boundary .timer 100 4 permit s else s

/-- The bytes of a station frame heard (R5). -/
def takeStation (frame : List Byte) (firstMs lastMs : Nat) (s : State) : State :=
  match readFrame frame with
  | some f => if s.hearing && withinSlot firstMs lastMs s then frameHeard f firstMs lastMs s else s
  | none => s

/-- A status record by itself (R32; assumption log 3): from a peer that the roster holds PRESENT. -/
def recordAlone (src inc : Nat) (round : Word) (r : StatusRecord) (s : State) : State :=
  if s.hearing && validAddr src && src != s.ident.address && (s.rosterOf src).presence == .present then
    takeRecord src inc round r s
  else s

/-- OWN_SLOT_START (R4). -/
def execOwnSlotStart (sampleFirst : Bool) (s : State) : Host.Outcome State Fault Refusal :=
  .next (if sampleFirst && s.atSlot && !s.held then ownSlot s else act ownSlot s)

/-- MARK_SEND (R15). -/
def execMarkSend (s : State) : Host.Outcome State Fault Refusal := .next (act markNow s)

/-- READBACK_MISMATCH (R1, R8, R18). -/
def execReadbackMismatch (s : State) : Host.Outcome State Fault Refusal := .next (act mismatch s)

/-- OWN_FRAME_GOOD (R7, R8). -/
def execOwnFrameGood (s : State) : Host.Outcome State Fault Refusal := .next (act frameGood s)

/-- VALID_MARK (R3). -/
def execValidMark (frame : List Byte) (ms : Nat) (permit : Bool) (s : State) : Host.Outcome State Fault Refusal :=
  .next (act (takeMark frame ms permit) s)

/-- LOCAL_ROUND_TIMER (R3). -/
def execLocalRoundTimer (permit : Bool) (s : State) : Host.Outcome State Fault Refusal := .next (act (roundTimer permit) s)

/-- STATION_FRAME_RECEIVED (R6). -/
def execStationFrameReceived (frame : List Byte) (firstMs lastMs : Nat) (s : State) : Host.Outcome State Fault Refusal :=
  .next (act (takeStation frame firstMs lastMs) s)

/-- STATUS_RECORD (R32). -/
def execStatusRecord (src inc : Nat) (round : Word) (record : StatusRecord) (s : State) : Host.Outcome State Fault Refusal :=
  .next (act (recordAlone src inc round record) s)

end Sys2Proof.Machine
end

