-- ==== Sys2Proof/Machine/MessageCommands.lean ====
section
/-!
DEFINITION. The messages by themselves (R6, Table 1-3; assumption log 3), addressed to this station.
-/

namespace Sys2Proof.Machine

/-- HOLD_REQ (R130). -/
def execHoldReq (src inc seq index cls : Nat) (s : State) : Host.Outcome State Fault Refusal :=
  .next (act (takeMessage src inc (.holdReq seq index cls)) s)

/-- What is due takes place, and a message. Where a *stuck* of the valve `a` is due, the message comes after everything else that is due
and between the valve's change and its notice: a waiter given the segment keeps it and its new opening travel, and a segment left FREE
takes the *stuck*, and after it the *travel done* of a close request that ended at once (R137, R141; assumption log 9). -/
def beforeStuck (a : Nat) (f : State → State) (s : State) : State :=
  if s.due.contains (.travelStuck a) then stuckAround a f (settle (s.setDue (s.due.erase (.travelStuck a)))) else f (settle s)

/-- HOLD_FREE (R133): taken before the notice of a *stuck* of its segment's valve that is still due (R141). -/
def execHoldFree (src inc seq index : Nat) (s : State) : Host.Outcome State Fault Refusal :=
  .next (match s.actWith (.segment index) with
    | some a => if s.held then s else beforeStuck a (takeMessage src inc (.holdFree seq index)) s
    | none => act (takeMessage src inc (.holdFree seq index)) s)

/-- HOLD_GIVEN (R85). The claimant needs no incarnation (R84). -/
def execHoldGiven (src seq index : Nat) (s : State) : Host.Outcome State Fault Refusal :=
  .next (act (takeMessage src 0 (.holdGiven seq index)) s)

/-- HOLD_REFUSED (R89). -/
def execHoldRefused (src seq index : Nat) (reason : HoldReason) (s : State) : Host.Outcome State Fault Refusal :=
  .next (act (takeMessage src 0 (.holdRefused seq index reason)) s)

/-- CLAIM (R107). -/
def execClaim (src inc seq : Nat) (kind : ClaimKind) (tank cls volume : Nat) (s : State) : Host.Outcome State Fault Refusal :=
  .next (act (takeMessage src inc (.claim seq kind tank cls volume)) s)

/-- GRANT (R88). -/
def execGrant (src seq volume : Nat) (s : State) : Host.Outcome State Fault Refusal :=
  .next (act (takeMessage src 0 (.grant seq volume)) s)

/-- REFUSE (R89). -/
def execRefuse (src seq : Nat) (reason : RefuseReason) (s : State) : Host.Outcome State Fault Refusal :=
  .next (act (takeMessage src 0 (.refuse seq reason)) s)

/-- REVOKE (R96). -/
def execRevoke (src seq : Nat) (s : State) : Host.Outcome State Fault Refusal :=
  .next (act (takeMessage src 0 (.revoke seq)) s)

/-- CANCEL (R112). -/
def execCancel (src inc seq : Nat) (s : State) : Host.Outcome State Fault Refusal :=
  .next (act (takeMessage src inc (.cancel seq)) s)

/-- END (R111). -/
def execEndMsg (src inc seq delivered : Nat) (reason : EndReason) (s : State) : Host.Outcome State Fault Refusal :=
  .next (act (takeMessage src inc (.endMsg seq delivered reason)) s)

end Sys2Proof.Machine
end

