-- ==== Sys2Proof/Machine/FieldCommands.lean ====
section
/-!
DEFINITION. The commands of the field: converters, contact matrix, actuators, meters (Chapters 3, 4, 5).
-/

namespace Sys2Proof.Machine

/-- SAMPLE_CLOCK_TICK: the sample clock runs in LISTEN, JOINED, HOLDING and SILENT (R41). -/
def execSampleClockTick (level0 level1 quality : Nat) (s : State) : Host.Outcome State Fault Refusal :=
  .next (act (fun s => if s.hearing then sampleTick level0 level1 quality s else s) s)

/-- LEVEL_READING_COMPLETE (R50). -/
def execLevelReadingComplete (tank : Nat) (s : State) : Host.Outcome State Fault Refusal :=
  .next (ownEvent (.levelReading tank) s)

/-- QUALITY_READING_COMPLETE (R54). -/
def execQualityReadingComplete (s : State) : Host.Outcome State Fault Refusal := .next (ownEvent .qualityReading s)

/-- The sampling that ends group 3, *scan complete* taken before its contact changes, and the events then due between them
(R68, R169). -/
def scanThenSample (returns : Byte) (permit : Bool) (s : State) : State :=
  countScan (sampleGroup 3 returns (settle (scanComplete permit s)))

/-- The sampling that ends group 3, its contact changes taken before *scan complete* (R169). -/
def sampleThenScan (returns : Byte) (permit : Bool) (s : State) : State :=
  countScan (scanComplete permit (sampleGroup 3 returns s))

/-- The sampling that ends the present group's period (R58). Several contact changes of group 3 are events of their own (R59), each of which
R169 lets come before or after the evaluation; `scanFirst` puts all of them on one side (assumption log 9, DESIGN CHOICE). -/
def groupSampling (returns : Byte) (permit scanFirst : Bool) (s : State) : State :=
  let g := s.fsc.group
  let s := nextGroup (s.setPins { s.pins with permit := permit })
  if g ≠ 3 then sampleGroup g returns s
  else if scanFirst then scanThenSample returns permit s else sampleThenScan returns permit s

/-- GROUP_SAMPLE: the scanner runs in LISTEN, JOINED, HOLDING and SILENT (R58). -/
def execGroupSample (returns : Byte) (permit scanFirst : Bool) (s : State) : Host.Outcome State Fault Refusal :=
  .next (act (fun s => if s.hearing then groupSampling returns permit scanFirst s else s) s)

/-- ALARM_REPEAT (R62). -/
def execAlarmRepeat (contact : Nat) (s : State) : Host.Outcome State Fault Refusal := .next (ownEvent (.alarmRepeat contact) s)

/-- TRAVEL_TIME_END (R68). -/
def execTravelTimeEnd (actuator : Nat) (s : State) : Host.Outcome State Fault Refusal :=
  .next (ownEvent (.travelTimeEnd actuator) s)

/-- TRAVEL_STUCK (R68). -/
def execTravelStuck (actuator : Nat) (s : State) : Host.Outcome State Fault Refusal :=
  .next (ownEvent (.travelStuck actuator) s)

/-- METER_PULSE (R92). -/
def execMeterPulse (input : Nat) (s : State) : Host.Outcome State Fault Refusal := .next (act (takePulse input) s)

end Sys2Proof.Machine
end

