-- ==== Sys2Proof/Machine/TimedCommands.lean ====
section
/-!
DEFINITION. The events of the station's own at a boundary: claims, automatic fill, train, plan. Each takes place when it is due
(assumption log 1).
-/

namespace Sys2Proof.Machine

/-- REQUEST_REPEAT (R86). -/
def execRequestRepeat (seq : Nat) (s : State) : Host.Outcome State Fault Refusal := .next (ownEvent (.requestRepeat seq) s)

/-- TIMEOUT (R90). -/
def execTimeout (seq : Nat) (s : State) : Host.Outcome State Fault Refusal := .next (ownEvent (.timeout seq) s)

/-- STALLED (R93). -/
def execStalled (seq : Nat) (s : State) : Host.Outcome State Fault Refusal := .next (ownEvent (.stalled seq) s)

/-- FILL_RETRY_EXPIRY (R123). -/
def execFillRetryExpiry (tank : Nat) (s : State) : Host.Outcome State Fault Refusal := .next (ownEvent (.fillRetry tank) s)

/-- NO_FEED_TIMEOUT (R147). -/
def execNoFeedTimeout (s : State) : Host.Outcome State Fault Refusal := .next (ownEvent .noFeed s)

/-- BUDGET_TEST (R148). -/
def execBudgetTest (s : State) : Host.Outcome State Fault Refusal := .next (ownEvent .budgetTest s)

/-- RAMP_COMPLETE (R149). -/
def execRampComplete (s : State) : Host.Outcome State Fault Refusal := .next (ownEvent .rampComplete s)

/-- HIGHPRESS_HOLD_TIMEOUT (R149). -/
def execHighpressHoldTimeout (s : State) : Host.Outcome State Fault Refusal := .next (ownEvent .highpressHold s)

/-- SETTLE_COMPLETE (R150). -/
def execSettleComplete (s : State) : Host.Outcome State Fault Refusal := .next (ownEvent .settleComplete s)

/-- SETTLE_LIMIT (R150). -/
def execSettleLimit (s : State) : Host.Outcome State Fault Refusal := .next (ownEvent .settleLimit s)

/-- MARGINAL_TIMEOUT (R156). -/
def execMarginalTimeout (s : State) : Host.Outcome State Fault Refusal := .next (ownEvent .marginal s)

/-- DIVERSION_LIMIT (R157). -/
def execDiversionLimit (s : State) : Host.Outcome State Fault Refusal := .next (ownEvent .diversionLimit s)

/-- GOOD_QUALITY_RESUME (R157). -/
def execGoodQualityResume (s : State) : Host.Outcome State Fault Refusal := .next (ownEvent .goodResume s)

/-- SENSOR_TIMEOUT (R158). -/
def execSensorTimeout (s : State) : Host.Outcome State Fault Refusal := .next (ownEvent .sensor s)

/-- PERMIT_TIMEOUT (R159). -/
def execPermitTimeout (s : State) : Host.Outcome State Fault Refusal := .next (ownEvent .permit s)

/-- RETRY_WAIT_END (R154). -/
def execRetryWaitEnd (s : State) : Host.Outcome State Fault Refusal := .next (ownEvent .retryWaitEnd s)

/-- RATE_PERIOD_END (R155). -/
def execRatePeriodEnd (s : State) : Host.Outcome State Fault Refusal := .next (ownEvent .ratePeriodEnd s)

/-- PLAN_EXCHANGE (R185). -/
def execPlanExchange (s : State) : Host.Outcome State Fault Refusal := .next (ownEvent .planExchange s)

end Sys2Proof.Machine
end

