-- ==== Sys2Proof/Machine/PortCommands.lean ====
section
/-!
DEFINITION. The commands of the local port (Chapter 11). A request's row stands for the instant it is taken (assumption log 25).
-/

namespace Sys2Proof.Machine

/-- The request that SETUP-WRITE's arguments spell (R204). -/
def setupRequest (item inst : Byte) (content : List Byte) : Request :=
  if itemShape item.toNat inst.toNat content then .setupWrite item inst content else .bad

/-- SEL_FALL (R189). -/
def execSelFall (s : State) : Host.Outcome State Fault Refusal :=
  .next (act selFalls s)

/-- SEL_RISE (R189, R199). -/
def execSelRise (s : State) : Host.Outcome State Fault Refusal :=
  .next (act selRises s)

/-- BAD_REQUEST (R190). -/
def execBadRequest (s : State) : Host.Outcome State Fault Refusal :=
  .next (act (takeRequest .bad) s)

/-- SETUP_WRITE (R195): a content whose length is not the one its counts require is a bad request (R204). -/
def execSetupWrite (item inst : Byte) (content : List Byte) (s : State) : Host.Outcome State Fault Refusal :=
  .next (act (takeRequest (setupRequest item inst content)) s)

/-- RUN (R196). -/
def execRun (s : State) : Host.Outcome State Fault Refusal :=
  .next (act (takeRequest .run) s)

/-- STATUS (R191). -/
def execStatus (s : State) : Host.Outcome State Fault Refusal :=
  .next (act (takeRequest .status) s)

/-- RESTART (R199). -/
def execRestart (s : State) : Host.Outcome State Fault Refusal :=
  .next (act (takeRequest .restart) s)

/-- DRAW (R79). -/
def execDraw (port : Nat) (tank : TankId) (cls volume wait : Nat) (path : List SegId) (s : State) : Host.Outcome State Fault Refusal :=
  .next (act (takeRequest (.draw port tank cls volume wait path)) s)

/-- FILL (R79). -/
def execFill (tank : Nat) (source : TankId) (volume : Nat) (path : List SegId) (s : State) : Host.Outcome State Fault Refusal :=
  .next (act (takeRequest (.fill tank source volume path)) s)

/-- STOP_CLAIM (R91). -/
def execStopClaim (seq : Nat) (s : State) : Host.Outcome State Fault Refusal :=
  .next (act (takeRequest (.stopClaim seq)) s)

/-- TRAIN_START (R146). -/
def execTrainStart (permit : Bool) (s : State) : Host.Outcome State Fault Refusal :=
  .next (act (takeRequest (.trainStart permit)) s)

/-- TRAIN_STOP (R146). -/
def execTrainStop (s : State) : Host.Outcome State Fault Refusal :=
  .next (act (takeRequest .trainStop) s)

/-- TRAIN_CLEAR (R146). -/
def execTrainClear (s : State) : Host.Outcome State Fault Refusal :=
  .next (act (takeRequest .trainClear) s)

/-- PLAN_WRITE (R182). -/
def execPlanWrite (tank : Nat) (entry : PlanEntry) (s : State) : Host.Outcome State Fault Refusal :=
  .next (act (takeRequest (.planWrite tank entry)) s)

/-- PLAN_READ (R181). -/
def execPlanRead (bank : Bank) (tank : Nat) (s : State) : Host.Outcome State Fault Refusal :=
  .next (act (takeRequest (.planRead bank tank)) s)

/-- PLAN_SWAP (R183). -/
def execPlanSwap (s : State) : Host.Outcome State Fault Refusal :=
  .next (act (takeRequest .planSwap) s)

/-- NWT_READ (R191). -/
def execNwtRead (address : Nat) (s : State) : Host.Outcome State Fault Refusal :=
  .next (act (takeRequest (.nwtRead address)) s)

/-- CLAIM_READ (R191). -/
def execClaimRead (s : State) : Host.Outcome State Fault Refusal :=
  .next (act (takeRequest .claimRead) s)

/-- GRANT_READ (R103). -/
def execGrantRead (tank : Nat) (s : State) : Host.Outcome State Fault Refusal :=
  .next (act (takeRequest (.grantRead tank)) s)

/-- REPORT_TAKE (R194). -/
def execReportTake (s : State) : Host.Outcome State Fault Refusal :=
  .next (act (takeRequest .reportTake) s)

/-- REPORT_TAKE_COMPLETE (R194). -/
def execReportTakeComplete (s : State) : Host.Outcome State Fault Refusal :=
  .next (act reportTaken s)

/-- ATTN_MASK (R194). -/
def execAttnMask (mask : Byte) (s : State) : Host.Outcome State Fault Refusal :=
  .next (act (takeRequest (.attnMask mask)) s)

/-- PORT_BYTE_CLOCKED (R189). -/
def execPortByteClocked (sdi : Byte) (permit : Bool) (s : State) : Host.Outcome State Fault Refusal :=
  .next (act (clockByte sdi permit) s)

end Sys2Proof.Machine
end

