-- ==== Sys2Proof/Machine/Dispatch.lean ====
section
/-!
DEFINITION. One arm per command of Instr.
-/

namespace Sys2Proof.Machine

def exec (i : Instr) (s : State) : Host.Outcome State Fault Refusal :=
  match i with
  | .powerOn straps => Sys2Proof.Machine.execPowerOn straps s
  | .resetFall => Sys2Proof.Machine.execResetFall s
  | .resetRise straps => Sys2Proof.Machine.execResetRise straps s
  | .coldReset => Sys2Proof.Machine.execColdReset s
  | .supplyLowAsserted trainFirst => Sys2Proof.Machine.execSupplyLowAsserted trainFirst s
  | .supplyLowReleased => Sys2Proof.Machine.execSupplyLowReleased s
  | .supplyGraceExpiry => Sys2Proof.Machine.execSupplyGraceExpiry s
  | .ownSlotStart sampleFirst => Sys2Proof.Machine.execOwnSlotStart sampleFirst s
  | .markSend => Sys2Proof.Machine.execMarkSend s
  | .readbackMismatch => Sys2Proof.Machine.execReadbackMismatch s
  | .ownFrameGood => Sys2Proof.Machine.execOwnFrameGood s
  | .validMark frame ms permit => Sys2Proof.Machine.execValidMark frame ms permit s
  | .localRoundTimer permit => Sys2Proof.Machine.execLocalRoundTimer permit s
  | .stationFrameReceived frame firstMs lastMs => Sys2Proof.Machine.execStationFrameReceived frame firstMs lastMs s
  | .statusRecord src inc round record => Sys2Proof.Machine.execStatusRecord src inc round record s
  | .holdReq src inc seq index cls => Sys2Proof.Machine.execHoldReq src inc seq index cls s
  | .holdFree src inc seq index => Sys2Proof.Machine.execHoldFree src inc seq index s
  | .holdGiven src seq index => Sys2Proof.Machine.execHoldGiven src seq index s
  | .holdRefused src seq index reason => Sys2Proof.Machine.execHoldRefused src seq index reason s
  | .claim src inc seq kind tank cls volume => Sys2Proof.Machine.execClaim src inc seq kind tank cls volume s
  | .grant src seq volume => Sys2Proof.Machine.execGrant src seq volume s
  | .refuse src seq reason => Sys2Proof.Machine.execRefuse src seq reason s
  | .revoke src seq => Sys2Proof.Machine.execRevoke src seq s
  | .cancel src inc seq => Sys2Proof.Machine.execCancel src inc seq s
  | .endMsg src inc seq delivered reason => Sys2Proof.Machine.execEndMsg src inc seq delivered reason s
  | .sampleClockTick level0 level1 quality => Sys2Proof.Machine.execSampleClockTick level0 level1 quality s
  | .levelReadingComplete tank => Sys2Proof.Machine.execLevelReadingComplete tank s
  | .qualityReadingComplete => Sys2Proof.Machine.execQualityReadingComplete s
  | .groupSample returns permit scanFirst => Sys2Proof.Machine.execGroupSample returns permit scanFirst s
  | .alarmRepeat contact => Sys2Proof.Machine.execAlarmRepeat contact s
  | .travelTimeEnd actuator => Sys2Proof.Machine.execTravelTimeEnd actuator s
  | .travelStuck actuator => Sys2Proof.Machine.execTravelStuck actuator s
  | .meterPulse input => Sys2Proof.Machine.execMeterPulse input s
  | .requestRepeat seq => Sys2Proof.Machine.execRequestRepeat seq s
  | .timeout seq => Sys2Proof.Machine.execTimeout seq s
  | .stalled seq => Sys2Proof.Machine.execStalled seq s
  | .fillRetryExpiry tank => Sys2Proof.Machine.execFillRetryExpiry tank s
  | .noFeedTimeout => Sys2Proof.Machine.execNoFeedTimeout s
  | .budgetTest => Sys2Proof.Machine.execBudgetTest s
  | .rampComplete => Sys2Proof.Machine.execRampComplete s
  | .highpressHoldTimeout => Sys2Proof.Machine.execHighpressHoldTimeout s
  | .settleComplete => Sys2Proof.Machine.execSettleComplete s
  | .settleLimit => Sys2Proof.Machine.execSettleLimit s
  | .marginalTimeout => Sys2Proof.Machine.execMarginalTimeout s
  | .diversionLimit => Sys2Proof.Machine.execDiversionLimit s
  | .goodQualityResume => Sys2Proof.Machine.execGoodQualityResume s
  | .sensorTimeout => Sys2Proof.Machine.execSensorTimeout s
  | .permitTimeout => Sys2Proof.Machine.execPermitTimeout s
  | .retryWaitEnd => Sys2Proof.Machine.execRetryWaitEnd s
  | .ratePeriodEnd => Sys2Proof.Machine.execRatePeriodEnd s
  | .planExchange => Sys2Proof.Machine.execPlanExchange s
  | .selFall => Sys2Proof.Machine.execSelFall s
  | .selRise => Sys2Proof.Machine.execSelRise s
  | .badRequest => Sys2Proof.Machine.execBadRequest s
  | .setupWrite item inst content => Sys2Proof.Machine.execSetupWrite item inst content s
  | .run => Sys2Proof.Machine.execRun s
  | .status => Sys2Proof.Machine.execStatus s
  | .restart => Sys2Proof.Machine.execRestart s
  | .draw port tank cls volume wait path => Sys2Proof.Machine.execDraw port tank cls volume wait path s
  | .fill tank source volume path => Sys2Proof.Machine.execFill tank source volume path s
  | .stopClaim seq => Sys2Proof.Machine.execStopClaim seq s
  | .trainStart permit => Sys2Proof.Machine.execTrainStart permit s
  | .trainStop => Sys2Proof.Machine.execTrainStop s
  | .trainClear => Sys2Proof.Machine.execTrainClear s
  | .planWrite tank entry => Sys2Proof.Machine.execPlanWrite tank entry s
  | .planRead bank tank => Sys2Proof.Machine.execPlanRead bank tank s
  | .planSwap => Sys2Proof.Machine.execPlanSwap s
  | .nwtRead address => Sys2Proof.Machine.execNwtRead address s
  | .claimRead => Sys2Proof.Machine.execClaimRead s
  | .grantRead tank => Sys2Proof.Machine.execGrantRead tank s
  | .reportTake => Sys2Proof.Machine.execReportTake s
  | .reportTakeComplete => Sys2Proof.Machine.execReportTakeComplete s
  | .attnMask mask => Sys2Proof.Machine.execAttnMask mask s
  | .portByteClocked sdi permit => Sys2Proof.Machine.execPortByteClocked sdi permit s

end Sys2Proof.Machine
end

