-- ==== Sys2Proof/Safety.lean ====
section
/-!
DEFINITION. What a run of the station keeps (the Laws of spec/00), and the predicates that the statements of
Certificates/Slice0/Obligations.lean are written with.
-/

namespace Sys2Proof.Machine

/-! ## Laws -/

/-- The bounds of every list of State: transmit queue (R19), report ring (R192), claim list (R77), grant lists (R104), tank wait
queue (R109), revocation memory (R119), hold wait queue (R129). -/
def State.bounded (s : State) : Bool :=
  decide (s.bc.queue.length ≤ 16) && decide (s.port.ring.length ≤ 32) && decide (s.cle.list.length ≤ 8) &&
    decide ((s.tankOf 0).grants.length ≤ 8) && decide ((s.tankOf 1).grants.length ≤ 8) &&
    decide (s.tkm.waits.length ≤ 8) && decide (s.tkm.memory.length ≤ 8) && decide (s.sga.waits.length ≤ 8)

/-- An entry of the hold wait queue stands before another: it has a lower class number, or the same class and an arrival in an earlier
round, or the same class, an arrival in the same round and a claimant address no higher (R129). -/
def HoldWait.ahead (x y : HoldWait) : Prop :=
  x.cls < y.cls ∨ (x.cls = y.cls ∧ (x.fresh = false ∨ (y.fresh = true ∧ x.id.address ≤ y.id.address)))

/-- An entry of the tank wait queue stands before another: by class, then by arrival, then by claimant address (R109). -/
def TankWait.ahead (x y : TankWait) : Prop :=
  x.cls < y.cls ∨ (x.cls = y.cls ∧ (x.fresh = false ∨ (y.fresh = true ∧ x.id.address ≤ y.id.address)))

/-- Both wait queues stand in their order (R109, R129). -/
def State.waitsOrdered (s : State) : Prop := s.tkm.waits.Pairwise TankWait.ahead ∧ s.sga.waits.Pairwise HoldWait.ahead

/-- Law 12: an NWT entry exists exactly for the addresses whose roster state is PRESENT or STALE (R31). -/
def State.lawTwelve (s : State) : Prop := ∀ a, (s.nwtOf a).isSome = true ↔ (s.rosterOf a).presence ≠ .absent

/-- What Law 12 rests on: the own entry is PRESENT in JOINED and HOLDING (R28); a station that is in LISTEN, JOINED or HOLDING, or
whose setup is locked, has a valid address (Table 11-3, row 1); and the address moves only in OFFLINE, unlocked (R197, R198). -/
def State.rosterSound (s : State) : Prop :=
  s.lawTwelve ∧ (s.serving = true → (s.rosterOf s.ident.address).presence = .present) ∧
    (s.serving = true ∨ s.bc.busState = .listen ∨ s.setup.locked = true → validAddr s.ident.address = true) ∧
    (s.ident.cold = true → s.ident.resetLow = true ∧ s.bc.busState = .offline ∧ s.setup.locked = false)

/-- Nothing held and nothing opened: the claim list, the grant lists, both wait queues and all holds are empty, and every
actuator is commanded to its safe state (Law 11, R202). -/
def State.nothingHeld (s : State) : Prop :=
  s.cle.list = [] ∧ (∀ t, (s.tankOf t).grants = []) ∧ s.tkm.waits = [] ∧ s.sga.waits = [] ∧
    (∀ i, (s.segOf i).holder = none) ∧ ∀ a, (s.actOf a).command = .safe

/-- Nothing held, and the train STOPPED or in FAULT. -/
def State.quiet (s : State) : Prop := s.nothingHeld ∧ (s.trs.state = .stopped ∨ s.trs.state = .fault)

/-- Law 11 (R202): outside JOINED and HOLDING nothing is held; with what it rests on: the train is then STOPPED or in FAULT, an
actuator that is not set up is never commanded open, and the setup is locked in LISTEN, JOINED and HOLDING (R196, R198). -/
def State.lawEleven (s : State) : Prop :=
  (s.serving = false → s.quiet) ∧ (∀ a, s.actSetup a = none → (s.actOf a).command = .safe) ∧
    (s.serving = true ∨ s.bc.busState = .listen → s.setup.locked = true)

/-- The incarnation lies in 1..255 and the address is a five-bit number (R197). -/
def State.identified (s : State) : Prop := 1 ≤ s.ident.incarnation ∧ s.ident.incarnation ≤ 255 ∧ s.ident.address ≤ 31

/-! ## States in which a command's own effect is the whole step -/

/-- RESET is high and no event of the station's own is due. -/
def State.ready (s : State) : Prop := s.ident.resetLow = false ∧ s.due = []

/-- RESET is high and this event of the station's own is due next, with these after it (assumption log 1). -/
def State.dueNext (s : State) (e : Due) (rest : List Due) : Prop := s.ident.resetLow = false ∧ s.due = e :: rest

/-- No two claims of the list bear the same sequence number (R77, R78). -/
def State.oneClaimEach (s : State) : Prop := (s.cle.list.map (·.sequence)).Nodup

/-- The boundary is the one at which the station enters JOINED, or HOLDING at once behind it (R11, R200). -/
def State.joinsNow (s : State) : Prop :=
  s.bc.busState = .listen ∧ s.bc.clock ≠ none ∧ s.bc.listenCount = 1 ∧ s.bc.clash = false

/-- A boundary now makes the takeover test: the flag is clear, and the station is JOINED, or enters JOINED at it and not HOLDING (R16, R17). -/
def State.testsTakeover (s : State) : Prop :=
  s.bc.markHolder = false ∧ (s.bc.busState = .joined ∨ (s.joinsNow ∧ s.pins.supplyLow = false))

/-- Every other station but an ABSENT one was heard in this round: a boundary now finds no slot missed (R26). -/
def State.allHeard (s : State) : Prop :=
  ∀ a, validAddr a = true → a ≠ s.ident.address → (s.rosterOf a).presence = .absent ∨ a ∈ s.bc.heard

/-- The command is a round boundary that reads PERMIT so and closes a round of `ran` milliseconds, the grace not ending before it: the local
round timer (R3; assumption log 8), a valid MARK of another station, or the own good one with no DORMANT waiting for its end (R3, R13). -/
def State.boundaryBy (s : State) (permit : Bool) (ran : Nat) : Instr → Prop
  | .localRoundTimer p => p = permit ∧ ran = 100 ∧ s.graceEnds 104 = false
  | .validMark frame ms p => p = permit ∧ ran = ms ∧ s.graceEnds ms = false ∧ ∃ r a, readMark frame = some (r, a) ∧
      (a = s.ident.address → s.bc.line = some (.mark r) ∧ s.bc.dormantNext = false)
  | _ => False

/-- The command is a round boundary that reaches the blocks with no peer lost and no supply failure on its way: JOINED or HOLDING, nothing
due, no slot missed, and the grace not ending before it. -/
def State.atBoundary (s : State) (row : Instr) (permit : Bool) : Prop :=
  s.ready ∧ s.serving = true ∧ s.allHeard ∧ ∃ ran, s.boundaryBy permit ran row

/-- Nothing is held or waited for by a claim of the address: no grant, hold, queue entry or memory entry bears it (R115, R140). -/
def State.holdsNothingOf (s : State) (a : Nat) : Prop :=
  (∀ t, ∀ g ∈ (s.tankOf t).grants, g.id.address ≠ a) ∧ (∀ w ∈ s.tkm.waits, w.id.address ≠ a) ∧
    (∀ m ∈ s.tkm.memory, m.id.address ≠ a) ∧ (∀ w ∈ s.sga.waits, w.id.address ≠ a) ∧
    ∀ i id, (s.segOf i).holder = some id → id.address ≠ a

/-- No claim on the product line is in CLOSING, or DIVERT is closing under it: a close request that the train now gives DIVERT then ends
no claim (R94). -/
def State.closingStill (s : State) : Prop :=
  (∃ c ∈ s.cle.list, c.state = .closing ∧ c.target = .product) →
    s.commandOf .divert = .safe ∧ s.travelOf .divert = .closing

/-! ## Claims that are made -/

/-- From `s` to `t` a claim `n` joined the tail of the list with the sequence `q`, the first from the claim sequence number on that no claim
of the list bears; the claim sequence number moved past it; and its first request was offered (R78, R81, R87). -/
def State.makes (s t : State) (n : NewClaim) (q : Nat) : Prop :=
  (∃ k, q = (s.cle.nextSeq + k) % 256 ∧ ∀ j, j < k → ∃ c ∈ s.cle.list, c.sequence = (s.cle.nextSeq + j) % 256) ∧
    (∀ c ∈ s.cle.list, c.sequence ≠ q) ∧
    t.cle = { list := s.cle.list ++ [{
                sequence := q, kind := n.kind, target := n.target, tank := n.tank, cls := n.cls, volume := n.volume
                path := n.path, held := 0, wait := n.wait, age := 0
                repeatTimer := if s.bc.queue.length < 16 then 5 else 1
                delivered := 0, remainder := 0, stall := 0
                state := if n.path = [] then .asking else .pathing
                reason := none, owner := none, creator := n.creator }]
              nextSeq := (q + 1) % 256 } ∧
    (s.bc.queue.length < 16 → t.bc = { s.bc with queue := s.bc.queue ++
      [match n.path with
        | g :: _ => ⟨g.station, .holdReq q g.index n.cls⟩
        | [] => ⟨n.tank.station, .claim q n.kind n.tank.index n.cls n.volume⟩] }) ∧
    (16 ≤ s.bc.queue.length → t.bc = s.bc)

/-! ## Claims that leave the list -/

/-- HOLD-FREE for some segments of the claim with the sequence `q`, in their order (R82). -/
def holdFrees (q : Nat) (l : List SegId) : List Message := l.map fun g => ⟨g.station, .holdFree q g.index⟩

/-- The final messages of a claim that leaves from CLOSING with a reason: END with the litres delivered, and HOLD-FREE for each held
segment (R82). -/
def Claim.endsWith (c : Claim) (reason : EndReason) : List Message :=
  ⟨c.tank.station, .endMsg c.sequence c.delivered reason⟩ :: holdFrees c.sequence (c.path.take c.held)

/-- The final messages of a claim in PATHING or ASKING that no refusal of an owner ends: from PATHING HOLD-FREE for each held segment and for
the asked one, from ASKING CANCEL and HOLD-FREE for each held segment (R82). -/
def Claim.withdraws (c : Claim) : List Message :=
  if c.state = .pathing then holdFrees c.sequence (c.path.take (c.held + 1))
  else ⟨c.tank.station, .cancel c.sequence⟩ :: holdFrees c.sequence (c.path.take c.held)

/-- From `s` to `t` these messages were offered in this order, those that found the queue full being dropped, and nothing else of the bus
controller changed (R19, R82). -/
def State.offered (s t : State) (l : List Message) : Prop :=
  s.serving = true → s.bc.queue.length ≤ 16 → t.bc = { s.bc with queue := (s.bc.queue ++ l).take 16 }

/-- From `s` to `t` these messages were offered in this order before any other, those that found the queue full being dropped. -/
def State.offeredFirst (s t : State) (l : List Message) : Prop :=
  s.serving = true → s.bc.queue.length ≤ 16 → (s.bc.queue ++ l).take 16 <+: t.bc.queue

/-- A record of this body and of this round is in the ring. -/
def State.reported (s : State) (b : ReportBody) (round : Word) : Prop := ∃ x ∈ s.port.ring, x.body = b ∧ x.round = round

/-! ## Records that are made (R192) -/

/-- From `s` to `t` a record of this body, with the round number of `t`, joined the ring behind those of `s`, where the ring of `s` had place for
it and for the `n` records that may be made before it (R192). -/
def State.tells (s t : State) (n : Nat) (b : ReportBody) : Prop :=
  s.port.ring.length + n < 32 → ∃ x ∈ t.port.ring.drop s.port.ring.length, x.body = b ∧ x.round = t.bc.round

/-- From `s` to `t` the TRAIN record of the change from the state of `s` was made, with the unflushed mark of `s`, behind at most `n` others
(R145). -/
def State.tellsTrain (s t : State) (n : Nat) (after : TrainState) (divert : DivertCause) (fault : FaultCause) (stop : StopCause)
    (dest : TankId) : Prop :=
  s.tells t n (.train s.trs.state after divert fault stop dest s.trs.unflushed)

/-- A boundary from `s` to `t` took the mark-holder flag and made its BUS record (R16, R17): before any other where no peer is lost, and in
LISTEN, where a loss makes no record; else behind the PEER records of at most 24 losses. -/
def State.takesOver (s t : State) : Prop :=
  t.bc.markHolder = true ∧
    ((s.bc.busState = .joined ∧ s.allHeard) ∨ (s.bc.busState = .listen ∧ s.cle.list = []) → s.tells t 0 (.bus .takeover)) ∧
    (s.cle.list = [] → s.tells t 24 (.bus .takeover))

/-! ## The revocation memory (R119) -/

/-- A record shows the claim of a memory entry FLOWING against its tank (R119). -/
def State.stillFlows (s : State) (claims : List ClaimItem) (m : Revoked) : Bool :=
  match claims.find? fun i => i.sequence = m.id.sequence ∧ i.tank = ⟨s.ident.address, m.tank⟩ with
  | some i =>
    match i.status with
    | .flowing _ => true
    | _ => false
  | none => false

/-- A memory entry is of the claimant that sent the record (R119). -/
def Revoked.ofSender (src inc : Nat) (m : Revoked) : Bool := decide (m.id.address = src ∧ m.id.incarnation = inc)

/-- A record sends the REVOKE of a memory entry again: it shows the claim FLOWING, and the timer is 0 (R119). -/
def State.resends (s : State) (src inc : Nat) (claims : List ClaimItem) (m : Revoked) : Bool :=
  m.ofSender src inc && s.stillFlows claims m && decide (m.timer = 0)

/-- The revocation memory after a record, the transmit queue having `k` places free (R119): an entry of the sender leaves unless the record shows
its claim FLOWING; of those whose REVOKE is sent again the first `k` take the timer 5, and the rest, refused by the queue, keep 0; every other
entry stands. -/
def State.memoryAfter (s : State) (src inc : Nat) (claims : List ClaimItem) : Nat → List Revoked → List Revoked
  | _, [] => []
  | k, m :: l =>
    if s.resends src inc claims m then { m with timer := if k = 0 then 0 else 5 } :: s.memoryAfter src inc claims (k - 1) l
    else if m.ofSender src inc && !s.stillFlows claims m then s.memoryAfter src inc claims k l
    else m :: s.memoryAfter src inc claims k l

/-! ## Automatic fill -/

/-- The conditions of a fill attempt, the instant apart (R122, R123). -/
def State.attempts (s : State) (i : Nat) : Prop :=
  (s.hasTank i = true ∧ ∃ f, s.fillSetup i = some f ∧ f.sources ≠ []) ∧ s.bc.busState = .joined ∧ (s.tankOf i).fill ≠ .filling ∧
    (s.levelCh i).window = .below ∧ s.made (.overflow i) = false ∧ ∀ c ∈ s.cle.list, c.target ≠ .fillInlet i

/-- The source entry `k` of a tank is eligible, and its tank publishes `v` litres as available for the fill class (R124). -/
def State.sourceGives (s : State) (i k : Nat) (src : Source) (v : Nat) : Prop :=
  look (s.tankOf i).skips 0 k = 0 ∧ ∃ e, s.nwtOf src.tank.station = some e ∧ e.stale = false ∧
    ∃ it, e.record.tanks.find? (·.index == src.tank.index) = some it ∧ (it.window = .inside ∨ it.window = .above) ∧
      v = forClass it.available (s.fillClass i)

/-! ## Setup (Tables 11-2, 11-3, 12-9) -/

/-- The port of a state once a request is taken and answered, everything else as it was (R189). -/
def State.answered (s : State) (a : List Byte) (restart taking : Bool) : State :=
  { s with port := { s.port with
      txn := .taking, fillers := 0, answer := a, left := a, sdo := 255, restart := restart, taking := taking } }

/-- A path of a setup item: at most four segment ids, each with its station and index in range (R195). -/
def rightPath (p : List SegId) : Prop := p.length ≤ 4 ∧ ∀ g ∈ p, 1 ≤ g.station ∧ g.station ≤ 24 ∧ g.index ≤ 3

/-- A tank id of a setup item (Table 11-2). -/
def rightTank (t : TankId) : Prop := 1 ≤ t.station ∧ t.station ≤ 24 ∧ t.index ≤ 1

/-- An entry of DESTINATIONS or FILL-SOURCES, in range and as bytes. -/
def rightSource (x : Source) : Prop := rightTank x.tank ∧ rightPath x.path

def sourceBytes (x : Source) : List Byte := bTank x.tank ++ pathBytes x.path

/-- A TRAIN item, in range and as bytes. -/
def rightTrain (x : TrainSetup) : Prop :=
  rightTank x.flushTank ∧ rightPath x.flushPath ∧ 20 ≤ x.flushVolume ∧ x.flushVolume ≤ 400 ∧ 1 ≤ x.inflowClass ∧
    x.inflowClass ≤ 5 ∧ 1 ≤ x.weight ∧ x.weight ≤ 50

def trainItemBytes (x : TrainSetup) : List Byte :=
  bTank x.flushTank ++ b2 x.flushVolume ++ b1 x.inflowClass ++ b1 x.weight ++ pathBytes x.flushPath

/-- The index of an actuator role lies within what its item has (Table 11-2, assumption log 21). -/
def rightRole : Role → Prop
  | .fill t => t ≤ 1
  | .outlet p => p ≤ 1
  | .segment i => i ≤ 3
  | _ => True

/-- An ACTUATOR item, in range and as bytes. -/
def rightActuator (x : ActuatorSetup) : Prop :=
  rightRole x.role ∧ 1 ≤ x.travel ∧ x.travel ≤ 600 ∧ ∀ c, x.permissive = some c → c ≤ 7

def actuatorBytes (x : ActuatorSetup) : List Byte :=
  b1 (if x.kind = .pump then 1 else 0) ++ roleBytes x.role ++ b2 x.travel ++ b1 (x.permissive.getD 255)

/-- A contact of CONTACT-MAP with its flag byte, in range and as bytes: bit 0 the sense, bit 1 the alarm flag (R195). -/
def rightContact (x : ContactSetup × Byte) : Prop :=
  (match x.1.role with
    | .openLimit a => a ≤ 11
    | .closedLimit a => a ≤ 11
    | .overflow t => t ≤ 1
    | _ => True) ∧ x.1.inverted = x.2.getLsbD 0 ∧ x.1.alarm = x.2.getLsbD 1

def contactItemBytes (x : ContactSetup × Byte) : List Byte := contactRoleBytes x.1.role ++ [x.2]

/-- A cell input, in range and as bytes (Table 12-5). -/
def rightInput : Input → Prop
  | .contact c => c ≤ 255
  | .level t w => t ≤ 255 ∧ w ≠ .initial
  | .quality w => w ≠ .initial
  | .peer a b => a ≤ 255 ∧ b ≤ 255
  | _ => True

def inputBytes : Input → List Byte
  | .mask => [0, 0, 0]
  | .feedback => [1, 0, 0]
  | .link => [2, 0, 0]
  | .contact c => [3, byteOf c, 0]
  | .permit => [4, 0, 0]
  | .level t w => [5, byteOf t, byteOf (windowCode w)]
  | .quality w => [6, byteOf (windowCode w), 0]
  | .train set => 7 :: bw set
  | .peer a b => [8, byteOf a, byteOf b]

/-- A CELL item with its flag byte, in range and as bytes: bit 0 the latch, bit 1 the publish flag. -/
def rightProgram (x : CellProgram × Byte) : Prop :=
  rightInput x.1.in0 ∧ rightInput x.1.in1 ∧ rightInput x.1.in2 ∧ x.1.latch = x.2.getLsbD 0 ∧ x.1.publish = x.2.getLsbD 1

def programBytes (x : CellProgram × Byte) : List Byte :=
  inputBytes x.1.in0 ++ bb x.1.init0 ++ inputBytes x.1.in1 ++ bb x.1.init1 ++ inputBytes x.1.in2 ++ bb x.1.init2 ++ [x.1.table] ++
    b1 (match x.1.filter with | .none => 0 | .sync => 1 | .hold => 2) ++ b1 (match x.1.edge with | .none => 0 | .risingPulse => 1) ++
    [x.2]

/-- A level CHANNEL item, in range and as bytes. -/
def rightLevel (x : LevelSetup) : Prop :=
  x.n ≤ 7 ∧ 2 ≤ x.points.length ∧ x.points.length ≤ 16 ∧ ∀ p ∈ x.points, p.1 ≤ 4095 ∧ p.2 ≤ 65535

def levelBytes (x : LevelSetup) : List Byte := b1 x.n ++ encList (fun p => b2 p.1 ++ b2 p.2) x.points

/-- A quality CHANNEL item, in range and as bytes. -/
def rightQuality (x : QualitySetup) : Prop := x.n ≤ 7 ∧ x.accept ≤ 2000 ∧ x.reject ≤ 2000 ∧ x.hysteresis ≤ 2000

def qualityBytes (x : QualitySetup) : List Byte := b1 x.n ++ b2 x.accept ++ b2 x.reject ++ b2 x.hysteresis

/-- A FILL-SOURCES item, in range and as bytes. -/
def rightFill (x : FillSetup) : Prop :=
  1 ≤ x.cls ∧ x.cls ≤ 5 ∧ x.sources.length ≤ 3 ∧ ∀ e ∈ x.sources, rightSource e

def fillBytes (x : FillSetup) : List Byte := b1 x.cls ++ encList sourceBytes x.sources

/-- SETUP-WRITE of an instance: every content that is the bytes of a value in range replaces the instance whole and is answered OK,
and every other content is answered BAD-ARG with nothing changed (R195). -/
def State.itemIs {α : Type} (s : State) (item inst : Byte) (right : α → Prop) (bytes : α → List Byte) (written : α → Setup) : Prop :=
  (∀ x, right x → exec (.setupWrite item inst (bytes x)) s = .next ({ s with setup := written x }.answered [0] false false)) ∧
    ∀ l, (∀ x, right x → bytes x ≠ l) → exec (.setupWrite item inst l) s = .next (s.answered [5] false false)

/-- The tests of RUN in the order of Table 11-3, instances ascending within a row (R196; items and instances: assumption log 22). -/
def runOrder : List RunFailure :=
  [⟨.badAddress, 0, 0⟩, ⟨.noStation, 1, 0⟩, ⟨.noChannel, 10, 0⟩, ⟨.noChannel, 10, 1⟩, ⟨.table, 10, 0⟩, ⟨.table, 10, 1⟩,
    ⟨.trainParts, 5, 0⟩, ⟨.noActuator, 3, 0⟩, ⟨.noActuator, 3, 1⟩, ⟨.noActuator, 2, 0⟩, ⟨.noActuator, 2, 1⟩,
    ⟨.noActuator, 4, 0⟩, ⟨.noActuator, 4, 1⟩, ⟨.noActuator, 4, 2⟩, ⟨.noActuator, 4, 3⟩, ⟨.noActuator, 5, 0⟩] ++
  (List.range 12).map (⟨.role, 7, ·⟩) ++ (List.range 12).map (⟨.noCell, 7, ·⟩) ++ [⟨.contactMap, 8, 0⟩] ++
  (List.range 8).map (⟨.cell, 9, ·⟩) ++ [⟨.fillSources, 11, 0⟩, ⟨.fillSources, 11, 1⟩, ⟨.badPath, 5, 0⟩, ⟨.badPath, 6, 0⟩]

/-- A path is not strictly ascending: a segment id that does not lie below the one after it. -/
def unordered (p : List SegId) : Prop :=
  ∃ i, ∃ g, p[i]? = some g ∧ ∃ h, p[i + 1]? = some h ∧ ¬ (g.station < h.station ∨ (g.station = h.station ∧ g.index < h.index))

/-- No actuator carries the role. -/
def State.lacks (s : State) (r : Role) : Prop := ∀ a, a < 12 → ∀ u, s.actSetup a = some u → u.role ≠ r

/-- A draw port is set up. -/
def State.hasPort (s : State) (p : Nat) : Bool := (look s.setup.ports none p).isSome

/-- A role names a tank, port, segment or train that is not set up (Table 11-3, row 7). -/
def State.rolePointsNowhere (s : State) : Role → Prop
  | .fill t => s.hasTank t = false
  | .outlet p => s.hasPort p = false
  | .segment i => s.hasSegment i = false
  | _ => s.setup.train = none

/-- A contact role names what is not set up, or the CLOSED-LIMIT of a pump (Table 11-3, row 9). -/
def State.contactMisnames (s : State) : ContactRole → Prop
  | .openLimit a => s.actSetup a = none
  | .closedLimit a => s.actSetup a = none ∨ ∃ u, s.actSetup a = some u ∧ u.kind = .pump
  | .feedOk => s.setup.train = none
  | .overflow t => s.hasTank t = false
  | _ => False

/-- An input that R167 refuses at RUN. -/
def State.inputMisnames (s : State) : Input → Prop
  | .level t _ => s.hasTank t = false
  | .quality _ => s.setup.train = none
  | .train set => s.setup.train = none ∨ ∀ k, k < 9 → set.getLsbD k = false
  | .contact c => 31 < c
  | .peer a b => a = 0 ∨ 24 < a ∨ 7 < b
  | _ => False

/-- The test of a row of Table 11-3 fails for an instance. -/
def State.failsTest (s : State) (f : RunFailure) : Prop :=
  match f.reason with
  | .badAddress => s.ident.address = 0 ∨ 24 < s.ident.address
  | .noStation => s.setup.station = none
  | .noChannel => s.hasTank f.inst ≠ (look s.setup.levels none f.inst).isSome
  | .table => ∃ u, look s.setup.levels none f.inst = some u ∧
      ((∃ i, ∃ p, u.points[i]? = some p ∧ ∃ q, u.points[i + 1]? = some q ∧ (q.1 ≤ p.1 ∨ q.2 < p.2)) ∨
        ∃ p ∈ u.points, s.capacity f.inst < p.2)
  | .trainParts =>
    ¬ ((s.setup.train = none ∧ s.setup.destinations = [] ∧ s.setup.quality = none) ∨
      (s.setup.train ≠ none ∧ s.setup.destinations ≠ [] ∧ ∃ q, s.setup.quality = some q ∧ q.accept < q.reject ∧
        q.accept + q.hysteresis + q.hysteresis ≤ q.reject))
  | .noActuator =>
    (f.item = 3 ∧ s.hasPort f.inst = true ∧ s.lacks (.outlet f.inst)) ∨
    (f.item = 2 ∧ s.hasTank f.inst = true ∧ s.lacks (.fill f.inst)) ∨
    (f.item = 4 ∧ s.hasSegment f.inst = true ∧ s.lacks (.segment f.inst)) ∨
    (f.item = 5 ∧ s.setup.train ≠ none ∧ (s.lacks .feed ∨ s.lacks .highpress ∨ s.lacks .divert ∨ s.lacks .flush))
  | .role => ∃ u, s.actSetup f.inst = some u ∧
      ((∃ b, b < f.inst ∧ ∃ v, s.actSetup b = some v ∧ v.role = u.role) ∨
        s.rolePointsNowhere u.role ∨
        u.kind ≠ if u.role = .feed ∨ u.role = .highpress then .pump else .valve)
  | .noCell => ∃ u, s.actSetup f.inst = some u ∧ ∃ c, u.permissive = some c ∧ look s.setup.cells none c = none
  | .contactMap =>
    (∃ c, c < 32 ∧
      ((∃ b, b < c ∧ (s.contactSetup b).role = (s.contactSetup c).role ∧ (s.contactSetup c).role ≠ .none) ∨
        s.contactMisnames (s.contactSetup c).role)) ∨
      (s.setup.train ≠ none ∧ ∀ c, c < 32 → (s.contactSetup c).role ≠ .feedOk)
  | .cell => ∃ p, look s.setup.cells none f.inst = some p ∧ ∃ i ∈ [p.in0, p.in1, p.in2], s.inputMisnames i
  | .fillSources => ∃ u, s.fillSetup f.inst = some u ∧
      (s.hasTank f.inst = false ∨ ∃ x ∈ u.sources, x.tank = ⟨s.ident.address, f.inst⟩ ∨ unordered x.path)
  | .badPath =>
    (f.item = 5 ∧ ∃ u, s.setup.train = some u ∧ unordered u.flushPath) ∨
      (f.item = 6 ∧ ∃ d ∈ s.setup.destinations, unordered d.path)

/-! ## Resets and withdrawals -/

/-- `t` is `s` after a warm reset, the hold apart (R14, R197, R198). The listen count 0 in OFFLINE is log 23's (DESIGN CHOICE), the line
cleared in the step log 6's (DEDUCED), and that an own MARK on it is no boundary, so that a pending swap is dropped, log 6's too (DESIGN
CHOICE). -/
def State.warmOf (s t : State) : Prop :=
  t.ident.address = s.ident.address ∧
    t.ident.incarnation = (if s.ident.incarnation = 255 then 1 else s.ident.incarnation + 1) ∧
    t.setup = s.setup ∧ t.pins = s.pins ∧ t.pending = s.pending ∧ t.due = [] ∧
    t.bc = { BusCtl.powerOn with
      busState := if s.setup.locked then .listen else .offline
      round := s.bc.round
      listenCount := if s.setup.locked then 2 else 0 } ∧
    (∀ a, t.rosterOf a = RosterEntry.absent) ∧ (∀ a, t.nwtOf a = none) ∧ t.mch = Channels.initial ∧ t.fsc = Scanner.initial ∧
    t.cle = { s.cle with list := [] } ∧ t.tkm = Tanks.initial ∧ t.sga = Segments.initial ∧
    t.trs = Train.initial s.trs.unflushed ∧ (∀ n, t.cell n = CellHistory.initial) ∧ t.pls = { s.pls with pending := false } ∧
    t.port = { Port.powerOn with mask := s.port.mask }

/-- The actuators set up are commanded safe and stand closed, or travel there (R75, R76). -/
def State.safeActuators (s : State) : Prop :=
  ∀ a, (s.actSetup a).isSome = true →
    (s.actOf a).command = .safe ∧ ((s.actOf a).travel = .closed ∨ (s.actOf a).travel = .closing)

/-- `t` is `s` after an entry to SILENT (R9, Table 1-5). -/
def State.silentOf (s t : State) : Prop :=
  t.bc.busState = .silent ∧ t.bc.queue = [] ∧ t.bc.markHolder = false ∧ t.bc.backoff = 0 ∧ t.bc.line = none ∧
    t.bc.round = s.bc.round ∧ t.bc.clock = s.bc.clock ∧ t.bc.markless = s.bc.markless ∧ t.bc.clash = s.bc.clash ∧
    t.rosterOf s.ident.address = RosterEntry.absent ∧ t.nwtOf s.ident.address = none ∧
    (∀ a, a ≠ s.ident.address → t.rosterOf a = s.rosterOf a ∧ t.nwtOf a = s.nwtOf a) ∧
    t.cle = { s.cle with list := [] } ∧ t.tkm = Tanks.initial ∧ t.sga.waits = [] ∧ (∀ i, (t.segOf i).holder = none) ∧
    t.trs = Train.initial s.trs.unflushed ∧ t.mch = Channels.initial ∧ t.pls = { s.pls with pending := false } ∧
    t.port.phase = .normal ∧ t.port.supplyTimer = 0 ∧ t.port.mask = s.port.mask ∧
    (∀ a, (s.actSetup a).isSome = true → (t.actOf a).command = .safe) ∧ t.setup = s.setup ∧ t.ident = s.ident

/-- `t` is `s` after an entry to DORMANT (R13, R202, Table 1-5). The 0 of the stopped travel timers is log 34's (DESIGN CHOICE). -/
def State.dormantOf (s t : State) : Prop :=
  t.bc.busState = .dormant ∧ t.bc.queue = [] ∧ t.bc.markHolder = false ∧ t.bc.backoff = 0 ∧ t.bc.line = none ∧
    t.bc.clock = none ∧ t.bc.round = s.bc.round ∧ t.bc.markless = s.bc.markless ∧ t.bc.failures = s.bc.failures ∧
    t.bc.clash = s.bc.clash ∧ (∀ a, t.rosterOf a = RosterEntry.absent) ∧ (∀ a, t.nwtOf a = none) ∧
    t.cle = { s.cle with list := [] } ∧ t.tkm = Tanks.initial ∧ t.sga = Segments.initial ∧
    t.trs = Train.initial s.trs.unflushed ∧ t.mch = Channels.initial ∧ t.fsc = Scanner.initial ∧
    (∀ n, t.cell n = CellHistory.initial) ∧ t.pls = { s.pls with pending := false } ∧ t.port.ring = [] ∧
    t.port.mask = s.port.mask ∧ t.port.phase = .normal ∧ t.port.supplyTimer = 0 ∧
    (∀ a, (s.actSetup a).isSome = true → t.actOf a = ⟨.safe, .closing, 0⟩) ∧ t.setup = s.setup ∧ t.ident = s.ident

/-! ## What a command of one block leaves -/

/-- From `s` to `t` nothing changed but claims, tanks, segments, train, channels, actuators and the events due; messages joined the
transmit queue and records joined the report ring. -/
def State.keepsRest (s t : State) : Prop :=
  t.setup = s.setup ∧ t.ident = s.ident ∧ t.pins = s.pins ∧ t.roster = s.roster ∧ t.nwt = s.nwt ∧ t.fsc = s.fsc ∧ t.ila = s.ila ∧
    t.pls = s.pls ∧ t.pending = s.pending ∧ t.bc = { s.bc with queue := t.bc.queue } ∧ s.bc.queue <+: t.bc.queue ∧
    t.port = { s.port with ring := t.port.ring } ∧
    s.port.ring.map (fun r => (r.body, r.round)) <+: t.port.ring.map (fun r => (r.body, r.round))

/-- The messages, and the meter pulse. -/
def blockRow : Instr → Bool
  | .holdReq .. | .holdFree .. | .holdGiven .. | .holdRefused .. | .claim .. | .grant .. | .refuse .. | .revoke .. | .cancel ..
  | .endMsg .. | .meterPulse _ => true
  | _ => false

/-- The events of channels, actuators, claims, automatic fill and the train. -/
def eventRow : Instr → Bool
  | .levelReadingComplete _ | .qualityReadingComplete | .travelTimeEnd _ | .travelStuck _ | .requestRepeat _ | .timeout _
  | .stalled _ | .fillRetryExpiry _ | .noFeedTimeout | .budgetTest | .rampComplete | .highpressHoldTimeout | .settleComplete
  | .settleLimit | .marginalTimeout | .diversionLimit | .goodQualityResume | .sensorTimeout | .permitTimeout | .retryWaitEnd
  | .ratePeriodEnd => true
  | _ => false

/-! ## Claims and the train -/

/-- The pumps and DIVERT are not driven (R160, R163). -/
def State.trainIdle (s : State) : Prop :=
  s.commandOf .feed ≠ .drive ∧ s.commandOf .highpress ≠ .drive ∧ s.commandOf .divert ≠ .drive

/-- From `s` to `t` the train entered FAULT with a cause (R163): pumps and DIVERT not driven, every timer at 0, stopped or none, the flush result
none, the own-stop mark set, and the unflushed mark as it stood. -/
def State.faultOf (s t : State) (cause : FaultCause) : Prop :=
  t.trs.state = .fault ∧ t.trs.faultCause = cause ∧ t.trainIdle ∧ t.trs.unflushed = s.trs.unflushed ∧ t.trs.ownStop = true ∧
    t.trs.flushResult = .none ∧ t.trs.phase = 0 ∧ t.trs.hold = 0 ∧ t.trs.settle = 0 ∧ t.trs.marginal = none ∧
    t.trs.sensor = none ∧ t.trs.diversion = 0 ∧ t.trs.good = none ∧ t.trs.permit = 0 ∧ t.trs.retry = none

/-- The train entered FAULT with a cause, and its TRAIN record was made behind at most `n` others (R145, R163). -/
def State.faultTold (s t : State) (cause : FaultCause) (n : Nat) : Prop :=
  s.faultOf t cause ∧ s.tellsTrain t n .fault .none cause .none ⟨0, 0⟩

/-- From `s` to `t` the train stopped out of the state `before` with a cause, its TRAIN record made behind at most `n` others (R145, R160): it is
in STOPPING, or, where the flush claim was refused and both pumps stand, STOPPED and unflushed with a second record (R161), before which at most
two CLAIM-END records and the WINDOW record PUMP-OFF come too. -/
def State.stopOf (s t : State) (before : TrainState) (cause : StopCause) (n : Nat) : Prop :=
  t.trainIdle ∧ s.tells t n (.train before .stopping .none .none cause ⟨0, 0⟩ s.trs.unflushed) ∧
    ((t.trs.state = .stopping ∧ t.trs.stopCause = cause) ∨
      (t.trs.state = .stopped ∧ s.tells t (n + 4) (.train .stopping .stopped .none .none .none ⟨0, 0⟩ true)))

/-! ## Frames -/

/-- A station frame whose every field fits its layout (Table 12-2). -/
def StationFrame.wf (f : StationFrame) : Bool :=
  validAddr f.source && inByte f.incarnation && f.record.wf && decide (f.messages.length ≤ 8) && f.messages.all Message.wf

/-! ## Requests -/

/-- The request that a row of the local port stands for. -/
def requestRow : Instr → Option Request
  | .badRequest => some .bad
  | .setupWrite item inst c => some (setupRequest item inst c)
  | .run => some .run
  | .status => some .status
  | .restart => some .restart
  | .draw p t c v w g => some (.draw p t c v w g)
  | .fill t src v g => some (.fill t src v g)
  | .stopClaim q => some (.stopClaim q)
  | .trainStart p => some (.trainStart p)
  | .trainStop => some .trainStop
  | .trainClear => some .trainClear
  | .planWrite t e => some (.planWrite t e)
  | .planRead k t => some (.planRead k t)
  | .planSwap => some .planSwap
  | .nwtRead a => some (.nwtRead a)
  | .claimRead => some .claimRead
  | .grantRead t => some (.grantRead t)
  | .reportTake => some .reportTake
  | .attnMask m => some (.attnMask m)
  | _ => none

/-- The commands that act while RESET is low: those of power and RESET, and the level of SUPPLY-LOW (R198). -/
def ofBoard : Instr → Bool
  | .powerOn _ => true
  | .resetRise _ => true
  | .coldReset => true
  | .supplyLowAsserted _ => true
  | .supplyLowReleased => true
  | _ => false

/-- The commands that can change the setup: writing and locking it, and the resets that clear it (R195, R196, R198). -/
def writesSetup : Instr → Bool
  | .powerOn _ => true
  | .coldReset => true
  | .setupWrite .. => true
  | .run => true
  | .portByteClocked .. => true
  | _ => false

end Sys2Proof.Machine
end

