-- ==== Sys2Proof/Certificates/Slice0/Obligations.lean ====
section
/-!
DEFINITION. The statements for the provers: the step, resets and supply, the bus, the messages, the field, the timed events, the local
port, and the laws every step keeps.
-/

section

open Sys2Proof Sys2Proof.Machine

/-! ## The step -/

/-- A step takes the command at the front of the queue, with the queue's rest. -/
def Obligations.StepTakesTheFront : Prop :=
  ∀ (c : Instr) (rest : List Instr) (s : State), s.pending = c :: rest → step s = exec c (s.setPending rest)

/-- No step of the station ends in a fault or a refusal; on an empty queue with nothing due a millisecond passes (assumption logs 2
and 29, DESIGN CHOICE). -/
def Obligations.StepsGoOn : Prop :=
  (∀ s : State, ∃ t, step s = .next t) ∧
  (∀ s : State, s.ready → s.pending = [] → s.port.phase = .normal →
    step s = .next { s with bc := { s.bc with
      clock := match s.bc.clock with
        | some c => if c < 103 then some (c + 1) else some c
        | none => none } })

/-! ## The laws every step keeps -/

/-- Law 10 and the bounds of the other lists, and the order of the wait queues: the station right after reset has them. -/
def Obligations.ResetIsSound : Prop :=
  State.reset.bounded = true ∧ State.reset.rosterSound ∧ State.reset.lawEleven ∧ State.reset.identified ∧ State.reset.waitsOrdered

/-- Every step keeps the bounds of the queues and lists (Law 10; R19, R77, R104, R109, R119, R129, R192), and the order of both wait
queues by class, arrival and claimant address (R109, R129). -/
def Obligations.BoundsAreKept : Prop :=
  (∀ s t : State, s.bounded = true → step s = .next t → t.bounded = true) ∧
  (∀ s t : State, s.waitsOrdered → step s = .next t → t.waitsOrdered)

/-- Every step keeps Law 12 (R31), with what it rests on. -/
def Obligations.LawTwelveIsKept : Prop :=
  ∀ s t : State, s.rosterSound → step s = .next t → t.rosterSound

/-- Every step keeps Law 11 (R202), with what it rests on. -/
def Obligations.LawElevenIsKept : Prop :=
  ∀ s t : State, s.lawEleven → step s = .next t → t.lawEleven

/-- R197: where the address and the incarnation are set, how they move, who refuses a bad address, and where the incarnation is
carried. The refused RUN answers with its reason after R196 and R204; that the item and the instance beside it are 0 and 0, row 1 of Table 11-3
naming no item, is the model's reading (assumption log 22). -/
def Obligations.AddressAndIncarnation : Prop :=
  (∀ (straps : BitVec 5) (s : State), ∃ t, exec (.powerOn straps) s = .next t ∧ t.ident.address = straps.toNat ∧
    t.ident.incarnation = 1) ∧
  (∀ (straps : BitVec 5) (s : State), s.ident.resetLow = true → s.ident.cold = true → ∃ t,
    exec (.resetRise straps) s = .next t ∧ t.ident.address = straps.toNat ∧ t.ident.incarnation = s.ident.incarnation) ∧
  (∀ s : State, s.ident.resetLow = true → s.ident.cold = false → ∃ t, exec .coldReset s = .next t ∧ t.ident.incarnation = 1) ∧
  (∀ (c : Instr) (s t : State), exec c s = .next t → (∀ straps, c ≠ .powerOn straps) →
    ((∀ straps, c ≠ .resetRise straps) ∨ s.ident.cold = false) → t.ident.address = s.ident.address) ∧
  (∀ s : State, s.ready → ∃ t, exec .resetFall s = .next t ∧
    t.ident.incarnation = if s.ident.incarnation = 255 then 1 else s.ident.incarnation + 1) ∧
  (∀ s : State, s.ready → s.port.restart = true → ∃ t, exec .selRise s = .next t ∧
    t.ident.incarnation = if s.ident.incarnation = 255 then 1 else s.ident.incarnation + 1) ∧
  (∀ (c : Instr) (s t : State), exec c s = .next t → s.identified → t.identified) ∧
  (∀ s : State, s.ready → s.bc.busState = .offline → s.ident.address = 0 ∨ 24 < s.ident.address →
    exec .run s = .next (s.answered [3, 11, 0, 0] false false)) ∧
  (∀ s : State, (compose s).1.source = s.ident.address ∧ (compose s).1.incarnation = s.ident.incarnation) ∧
  (∀ s : State, s.ready → ∃ t, exec .status s = .next t ∧
    t.port.answer.take 3 = [0, byteOf s.ident.address, byteOf s.ident.incarnation])

/-- What a command leaves of the other blocks. A message or a meter pulse, and an event of channels, actuators, claims, automatic
fill or the train: setup, identity, pins, roster, NWT, scanner, cells and plans, and of the bus controller and the port all but the
queue and the ring. A request other than SETUP-WRITE and RUN: the same, but PERMIT (TRAIN-START), the plans (PLAN-WRITE,
PLAN-SWAP), the attention mask (ATTN-MASK) and the transaction. -/
def Obligations.OtherBlocksStand : Prop :=
  (∀ (c : Instr) (s t : State), blockRow c = true → s.ready → exec c s = .next t → s.keepsRest t ∧ t.due = []) ∧
  (∀ (c : Instr) (s t : State), eventRow c = true → exec c s = .next t → s.keepsRest t) ∧
  (∀ (c : Instr) (r : Request) (s t : State), requestRow c = some r → r ≠ .run → (∀ i j l, r ≠ .setupWrite i j l) → s.ready →
    exec c s = .next t →
    s.keepsRest { t with
      pins := s.pins
      pls := s.pls
      port := { s.port with ring := t.port.ring } } ∧
    t.pins.supplyLow = s.pins.supplyLow ∧ t.due = [] ∧
    ((∀ i e, r ≠ .planWrite i e) → r ≠ .planSwap → t.pls = s.pls) ∧ ((∀ m, r ≠ .attnMask m) → t.port.mask = s.port.mask) ∧
    t.port.phase = s.port.phase ∧ t.port.supplyTimer = s.port.supplyTimer)

/-! ## Resets and supply -/

/-- POWER_ON: the power-on values, the address as sampled, the incarnation 1 (R197, R198; the pins and the commands waiting are
outside the station, assumption log 28). COLD_RESET takes the power-on values, RESET_RISE ends the hold and samples the straps
after a cold reset. Of State.reset, which both clauses name whole, the listen count 0, the bytes of the transaction, the scan marks, the inner
marks of the bus controller, the values of actuators not set up and the initial or absent values of a cell's power-on program are the model's
(assumption log 23, DESIGN CHOICE). While RESET is low no other command does anything: only the level of SUPPLY-LOW is followed. That RESET_RISE and
COLD_RESET do nothing while RESET is high is the model's choice (assumption log 18, DESIGN CHOICE). -/
def Obligations.PowerAndReset : Prop :=
  (∀ (straps : BitVec 5) (s : State),
    exec (.powerOn straps) s = .next { State.reset with
      ident := ⟨straps.toNat, 1, false, false⟩
      pins := s.pins
      pending := s.pending }) ∧
  ((∀ s : State, s.ident.resetLow = true → s.ident.cold = false →
    exec .coldReset s = .next { State.reset with
      ident := ⟨s.ident.address, 1, true, true⟩
      pins := s.pins
      pending := s.pending }) ∧
  (∀ (straps : BitVec 5) (s : State), s.ident.resetLow = true →
    exec (.resetRise straps) s = .next { s with ident :=
      ⟨if s.ident.cold then straps.toNat else s.ident.address, s.ident.incarnation, false, false⟩ }) ∧
  (∀ (straps : BitVec 5) (s : State), s.ident.resetLow = false → exec (.resetRise straps) s = .next s ∧
    exec .coldReset s = .next s)) ∧
  (∀ (c : Instr) (s : State), s.ident.resetLow = true →
    (ofBoard c = false → exec c s = .next s) ∧
    (∀ first, c = .supplyLowAsserted first → exec c s = .next { s with pins := { s.pins with supplyLow := true } }) ∧
    (c = .supplyLowReleased → exec c s = .next { s with pins := { s.pins with supplyLow := false } }))

/-- RESET falls: a warm reset, then the hold. A RESTART taken in the transaction that SEL's rise ends: a warm reset without the
hold (R14, R197, R198, R199). That the listen count is 0 after one in OFFLINE (assumption log 23, DESIGN CHOICE), and that a frame being sent leaves
the line in the step (assumption log 6, DEDUCED), where an own MARK is no boundary and a pending swap is dropped with it (assumption log 6,
DESIGN CHOICE), is the model's. -/
def Obligations.WarmResets : Prop :=
  (∀ s : State, s.ready → ∃ t, exec .resetFall s = .next t ∧ s.warmOf t ∧
    (s.setup.locked = true → t.safeActuators) ∧ t.ident.resetLow = true ∧ t.ident.cold = false) ∧
  (∀ s : State, s.ready → s.port.restart = true → ∃ t, exec .selRise s = .next t ∧ s.warmOf t ∧
    (s.setup.locked = true → t.safeActuators) ∧ t.ident.resetLow = false)

/-- SUPPLY-LOW asserted: HOLDING from JOINED, with the own leaving mark set, GRACE from 0, every claim stopped and the train stopped;
no change of bus state elsewhere (R28, R162, R200). -/
def Obligations.SupplyFails : Prop :=
  (∀ (first : Bool) (s : State), s.ready → s.bc.busState ≠ .joined →
    exec (.supplyLowAsserted first) s = .next { s with pins := { s.pins with supplyLow := true } }) ∧
  (∀ (first : Bool) (s : State), s.ready → s.bc.busState = .joined → ∃ t,
    exec (.supplyLowAsserted first) s = .next t ∧ t.bc.busState = .holding ∧ t.port.phase = .grace ∧
      t.port.supplyTimer = 0 ∧ t.pins.supplyLow = true ∧ (∀ q c, t.claimOf q = some c → c.state = .closing) ∧
      stoppable t.trs.state = false ∧
      (validAddr s.ident.address = true →
        t.rosterOf s.ident.address = { s.rosterOf s.ident.address with leaving := true }) ∧
      (∀ a, a ≠ s.ident.address → t.rosterOf a = s.rosterOf a) ∧
      t.nwt = s.nwt ∧ t.setup = s.setup ∧ t.pls = s.pls)

/-- SUPPLY-LOW released, and the end of the grace (R13, R201). SUPPLY_GRACE_EXPIRY stands for the instant at which the timer reaches 2000 ms
(assumption log 4, DESIGN CHOICE). That the stopped travel timer reads 0 in DORMANT (State.dormantOf) and that the expiry does nothing where
no grace runs are the model's choices (assumption logs 34 and 18, DESIGN CHOICE). -/
def Obligations.SupplyReturnsOrFails : Prop :=
  (∀ s : State, s.ready → s.bc.busState = .holding → s.bc.dormantNext = false →
    exec .supplyLowReleased s = .next { s with
      bc := { s.bc with busState := .joined }
      port := { s.port with phase := .normal, supplyTimer := 0 }
      pins := { s.pins with supplyLow := false } }) ∧
  (∀ s : State, s.ready → s.bc.busState ≠ .holding ∨ s.bc.dormantNext = true →
    exec .supplyLowReleased s = .next { s with pins := { s.pins with supplyLow := false } }) ∧
  (∀ s : State, s.ready → s.bc.busState = .holding → s.port.phase = .grace → s.pins.supplyLow = true →
    s.bc.line = none → ∃ t, exec .supplyGraceExpiry s = .next t ∧ s.dormantOf t) ∧
  (∀ s : State, s.ready → s.bc.busState = .holding → s.port.phase = .grace → s.pins.supplyLow = true →
    s.bc.line ≠ none → exec .supplyGraceExpiry s = .next { s with
      bc := { s.bc with dormantNext := true }
      port := { s.port with supplyTimer := 2000 } }) ∧
  (∀ s : State, s.ready → s.bc.busState ≠ .holding ∨ s.port.phase ≠ .grace ∨ s.pins.supplyLow = false →
    exec .supplyGraceExpiry s = .next s)

/-! ## The bus -/

/-- The own slot: the frame that goes out, what leaves the queue for it, the own entries, and SBTE (R1, R4, R20, R28, R35); no frame outside
it. A grace that ends before the slot ends in DORMANT (R201, assumption log 4), where the stopped travel timer reads 0 (State.dormantOf;
assumption log 34, DESIGN CHOICE). That an own slot that cannot start does nothing is the model's choice (assumption log 18, DESIGN CHOICE).
The record that is sampled (R37, R38, R39), with available and headroom as R106 gives them. -/
def Obligations.OwnSlotSends : Prop :=
  (∀ (b : Bool) (c : Nat) (s : State), s.ready → s.serving = true → s.bc.slotTaken = false → s.bc.line = none →
    s.bc.clock = some c → c ≤ 4 * s.ident.address → validAddr s.ident.address = true →
    (s.graceEnds (4 * s.ident.address) = false →
      ∃ t, exec (.ownSlotStart b) s = .next t ∧ t.sbte = true ∧ t.bc.slotTaken = true ∧
        t.bc.clock = some (4 * s.ident.address) ∧ ∃ f, t.bc.line = some (.station f) ∧
        f.source = s.ident.address ∧ f.incarnation = s.ident.incarnation ∧
        f.round = s.bc.round ∧ f.leaving = decide (s.bc.busState = .holding) ∧ f.record = s.sampleRecord ∧
        t.rosterOf f.source = { s.rosterOf f.source with lastHeard := f.round, leaving := f.leaving } ∧
        t.nwtOf f.source = some ⟨f.record, f.round, f.round, false⟩ ∧
        f.messages.length ≤ 8 ∧ (f.messages = [] ∨ (encFrame f).length ≤ 350) ∧
        ∃ rest, f.messages ++ rest = s.bc.queue ∧ rest <+: t.bc.queue ∧
          ∀ m more, rest = m :: more → f.messages.length = 8 ∨ 350 < (encFrame f).length + (encMessage m).length) ∧
    (s.failing = true → s.graceEnds (4 * s.ident.address) = true →
      ∃ t, exec (.ownSlotStart b) s = .next t ∧ s.dormantOf t)) ∧
  (∀ (b : Bool) (s : State), s.ready →
    (s.serving = false ∨ s.bc.slotTaken = true ∨ s.bc.line ≠ none ∨ s.bc.clock = none ∨
      ∃ c, s.bc.clock = some c ∧ 4 * s.ident.address < c) →
    exec (.ownSlotStart b) s = .next s) ∧
  (∀ (s : State) (r : StatusRecord), r = s.sampleRecord →
    (r.bank = s.pls.active ∧ r.generation = s.pls.generation ∧
      ∀ n, n < 8 → (r.flags.getLsbD n = true ↔ (s.program n).publish = true ∧ (s.cell n).output = true)) ∧
    (r.tanks.map (·.index) = [0, 1].filter s.hasTank ∧ ∀ i ∈ r.tanks,
      (∀ u, s.tankSetup i.index = some u → i.capacity = u.capacity) ∧ i.window = (s.levelCh i.index).window ∧
      i.fill = (s.tankOf i.index).fill ∧
      (i.window = .initial → i.level = 0) ∧ (i.window ≠ .initial → i.level = (s.levelCh i.index).accepted) ∧
      (∀ k, 1 ≤ k → k ≤ 5 → (forClass i.available k : Int) =
        max 0 ((s.levelCh i.index).accepted - forClass (s.plan i.index).floor k -
          (((s.tankOf i.index).grants.filter fun g => g.kind ≠ .inflow ∧ g.cls ≤ 5).map (·.remaining)).sum)) ∧
      (i.headroom : Int) = max 0 ((i.capacity : Int) - (s.plan i.index).topMargin - (s.levelCh i.index).accepted -
        (((s.tankOf i.index).grants.filter fun g => g.kind = .inflow).map (·.remaining)).sum)) ∧
    ((s.setup.train = none → r.train = none) ∧ (s.setup.train ≠ none → ∃ g, r.train = some g ∧ g.state = s.trs.state ∧
      g.rate = s.trs.rate ∧ g.quality = s.mch.quality.window ∧ g.unflushed = s.trs.unflushed ∧
      (g.pending = true ↔ s.trs.state = .pending) ∧
      (∀ d, s.setup.destinations[s.trs.destIndex]? = some d → s.trs.state = .producing ∨ s.trs.state = .diverting →
        s.trs.retry = none → g.dest = d.tank) ∧
      ((s.trs.state ≠ .producing ∧ s.trs.state ≠ .diverting) ∨ s.trs.retry ≠ none → g.dest = ⟨0, 0⟩))) ∧
    (r.segments.map (·.index) = [0, 1, 2, 3].filter s.hasSegment ∧ ∀ i ∈ r.segments,
      ((s.segOf i.index).state = .free → i.status = .free) ∧ ((s.segOf i.index).state = .fault → i.status = .fault) ∧
      (∀ id, (s.segOf i.index).state = .held → (s.segOf i.index).holder = some id → i.status = .held id)) ∧
    r.claims = s.cle.list.map fun c => ⟨c.sequence, c.kind,
      match c.state with
      | .pathing => .pathing
      | .asking => .asking
      | .flowing => .flowing c.delivered
      | .closing => .closing c.delivered, c.cls, c.tank⟩)

/-- The expected boundary at the mark holder (R15), the grace not ending before it; a MARK of this station that fails (R18); SBTE, asserted
exactly while a frame of this station is being sent (R1); and, the model's choice (assumption log 18, DESIGN CHOICE), a mismatch while nothing
is sent, which does nothing. -/
def Obligations.MarkIsSent : Prop :=
  ((∀ (c : Nat) (s : State), s.ready → s.serving = true → s.bc.markHolder = true → s.bc.line = none →
    s.bc.numberTaken = false → s.bc.clock = some c → c ≤ 100 → s.graceEnds 100 = false →
    ∃ t, exec .markSend s = .next t ∧
      t = { s with
        bc := t.bc
        port := { s.port with supplyTimer := t.port.supplyTimer }
        due := t.due } ∧
      (s.port.phase = .normal → t.port = s.port ∧ t.due = s.due) ∧
      (s.bc.backoff = 0 → t.bc = { s.bc with
        clock := some 100, round := s.bc.round + 1, numberTaken := true, line := some (.mark (s.bc.round + 1)) }) ∧
      (0 < s.bc.backoff → t.bc = { s.bc with clock := some 100, backoff := s.bc.backoff - 1 })) ∧
  (∀ s : State, s.ready → s.serving = false ∨ s.bc.markHolder = false → exec .markSend s = .next s)) ∧
  ((∀ (r : Word) (s : State), s.ready → s.bc.line = some (.mark r) → s.bc.dormantNext = false →
    exec .readbackMismatch s = .next { s with bc := { s.bc with backoff := s.ident.address, line := none } }) ∧
  (∀ s : State, s.ready → s.bc.line = none → exec .readbackMismatch s = .next s)) ∧
  (∀ s : State, s.sbte = true ↔ s.ident.resetLow = false ∧ s.bc.line ≠ none)

/-- The readback failure count (R8): a failed station frame adds one, a good one sets it to 0, a MARK leaves it, the eighth failure leads to
SILENT with a BUS record of cause READBACK (R9), resets set it to 0, and HOLDING and the return keep it. A failed frame puts no message back and
has no further consequence below the eighth; the next own slot sends again, with its record sampled anew and what is still queued. The clause of
a mismatch at seven failures while DORMANT is due rests on the model's reading (assumption log 16, DEDUCED). -/
def Obligations.ReadbackFailures : Prop :=
  (∀ (f : StationFrame) (s : State), s.ready → s.bc.line = some (.station f) → s.bc.dormantNext = false →
    s.bc.failures < 7 → exec .readbackMismatch s = .next { s with bc := { s.bc with
      failures := s.bc.failures + 1, line := none } }) ∧
  (∀ (f : StationFrame) (s : State), s.ready → s.bc.line = some (.station f) → s.bc.dormantNext = false →
    s.bc.failures = 7 → ∃ t, exec .readbackMismatch s = .next t ∧ s.silentOf t ∧ t.bc.failures = 8 ∧
      s.tells t 0 (.bus .silentReadback)) ∧
  (∀ (f : StationFrame) (s : State), s.ready → s.bc.line = some (.station f) → s.bc.dormantNext = true →
    s.bc.failures ≤ 7 → ∃ t, exec .readbackMismatch s = .next t ∧ t.bc.busState = .dormant ∧
      t.bc.failures = s.bc.failures + 1) ∧
  (∀ (f : StationFrame) (s : State), s.ready → s.bc.line = some (.station f) →
    ∃ t, exec .ownFrameGood s = .next t ∧ t.bc.failures = 0 ∧ t.bc.line = none) ∧
  (∀ (r : Word) (s : State), s.ready → s.bc.line = some (.mark r) →
    ∃ t, exec .readbackMismatch s = .next t ∧ t.bc.failures = s.bc.failures) ∧
  (∀ (r : Word) (frame : List Byte) (ms : Nat) (permit : Bool) (s : State), s.ready → s.hearing = true →
    s.bc.line = some (.mark r) → readMark frame = some (r, s.ident.address) →
    ∃ t, exec (.validMark frame ms permit) s = .next t ∧ t.bc.failures = s.bc.failures) ∧
  (∀ (straps : BitVec 5) (s : State), ∃ t, exec (.powerOn straps) s = .next t ∧ t.bc.failures = 0) ∧
  (∀ s : State, s.ident.resetLow = true → s.ident.cold = false → ∃ t, exec .coldReset s = .next t ∧ t.bc.failures = 0) ∧
  (∀ s : State, s.ready → ∃ t, exec .resetFall s = .next t ∧ t.bc.failures = 0) ∧
  (∀ s : State, s.ready → s.port.restart = true → ∃ t, exec .selRise s = .next t ∧ t.bc.failures = 0) ∧
  (∀ (first : Bool) (s : State), s.ready → ∃ t, exec (.supplyLowAsserted first) s = .next t ∧
    t.bc.failures = s.bc.failures) ∧
  (∀ s : State, s.ready → ∃ t, exec .supplyLowReleased s = .next t ∧ t.bc.failures = s.bc.failures) ∧
  (∀ (c : Instr) (s t : State), exec c s = .next t → s.bc.failures ≤ 8 → t.bc.failures ≤ 8) ∧
  (∀ (b : Bool) (c : Nat) (s : State), s.ready → s.serving = true → s.bc.slotTaken = false → s.bc.line = none →
    s.bc.clock = some c → c ≤ 4 * s.ident.address → validAddr s.ident.address = true →
    s.graceEnds (4 * s.ident.address) = false →
    ∃ t, exec (.ownSlotStart b) s = .next t ∧ t.bc.failures = s.bc.failures ∧ ∃ f, t.bc.line = some (.station f) ∧
      f.record = s.sampleRecord ∧ ∃ rest, f.messages ++ rest = s.bc.queue ∧ rest <+: t.bc.queue)

/-- A good frame of this station: the messages to itself are handed on in frame order, the others are not (R7). With no station frame on
the line OWN_FRAME_GOOD does nothing, which is the model's choice (assumption log 18, DESIGN CHOICE). -/
def Obligations.OwnFrameIsGood : Prop :=
  (∀ (f : StationFrame) (s : State), s.ready → s.bc.line = some (.station f) → s.bc.dormantNext = false →
    exec .ownFrameGood s = .next ((f.messages.filter fun m => m.dest = s.ident.address).foldl
      (fun s m => takeMessage f.source f.incarnation m.body s) { s with bc := { s.bc with failures := 0, line := none } })) ∧
  (∀ s : State, s.ready → (∀ f, s.bc.line ≠ some (.station f)) → exec .ownFrameGood s = .next s)

/-- A valid MARK is the boundary, the grace not ending before it: its number is adopted, the slots begin, the markless count is 0 (R3, R16). From
another station: the holder yields to a lower address, and a station that is not the holder takes the flag from a higher one, with a BUS record
of kind mark takeover, exactly when no lower address is PRESENT (R17): in JOINED, and at the boundary at which it enters JOINED, but not where
that boundary leads to HOLDING (State.testsTakeover). The station's own good MARK is its boundary, and flag and backoff stand (R15). Bytes that
are no valid MARK are discarded (R5). In LISTEN another station's MARK counts and ends the wait as the local timer's boundary does (R11, R28,
R35, R200). -/
def Obligations.MarkIsAdopted : Prop :=
  (∀ (frame : List Byte) (ms : Nat) (permit : Bool) (r : Word) (a : Nat) (s : State), s.ready → s.hearing = true →
    readMark frame = some (r, a) → a ≠ s.ident.address → s.graceEnds ms = false →
    ∃ t, exec (.validMark frame ms permit) s = .next t ∧ t.bc.round = r ∧ t.bc.markless = 0 ∧ t.bc.clock = some 0 ∧
      t.bc.heard = [] ∧ t.bc.slotTaken = false ∧ t.bc.numberTaken = false ∧ t.pins.permit = permit ∧
      t.bc.failures = s.bc.failures ∧
      (s.bc.markHolder = true → a < s.ident.address → t.bc.markHolder = false ∧ t.bc.backoff = 0) ∧
      (s.bc.markHolder = true → s.ident.address < a → t.bc.markHolder = true ∧ t.bc.backoff = s.bc.backoff) ∧
      (s.testsTakeover → s.ident.address < a →
        (∀ b, validAddr b = true → b < s.ident.address → (s.rosterOf b).presence ≠ .present) → s.takesOver t) ∧
      (s.testsTakeover →
        (a < s.ident.address ∨ ∃ b ∈ s.bc.heard, validAddr b = true ∧ b < s.ident.address ∧ (s.rosterOf b).presence = .present) →
        t.bc.markHolder = false) ∧
      (s.bc.markHolder = false → ¬s.testsTakeover → t.bc.markHolder = false) ∧
      (s.bc.busState = .listen → s.bc.clock = none → t.bc.busState = .listen ∧ t.bc.listenCount = s.bc.listenCount) ∧
      (s.bc.busState = .listen → s.bc.clock ≠ none → t.bc.listenCount = s.bc.listenCount - 1 ∧
        (s.bc.listenCount ≠ 1 ∨ s.bc.clash = true → t.bc.busState = .listen) ∧
        (s.bc.listenCount = 1 → s.bc.clash = false → validAddr s.ident.address = true →
          (t.rosterOf s.ident.address).presence = .present ∧
          (t.rosterOf s.ident.address).incarnation = s.ident.incarnation ∧
          (t.rosterOf s.ident.address).lastHeard = r ∧ (t.rosterOf s.ident.address).missed = 0 ∧
          (∃ e, t.nwtOf s.ident.address = some e ∧ e.recordRound = r ∧ e.receiptRound = r ∧ e.stale = false ∧
            (s.lawEleven → e.record = s.sampleRecord)) ∧
          (s.pins.supplyLow = false → t.bc.busState = .joined ∧ (t.rosterOf s.ident.address).leaving = false) ∧
          (s.pins.supplyLow = true → t.bc.busState = .holding ∧ (t.rosterOf s.ident.address).leaving = true ∧
            t.port.phase = .grace ∧ t.port.supplyTimer = 0)))) ∧
  (∀ (frame : List Byte) (ms : Nat) (permit : Bool) (r : Word) (s : State), s.ready → s.serving = true →
    s.bc.line = some (.mark r) → readMark frame = some (r, s.ident.address) → s.bc.dormantNext = false →
    s.graceEnds ms = false →
    ∃ t, exec (.validMark frame ms permit) s = .next t ∧ t.bc.round = r ∧ t.bc.markless = 0 ∧ t.bc.clock = some 0 ∧
      t.bc.heard = [] ∧ t.bc.slotTaken = false ∧ t.bc.numberTaken = false ∧ t.bc.line = none ∧ t.pins.permit = permit ∧
      t.bc.markHolder = s.bc.markHolder ∧ t.bc.backoff = s.bc.backoff ∧ t.bc.busState = s.bc.busState) ∧
  (∀ (frame : List Byte) (ms : Nat) (permit : Bool) (s : State), s.ready → readMark frame = none ∨ s.hearing = false →
    exec (.validMark frame ms permit) s = .next s)

/-- The local timer supplies the boundary (R3), the grace not ending before it, dated 4 ms back (assumption log 8, DEDUCED). The third markless
boundary gives the flag, with a BUS record of kind mark takeover, exactly when no lower address is PRESENT (R16): in JOINED, and at the boundary
at which the station enters JOINED, but not where that boundary leads to HOLDING (State.testsTakeover). In LISTEN a boundary after another lowers
the count, and the one that brings it to 0 is the entry to JOINED with the own entries made, or to HOLDING with GRACE from 0 and the own leaving
mark set while SUPPLY-LOW is asserted; with the clash flag set there is no entry; a first boundary leaves the count (R11, R28, R35, R200). -/
def Obligations.TimerSuppliesBoundary : Prop :=
  (∀ (permit : Bool) (s : State), s.ready → s.hearing = true → s.graceEnds 104 = false →
    ∃ t, exec (.localRoundTimer permit) s = .next t ∧
      t.bc.round = (if s.bc.numberTaken then s.bc.round else s.bc.round + 1) ∧
      t.bc.markless = min 255 (s.bc.markless + 1) ∧ t.bc.clock = some 4 ∧ t.bc.heard = [] ∧ t.bc.slotTaken = false ∧
      t.bc.failures = s.bc.failures ∧ t.pins.permit = permit ∧
      (s.testsTakeover → 2 ≤ s.bc.markless →
        (∀ a, validAddr a = true → a < s.ident.address → (s.rosterOf a).presence ≠ .present) → s.takesOver t) ∧
      (s.testsTakeover →
        (s.bc.markless < 2 ∨
          ∃ a ∈ s.bc.heard, validAddr a = true ∧ a < s.ident.address ∧ (s.rosterOf a).presence = .present) →
        t.bc.markHolder = false) ∧
      (¬s.testsTakeover → t.bc.markHolder = s.bc.markHolder) ∧
      (s.bc.busState = .listen → s.bc.clock = none → t.bc.busState = .listen ∧ t.bc.listenCount = s.bc.listenCount) ∧
      (s.bc.busState = .listen → s.bc.clock ≠ none → t.bc.listenCount = s.bc.listenCount - 1 ∧
        (s.bc.listenCount ≠ 1 ∨ s.bc.clash = true → t.bc.busState = .listen) ∧
        (s.bc.listenCount = 1 → s.bc.clash = false → validAddr s.ident.address = true →
          (t.rosterOf s.ident.address).presence = .present ∧
          (t.rosterOf s.ident.address).incarnation = s.ident.incarnation ∧
          (t.rosterOf s.ident.address).lastHeard = t.bc.round ∧ (t.rosterOf s.ident.address).missed = 0 ∧
          (∃ e, t.nwtOf s.ident.address = some e ∧ e.recordRound = t.bc.round ∧ e.receiptRound = t.bc.round ∧ e.stale = false ∧
            (s.lawEleven → e.record = s.sampleRecord)) ∧
          (s.pins.supplyLow = false → t.bc.busState = .joined ∧ (t.rosterOf s.ident.address).leaving = false) ∧
          (s.pins.supplyLow = true → t.bc.busState = .holding ∧ (t.rosterOf s.ident.address).leaving = true ∧
            t.port.phase = .grace ∧ t.port.supplyTimer = 0)))) ∧
  (∀ (permit : Bool) (s : State), s.ready → s.hearing = false → exec (.localRoundTimer permit) s = .next s)

/-- A valid station frame from another station: the roster takes its header and the NWT its record (R22 to R25, R32), and no other station's
entries change; then, in JOINED and HOLDING only, the messages addressed to this station are handed on in frame order (R6, Tables 1-2 and 1-3),
each as its row of the opcode table takes it. A peer that joins or restarts makes its PEER record in JOINED, HOLDING and SILENT, and none in
LISTEN (R29). One with a new incarnation and no message to this station leaves nothing held for the address (R25, R115, R140), and of the
claims that depend on it those in PATHING and ASKING are gone and those in FLOWING close or are gone with OWNER-LOST (R99). A frame that
ends outside the slot of its first bit is discarded (R5), and one in another slot is not handed on (R5). -/
def Obligations.StationFrameIsTaken : Prop :=
  (∀ (bytes : List Byte) (f : StationFrame) (first last c : Nat) (s : State), s.ready → s.hearing = true →
    s.bc.clock = some c → readFrame bytes = some f → f.source ≠ s.ident.address → first ≤ last →
    slotAt first = f.source → slotAt last = f.source → s.graceEnds last = false →
    ∃ t, exec (.stationFrameReceived bytes first last) s = .next t ∧
      t.rosterOf f.source = ⟨.present, f.incarnation, s.bc.round, 0, f.leaving⟩ ∧
      t.nwtOf f.source = some ⟨f.record, f.round, s.bc.round, false⟩ ∧ t.bc.heard = f.source :: s.bc.heard ∧
      t.bc.round = s.bc.round ∧
      (∀ a, a ≠ f.source → t.rosterOf a = s.rosterOf a ∧ t.nwtOf a = s.nwtOf a) ∧
      (∀ u, u = takeRecord f.source f.incarnation f.round f.record (takeHeader f.source f.incarnation f.leaving
          { timeTo last s with bc := { (timeTo last s).bc with heard := f.source :: s.bc.heard } }) →
        (s.serving = true → t = (f.messages.filter fun m => m.dest = s.ident.address).foldl
          (fun s m => takeMessage f.source f.incarnation m.body s) u) ∧
        (s.serving = false → t = u)) ∧
      (s.serving = true ∨ s.bc.busState = .silent →
        ((s.rosterOf f.source).presence = .absent → s.tells t 0 (.peer f.source (.joined f.incarnation))) ∧
        ((s.rosterOf f.source).presence ≠ .absent → (s.rosterOf f.source).incarnation ≠ f.incarnation →
          s.tells t 0 (.peer f.source (.restarted f.incarnation (s.rosterOf f.source).incarnation)))) ∧
      (s.bc.busState = .listen → s.lawEleven → t.port.ring = s.port.ring) ∧
      ((s.rosterOf f.source).presence ≠ .absent → (s.rosterOf f.source).incarnation ≠ f.incarnation →
        (∀ m ∈ f.messages, m.dest ≠ s.ident.address) → (∀ i, (s.segOf i).state = .free → (s.segOf i).holder = none) →
        t.holdsNothingOf f.source ∧
        (s.oneClaimEach → (∀ x ∈ s.cle.list, x.creator ≠ .train) →
          ∀ x ∈ s.cle.list, dependsOn f.source x = true →
            (∀ y ∈ t.cle.list, y.sequence = x.sequence → y.state = .closing) ∧
            (x.state = .flowing → ∀ y ∈ t.cle.list, y.sequence = x.sequence → y.reason = some .ownerLost) ∧
            (x.state = .pathing ∨ x.state = .asking → ∀ y ∈ t.cle.list, y.sequence ≠ x.sequence)))) ∧
  (∀ (bytes : List Byte) (first last : Nat) (s : State), s.ready → readFrame bytes = none ∨ s.hearing = false →
    exec (.stationFrameReceived bytes first last) s = .next s) ∧
  (∀ (bytes : List Byte) (f : StationFrame) (first last : Nat) (s : State), s.ready → readFrame bytes = some f →
    f.source ≠ s.ident.address → s.bc.clock = none ∨ slotAt first ≠ f.source →
    exec (.stationFrameReceived bytes first last) s = .next s) ∧
  (∀ (bytes : List Byte) (first last : Nat) (s : State), s.ready → s.bc.clock ≠ none →
    last < first ∨ slotAt first ≠ slotAt last ∨ 100 ≤ last →
    exec (.stationFrameReceived bytes first last) s = .next s) ∧
  (∀ (src inc q i k v : Nat) (s : State), s.ready →
    exec (.holdReq src inc q i k) s = .next (takeMessage src inc (.holdReq q i k) s) ∧
    exec (.holdFree src inc q i) s = .next (takeMessage src inc (.holdFree q i) s) ∧
    exec (.holdGiven src q i) s = .next (takeMessage src inc (.holdGiven q i) s) ∧
    (∀ r, exec (.holdRefused src q i r) s = .next (takeMessage src inc (.holdRefused q i r) s)) ∧
    (∀ x, exec (.claim src inc q x i k v) s = .next (takeMessage src inc (.claim q x i k v) s)) ∧
    exec (.grant src q v) s = .next (takeMessage src inc (.grant q v) s) ∧
    (∀ r, exec (.refuse src q r) s = .next (takeMessage src inc (.refuse q r) s)) ∧
    exec (.revoke src q) s = .next (takeMessage src inc (.revoke q) s) ∧
    exec (.cancel src inc q) s = .next (takeMessage src inc (.cancel q) s) ∧
    ∀ r, exec (.endMsg src inc q v r) s = .next (takeMessage src inc (.endMsg q v r) s))

/-- An address clash (R12), the grace not ending before it: to SILENT from JOINED and HOLDING, with a PEER record of kind clash and a BUS
record of cause CLASH (R9), the flag and the PEER record in LISTEN, nothing in SILENT. By a
station frame, wherever its slot; and by a MARK bearing the own address that is not the own good MARK, which is no boundary (assumption
log 20, DEDUCED): the instant moves to its own. That the record of kind clash carries this station's own address and no incarnation is the
model's choice (assumption log 13, DESIGN CHOICE): R12 and R29 name no field for kind clash. -/
def Obligations.AddressClash : Prop :=
  (∀ (bytes : List Byte) (f : StationFrame) (first last : Nat) (s : State), s.ready → readFrame bytes = some f →
    f.source = s.ident.address → s.bc.clock = none ∨ (first ≤ last ∧ slotAt first = slotAt last ∧ last < 100) →
    s.graceEnds last = false →
    (s.serving = true → ∃ t, exec (.stationFrameReceived bytes first last) s = .next t ∧ s.silentOf t ∧
      t.bc.failures = s.bc.failures ∧ s.tells t 1 (.peer s.ident.address .clash) ∧ s.tells t 1 (.bus .silentClash)) ∧
    (s.bc.busState = .listen → s.bc.clash = false → ∃ t, exec (.stationFrameReceived bytes first last) s = .next t ∧
      t.bc = { s.bc with clash := true } ∧
      t = { report (.peer s.ident.address .clash) s with bc := t.bc }) ∧
    (s.bc.busState = .silent ∨ (s.bc.busState = .listen ∧ s.bc.clash = true) →
      exec (.stationFrameReceived bytes first last) s = .next s)) ∧
  (∀ (frame : List Byte) (ms : Nat) (permit : Bool) (r : Word) (s : State), s.ready →
    readMark frame = some (r, s.ident.address) → s.bc.line ≠ some (.mark r) → s.graceEnds ms = false →
    (s.serving = true → ∃ t, exec (.validMark frame ms permit) s = .next t ∧
      { s with bc := { s.bc with clock := s.bc.clock.map fun c => max c ms } }.silentOf t ∧
      t.bc.failures = s.bc.failures ∧ t.pins = s.pins ∧ s.tells t 1 (.peer s.ident.address .clash) ∧
      s.tells t 1 (.bus .silentClash)) ∧
    (s.bc.busState = .listen → s.port.phase = .normal → s.bc.clash = false → ∃ t,
      exec (.validMark frame ms permit) s = .next t ∧
      t.bc = { s.bc with clock := s.bc.clock.map fun c => max c ms, clash := true } ∧
      t = { report (.peer s.ident.address .clash) s with bc := t.bc }) ∧
    (s.port.phase = .normal → s.bc.busState = .silent ∨ (s.bc.busState = .listen ∧ s.bc.clash = true) →
      exec (.validMark frame ms permit) s = .next { s with bc := { s.bc with
        clock := s.bc.clock.map fun c => max c ms } }))

/-- A status record by itself (assumption log 3, DESIGN CHOICE): the NWT entry is replaced whole (R32) for a peer that is PRESENT, and
nothing happens otherwise. What it does at the blocks: a claim that holds a segment shown FAULT ends SEGMENT-FAULT, unless it is the train's
(R98, for claims of the port and of automatic fill); each grant of the sender takes the delivered figure, a shown entry's absent count is 0, and
one that is absent twice is removed (R113, R114); every entry of the revocation memory, whatever claims the station has, stays, sends REVOKE again,
or leaves (R119; State.memoryAfter); and the holds and hold wait queue entries are swept in the same way (R138, R139). That the REVOKEs sent
again stand directly after the old queue and the final messages of the claims that the record ends, in the order of the entries, oldest first,
and so take the last free places, rests on the order in which the blocks take a record and the Tank Manager its entries (assumption log 32,
DESIGN CHOICE; R19 allows either order). -/
def Obligations.RecordReplacesEntry : Prop :=
  ∀ (src inc : Nat) (round : Word) (r : StatusRecord) (s : State), s.ready →
    (s.hearing = true → validAddr src = true → src ≠ s.ident.address → (s.rosterOf src).presence = .present →
      ∃ t, exec (.statusRecord src inc round r) s = .next t ∧ t.nwtOf src = some ⟨r, round, s.bc.round, false⟩ ∧
        t.roster = s.roster ∧ (∀ a, a ≠ src → t.nwtOf a = s.nwtOf a) ∧
        (s.oneClaimEach → (∀ x ∈ s.cle.list, x.creator ≠ .train) → ∀ x ∈ s.cle.list,
          ((∃ g ∈ x.path.take x.held, g.station = src ∧ ∃ i ∈ r.segments, i.index = g.index ∧ i.status = .fault) →
            (x.state = .pathing ∨ x.state = .asking → ∀ y ∈ t.cle.list, y.sequence ≠ x.sequence) ∧
            (x.state = .flowing → ∀ y ∈ t.cle.list, y.sequence = x.sequence →
              y.state = .closing ∧ y.reason = some .segmentFault) ∧
            (x.state = .closing → x ∈ t.cle.list)) ∧
          ((∀ g ∈ x.path.take x.held, g.station = src → ∀ i ∈ r.segments, i.index = g.index → i.status ≠ .fault) →
            x ∈ t.cle.list)) ∧
        (∀ k, k < 2 → ((s.tankOf k).grants.filterMap fun g =>
            if g.id.address = src ∧ g.id.incarnation = inc then
              match r.claims.find? fun i => i.sequence = g.id.sequence ∧ i.tank = ⟨s.ident.address, k⟩ with
              | some i =>
                match i.status with
                | .flowing d => some { g with
                    delivered := max g.delivered d
                    remaining := if g.delivered < d then g.volume - d else g.remaining
                    absentCount := 0 }
                | .closing d => some { g with
                    delivered := max g.delivered d
                    remaining := if g.delivered < d then g.volume - d else g.remaining
                    absentCount := 0 }
                | _ => some { g with absentCount := 0 }
              | none => if g.absentCount = 0 then some { g with absentCount := 1 } else none
            else some g) <+: (t.tankOf k).grants ∧
          (s.tkm.waits = [] → (t.tankOf k).grants.length ≤ (s.tankOf k).grants.length)) ∧
        (t.tkm.waits.Sublist (s.tkm.waits.filterMap fun w =>
          if w.id.address = src ∧ w.id.incarnation = inc then
            if ∃ i ∈ r.claims, i.sequence = w.id.sequence ∧ i.tank = ⟨s.ident.address, w.tank⟩ then
              some { w with absentCount := 0 }
            else if w.absentCount = 0 then some { w with absentCount := 1 } else none
          else some w)) ∧
        (∀ before k, before = (recordClaims src r.segments (s.putNwt src (some ⟨r, round, s.bc.round, false⟩))).bc.queue →
          k = (if s.serving then 16 - before.length else 0) →
          (s.cle.list = [] → before = s.bc.queue) ∧
          t.tkm.memory = s.memoryAfter src inc r.claims k s.tkm.memory ∧
          (before ++ ((s.tkm.memory.filter (s.resends src inc r.claims)).take k).map fun m =>
            ⟨m.id.address, .revoke m.id.sequence⟩) <+: t.bc.queue) ∧
        ((∀ i id, (s.segOf i).holder = some id → id.address = src → id.incarnation = inc →
            (s.segOf i).absentCount = 0 ∨ ∃ x ∈ r.claims, x.sequence = id.sequence) →
          t.sga.waits = s.sga.waits.filterMap fun w =>
            if w.id.address = src ∧ w.id.incarnation = inc then
              if ∃ x ∈ r.claims, x.sequence = w.id.sequence then some { w with absentCount := 0 }
              else if w.absentCount = 0 then some { w with absentCount := 1 } else none
            else some w) ∧
        (∀ i, i < 4 →
          ((∀ id, (s.segOf i).holder = some id → id.address ≠ src ∨ id.incarnation ≠ inc) → t.segOf i = s.segOf i) ∧
          (∀ id, (s.segOf i).holder = some id → id.address = src → id.incarnation = inc →
            ((∃ x ∈ r.claims, x.sequence = id.sequence) → t.segOf i = { s.segOf i with absentCount := 0 }) ∧
            ((∀ x ∈ r.claims, x.sequence ≠ id.sequence) → (s.segOf i).absentCount = 0 →
              t.segOf i = { s.segOf i with absentCount := 1 }) ∧
            ((∀ x ∈ r.claims, x.sequence ≠ id.sequence) → 1 ≤ (s.segOf i).absentCount →
              (∀ w ∈ s.sga.waits, w.segment ≠ i) →
              ((s.segOf i).state = .held → t.segOf i = ⟨.free, none, 0⟩) ∧
              ((s.segOf i).state = .fault → (t.segOf i).holder = none ∧ (t.segOf i).state ≠ .held))))) ∧
    (s.hearing = false ∨ validAddr src = false ∨ src = s.ident.address ∨ (s.rosterOf src).presence ≠ .present →
      exec (.statusRecord src inc round r) s = .next s)

/-- Missed slots at a boundary, by the local timer or a valid MARK, the grace not ending before it (R26, R27, R33, R34). A slot that the boundary
cut short or that its round did not reach changes nothing; of the others PRESENT goes to STALE with the stale mark, one more miss, ABSENT with
the NWT entry deleted at the third; an ABSENT address and one that was heard keep their entries. That slot 24 counts as missed only in a round of
at least 100 ms, so that a MARK at 96 to 99 ms leaves its entries alone, is the model's choice (assumption log 10, DESIGN CHOICE: R26 says that
it occurred when the round ran to the boundary that closes it), and that a round which the local timer closes ran 100 ms is its reading
(assumption log 8, DEDUCED). An address that is lost makes a PEER record of kind lost in JOINED, HOLDING and SILENT, and none in LISTEN (R29):
the first loss before any other record, the others, with no claim to end, behind those of the lower addresses (assumption log 32, DESIGN CHOICE).
It holds nothing here any more (R115, R140), and of the claims that depend on it (the train's apart) those in PATHING and ASKING are gone and
those in FLOWING close or are gone with OWNER-LOST (R99). That a FLOWING one ends OWNER-LOST also where its stall timer reaches its limit at this
boundary rests on the losses' coming before the claims' ages and timers (assumption log 32, DESIGN CHOICE; R83 allows either order). -/
def Obligations.MissedSlots : Prop :=
  ∀ (row : Instr) (permit : Bool) (ran a c : Nat) (s : State), s.ready → s.hearing = true → s.boundaryBy permit ran row →
    s.bc.clock = some c → validAddr a = true → a ≠ s.ident.address →
    ∃ t, exec row s = .next t ∧
      (a ∈ s.bc.heard ∨ ran < 4 * (a + 1) → t.rosterOf a = s.rosterOf a ∧ t.nwtOf a = s.nwtOf a) ∧
      (4 * (a + 1) ≤ ran → a ∉ s.bc.heard → (s.rosterOf a).presence = .present →
        t.rosterOf a = { s.rosterOf a with presence := .stale, missed := 1 } ∧
          t.nwtOf a = (s.nwtOf a).map fun n => { n with stale := true }) ∧
      (4 * (a + 1) ≤ ran → a ∉ s.bc.heard → (s.rosterOf a).presence = .stale → (s.rosterOf a).missed < 2 →
        t.rosterOf a = { s.rosterOf a with missed := (s.rosterOf a).missed + 1 } ∧ t.nwtOf a = s.nwtOf a) ∧
      (4 * (a + 1) ≤ ran → a ∉ s.bc.heard → (s.rosterOf a).presence = .stale → 2 ≤ (s.rosterOf a).missed →
        t.rosterOf a = RosterEntry.absent ∧ t.nwtOf a = none ∧
        ((∀ i, (s.segOf i).state = .free → (s.segOf i).holder = none) → t.holdsNothingOf a) ∧
        (s.oneClaimEach → (∀ x ∈ s.cle.list, x.creator ≠ .train) →
          ∀ x ∈ s.cle.list, dependsOn a x = true →
            (∀ y ∈ t.cle.list, y.sequence = x.sequence → y.state = .closing) ∧
            (x.state = .flowing → ∀ y ∈ t.cle.list, y.sequence = x.sequence → y.reason = some .ownerLost) ∧
            (x.state = .pathing ∨ x.state = .asking → ∀ y ∈ t.cle.list, y.sequence ≠ x.sequence)) ∧
        (s.serving = true ∨ s.bc.busState = .silent →
          ((∀ b, validAddr b = true → b < a → b ∈ s.bc.heard ∨ (s.rosterOf b).presence ≠ .stale ∨ (s.rosterOf b).missed < 2) →
            s.tells t 0 (.peer a (.lost (s.rosterOf a).incarnation (s.rosterOf a).leaving))) ∧
          (s.cle.list = [] → s.tells t (a - 1) (.peer a (.lost (s.rosterOf a).incarnation (s.rosterOf a).leaving))))) ∧
      (s.bc.busState = .listen → s.bc.listenCount ≠ 1 → s.lawEleven → t.port.ring = s.port.ring) ∧
      (a ∉ s.bc.heard → (s.rosterOf a).presence = .absent → t.rosterOf a = s.rosterOf a ∧ t.nwtOf a = s.nwtOf a)

/-! ## The transmit queue and the report ring -/

/-- The transmit queue (R19): a message joins at the tail while the queue holds fewer than 16 in JOINED or HOLDING; else it is
refused and the queue is left as it was. The report ring (R192): a record joins at the tail with its loss mark clear and the round
number of its making; a full ring drops it and marks the newest record stored. ATTN is asserted exactly while the ring holds a record of a
kind whose bit is set in the mask, bit k - 1 for kind k (Table 12-7), and the station is neither held in reset nor DORMANT (R193). -/
def Obligations.QueueAndRing : Prop :=
  (∀ (m : Message) (s : State),
    (s.serving = true → s.bc.queue.length < 16 →
      offer m s = ({ s with bc := { s.bc with queue := s.bc.queue ++ [m] } }, true)) ∧
    (s.serving = false ∨ 16 ≤ s.bc.queue.length → offer m s = (s, false))) ∧
  (∀ (b : ReportBody) (s : State),
    (s.port.ring.length < 32 →
      report b s = { s with port := { s.port with ring := s.port.ring ++ [⟨b, s.bc.round, false⟩] } }) ∧
    (∀ front last, s.port.ring = front ++ [last] → 32 ≤ s.port.ring.length →
      report b s = { s with port := { s.port with ring := front ++ [{ last with loss := true }] } })) ∧
  (∀ s : State, s.attn = true ↔ s.ident.resetLow = false ∧ s.bc.busState ≠ .dormant ∧
    ∃ r ∈ s.port.ring, s.port.mask.getLsbD (reportKind r.body - 1) = true) ∧
  ((∀ n r x y z, reportKind (.contact n r x y z) = 1) ∧ (∀ c x y v w g, reportKind (.window c x y v w g) = 2) ∧
    (∀ c x, reportKind (.claimEnd c x) = 3) ∧ (∀ x y d f p g u, reportKind (.train x y d f p g u) = 4) ∧
    (∀ a n, reportKind (.peer a n) = 5) ∧ (∀ k g, reportKind (.plan k g) = 6) ∧ (∀ n, reportKind (.bus n) = 7) ∧
    (∀ n r x y, reportKind (.actuator n r x y) = 8))

/-! ## Segments -/

/-- A HOLD-REQ (R130, Table 7-3): the malformed one, and the rows in their order; the give attempt of rows 5 and 6 is
GiveAttempt. The place of a new queue entry (R129): behind those entries at the head that stand before it by class, arrival and claimant
address, and, in a queue in that order (BoundsAreKept), before every other; the order then stands. -/
def Obligations.HoldReqIsHandled : Prop :=
  (∀ (src inc q i cls : Nat) (s : State), s.ready → s.serving = true →
    (cls < 1 ∨ 5 < cls → exec (.holdReq src inc q i cls) s = .next s) ∧
    (1 ≤ cls ∧ cls ≤ 5 →
      (s.hasSegment i = false →
        exec (.holdReq src inc q i cls) s = .next (send src (.holdRefused q i .noSegment) s)) ∧
      (s.hasSegment i = true →
        ((s.segOf i).state = .held ∧ (s.segOf i).holder = some ⟨src, inc, q⟩ →
          exec (.holdReq src inc q i cls) s = .next (send src (.holdGiven q i) s)) ∧
        (¬((s.segOf i).state = .held ∧ (s.segOf i).holder = some ⟨src, inc, q⟩) →
          ((∃ w ∈ s.sga.waits, w.id = ⟨src, inc, q⟩) → exec (.holdReq src inc q i cls) s = .next s) ∧
          ((∀ w ∈ s.sga.waits, w.id ≠ ⟨src, inc, q⟩) →
            ((s.segOf i).state = .fault → (s.segOf i).holder ≠ none →
              exec (.holdReq src inc q i cls) s = .next (send src (.holdRefused q i .segmentOut) s)) ∧
            ((s.segOf i).state = .free ∨ ((s.segOf i).state = .fault ∧ (s.segOf i).holder = none) →
              exec (.holdReq src inc q i cls) s = .next (giveAttempt i ⟨src, inc, q⟩ s)) ∧
            ((s.segOf i).state = .held → s.sga.waits.length < 8 →
              exec (.holdReq src inc q i cls) s = .next { s with sga := { s.sga with
                waits := insertHold ⟨⟨src, inc, q⟩, i, cls, s.bc.round, 0, true⟩ s.sga.waits } }) ∧
            ((s.segOf i).state = .held → 8 ≤ s.sga.waits.length →
              exec (.holdReq src inc q i cls) s = .next (send src (.holdRefused q i .queueFull) s))))))) ∧
  (∀ (w : HoldWait) (l : List HoldWait), w.fresh = true → ∃ front back, l = front ++ back ∧ insertHold w l = front ++ w :: back ∧
    (∀ x ∈ front, x.cls < w.cls ∨ (x.cls = w.cls ∧ (x.fresh = false ∨ x.id.address ≤ w.id.address))) ∧
    (∀ x, back.head? = some x → w.cls < x.cls ∨ (x.cls = w.cls ∧ x.fresh = true ∧ w.id.address < x.id.address)) ∧
    (l.Pairwise HoldWait.ahead →
      (∀ x ∈ back, w.cls < x.cls ∨ (x.cls = w.cls ∧ x.fresh = true ∧ w.id.address < x.id.address)) ∧
      (insertHold w l).Pairwise HoldWait.ahead))

/-- A give attempt (R131): driven, the segment is HELD and HOLD-GIVEN is offered; denied, the valve is commanded SAFE, the segment
is FAULT with no holder, and HOLD-REFUSED is offered. -/
def Obligations.GiveAttempt : Prop :=
  ∀ (i a : Nat) (u : ActuatorSetup) (id : ClaimId) (s : State), s.actWith (.segment i) = some a → s.actSetup a = some u →
    i < 4 → (s.actOf a).command ≠ .drive →
    (s.permitted u = true →
      (giveAttempt i id s).segOf i = ⟨.held, some id, 0⟩ ∧ ((giveAttempt i id s).actOf a).command = .drive ∧
      (giveAttempt i id s).bc = (send id.address (.holdGiven id.sequence i) s).bc ∧
      (giveAttempt i id s).sga.waits = s.sga.waits) ∧
    (s.permitted u = false →
      (giveAttempt i id s).segOf i = ⟨.fault, none, 0⟩ ∧ ((giveAttempt i id s).actOf a).command = .safe ∧
      (send id.address (.holdRefused id.sequence i .segmentOut) s).bc.queue <+: (giveAttempt i id s).bc.queue ∧
      ((s.segOf i).state ≠ .fault → (giveAttempt i id s).sga.waits = s.sga.waits.filter fun w => w.segment != i) ∧
      ((s.segOf i).state = .fault → (giveAttempt i id s).sga.waits = s.sga.waits))

/-- A HOLD-FREE (R133, R134, R137): the holder's releases the segment, to its first waiter or to FREE with the valve commanded
safe; a waiter's takes its entry out; any other is ignored. At the instant of a *stuck* of the valve that is still due, the HOLD-FREE is
taken first (R141; assumption log 9, DESIGN CHOICE): a segment left FREE enters FAULT with no holder, which the *travel done* CLOSED of a close
request that ends at once clears where the permissive is true (R137), and a first waiter given the segment
keeps it, with the valve driven on a new opening travel. -/
def Obligations.HoldFreeIsHandled : Prop :=
  ∀ (src inc q i : Nat) (s : State),
    (s.ready → s.serving = true →
      (s.hasSegment i = false → exec (.holdFree src inc q i) s = .next s) ∧
      (s.hasSegment i = true → (s.segOf i).holder ≠ some ⟨src, inc, q⟩ →
        exec (.holdFree src inc q i) s = .next { s with sga := { s.sga with
          waits := s.sga.waits.filter fun w => decide (¬(w.id = ⟨src, inc, q⟩ ∧ w.segment = i)) } }) ∧
      (∀ a, s.hasSegment i = true → i < 4 → (s.segOf i).holder = some ⟨src, inc, q⟩ → (s.segOf i).state = .held →
        s.actWith (.segment i) = some a → (∀ w ∈ s.sga.waits, w.segment ≠ i) →
        ∃ t, exec (.holdFree src inc q i) s = .next t ∧ t.segOf i = ⟨.free, none, 0⟩ ∧ (t.actOf a).command = .safe ∧
          t.bc = s.bc ∧ t.sga.waits = s.sga.waits) ∧
      (∀ a, s.hasSegment i = true → i < 4 → (s.segOf i).holder = some ⟨src, inc, q⟩ → (s.segOf i).state = .held →
        s.actWith (.segment i) = some a → ∀ u, s.actSetup a = some u → s.permitted u = true →
        ∀ w, s.sga.waits.find? (fun w => w.segment == i) = some w →
        ∃ t, exec (.holdFree src inc q i) s = .next t ∧ t.segOf i = ⟨.held, some w.id, 0⟩ ∧
          (t.actOf a).command = .drive ∧ t.sga.waits = s.sga.waits.erase w) ∧
      (s.hasSegment i = true → i < 4 → (s.segOf i).holder = some ⟨src, inc, q⟩ → (s.segOf i).state = .fault →
        ∃ t, exec (.holdFree src inc q i) s = .next t ∧ (t.segOf i).holder = none ∧ (t.segOf i).state ≠ .held ∧
          t.bc = s.bc ∧ t.sga.waits = s.sga.waits)) ∧
    (∀ a, s.actWith (.segment i) = some a → s.ident.resetLow = false → s.due = [.travelStuck a] → s.serving = true →
      s.hasSegment i = true → i < 4 → (s.segOf i).holder = some ⟨src, inc, q⟩ → (s.segOf i).state = .held →
      ∀ u, s.actSetup a = some u → (s.actOf a).travel = .opening ∨ (s.actOf a).travel = .closing →
      10 * u.travel + 200 ≤ (s.actOf a).timer →
      ((∀ w ∈ s.sga.waits, w.segment ≠ i) →
        ∃ t, exec (.holdFree src inc q i) s = .next t ∧ (t.actOf a).command = .safe ∧
          (s.atEnd a u.kind false = false → t.segOf i = ⟨.fault, none, 0⟩ ∧ t.actOf a = ⟨.safe, .closing, 0⟩) ∧
          (s.atEnd a u.kind false = true → (t.actOf a).travel = .closed ∧
            t.segOf i = ⟨if s.permitted u = true then .free else .fault, none, 0⟩)) ∧
      (∀ w, s.sga.waits.find? (fun w => w.segment == i) = some w → s.permitted u = true → s.atEnd a u.kind true = false →
        ∃ t, exec (.holdFree src inc q i) s = .next t ∧ t.segOf i = ⟨.held, some w.id, 0⟩ ∧
          t.actOf a = ⟨.drive, .opening, 0⟩ ∧ t.sga.waits = s.sga.waits.erase w))

/-! ## Claims at the claimant -/

/-- A HOLD-GIVEN (R85, R87, R101): the asked segment's raises the held count and asks the next thing, with the repeat timer at 5,
or at 1 when the queue refuses; one for a held segment is ignored; any other is answered with HOLD-FREE. -/
def Obligations.HoldGivenIsHandled : Prop :=
  ∀ (src q i : Nat) (s : State), s.ready → s.serving = true →
    (∀ c, s.claimOf q = some c → c.state = .pathing → c.path[c.held]? = some ⟨src, i⟩ →
      ∃ t, exec (.holdGiven src q i) s = .next t ∧
        t.claimOf q = some { c with
          held := c.held + 1
          state := if c.held + 1 = c.path.length then .asking else .pathing
          repeatTimer := if s.bc.queue.length < 16 then 5 else 1 } ∧
        (s.bc.queue.length < 16 → t.bc = { s.bc with queue := s.bc.queue ++
          [match c.path[c.held + 1]? with
            | some g => ⟨g.station, .holdReq c.sequence g.index c.cls⟩
            | none => ⟨c.tank.station, .claim c.sequence c.kind c.tank.index c.cls c.volume⟩] }) ∧
        (16 ≤ s.bc.queue.length → t.bc = s.bc) ∧
        ∀ p, p ≠ q → t.claimOf p = s.claimOf p) ∧
    (∀ c, s.claimOf q = some c → (c.state ≠ .pathing ∨ c.path[c.held]? ≠ some ⟨src, i⟩) →
      ((⟨src, i⟩ : SegId) ∈ c.path.take c.held → exec (.holdGiven src q i) s = .next s) ∧
      ((⟨src, i⟩ : SegId) ∉ c.path.take c.held →
        exec (.holdGiven src q i) s = .next (send src (.holdFree q i) s))) ∧
    (s.claimOf q = none → exec (.holdGiven src q i) s = .next (send src (.holdFree q i) s))

/-- HOLD-REFUSED and REFUSE (R89, R101): the claim that asked ends FAILED with the owner's reason, reported in CLAIM-END; for the
claims of the Local Port and of automatic fill the list is the old one without it. HOLD-FREE is offered for each held segment in path order,
none for the refused segment and no CANCEL (R82). Any other is ignored. -/
def Obligations.RefusalsEndClaims : Prop :=
  ∀ (src q : Nat) (s : State), s.ready → s.serving = true →
    (∀ i r c, s.claimOf q = some c → c.state = .pathing → c.path[c.held]? = some ⟨src, i⟩ →
      ∃ t, exec (.holdRefused src q i r) s = .next t ∧
        (s.port.ring.length < 32 → ∃ x ∈ t.port.ring, x.round = s.bc.round ∧
          x.body = .claimEnd { c with reason := some .failed, owner := some (.hold r) } .pathing) ∧
        s.offeredFirst t (holdFrees q (c.path.take c.held)) ∧
        (c.creator ≠ .train → t.cle = { s.cle with list := s.cle.list.filter fun x => x.sequence != q } ∧
          s.offered t (holdFrees q (c.path.take c.held)))) ∧
    (∀ i r, (∀ c, s.claimOf q = some c → c.state ≠ .pathing ∨ c.path[c.held]? ≠ some ⟨src, i⟩) →
      exec (.holdRefused src q i r) s = .next s) ∧
    (∀ r c, s.claimOf q = some c → c.state = .asking → c.tank.station = src →
      ∃ t, exec (.refuse src q r) s = .next t ∧
        (s.port.ring.length < 32 → ∃ x ∈ t.port.ring, x.round = s.bc.round ∧
          x.body = .claimEnd { c with reason := some .failed, owner := some (.refuse r) } .asking) ∧
        s.offeredFirst t (holdFrees q (c.path.take c.held)) ∧
        (c.creator ≠ .train → t.cle = { s.cle with list := s.cle.list.filter fun x => x.sequence != q } ∧
          s.offered t (holdFrees q (c.path.take c.held)))) ∧
    (∀ r, (∀ c, s.claimOf q = some c → c.state ≠ .asking ∨ c.tank.station ≠ src) →
      exec (.refuse src q r) s = .next s)

/-- A GRANT (R88, R101): ASKING to FLOWING with the target valve asked open; a repeat is ignored; a late one is answered with END LATE; a denied
permissive ends the claim INTERLOCK (R97). The train's inflow claim that flows takes DIVERTING for NO-DESTINATION to PRODUCING with its TRAIN
record (R145), and DIVERT back to reject in a diversion for QUALITY, no other claim standing on the product line (R77, R152); its flush claim
leaves the train as it stands. A claim of automatic fill that a denied permissive ends leaves the fill IDLE with no skip (R126), and an inflow
claim that is the pass's last failure starts the retry wait (R153, R154). -/
def Obligations.GrantIsHandled : Prop :=
  ∀ (src q v : Nat) (s : State), s.ready → s.serving = true →
    (s.claimOf q = none → exec (.grant src q v) s = .next (send src (.endMsg q 0 .late) s)) ∧
    (∀ c, s.claimOf q = some c →
      (c.tank.station ≠ src ∨ c.state = .pathing → exec (.grant src q v) s = .next (send src (.endMsg q 0 .late) s)) ∧
      (c.tank.station = src → c.state = .flowing ∨ c.state = .closing → exec (.grant src q v) s = .next s) ∧
      (∀ a, s.actWith (targetRole c.target) = some a → ∀ u, s.actSetup a = some u → c.tank.station = src → c.state = .asking →
        (s.permitted u = true →
          (c.creator ≠ .train → ∃ t, exec (.grant src q v) s = .next t ∧ (t.actOf a).command = .drive ∧ t.bc = s.bc ∧
            t.claimOf q = some { c with state := .flowing, repeatTimer := 0, delivered := 0, stall := 0 }) ∧
          (c.creator = .train → c.target = .flush → s.trs.inflow ≠ some q →
            ∃ t, exec (.grant src q v) s = .next t ∧ (t.actOf a).command = .drive ∧ t.bc = s.bc ∧ t.trs = s.trs ∧
              t.claimOf q = some { c with state := .flowing, repeatTimer := 0, delivered := 0, stall := 0 }) ∧
          (c.creator = .train → c.target = .product → s.trs.inflow = some q → s.trs.state = .diverting →
            s.trs.divertCause = .noDestination →
            ∃ t, exec (.grant src q v) s = .next t ∧ (t.actOf a).command = .drive ∧ t.trs.state = .producing ∧
              s.tellsTrain t 0 .producing .none .none .none s.destination ∧
              t.claimOf q = some { c with state := .flowing, repeatTimer := 0, delivered := 0, stall := 0 }) ∧
          (c.creator = .train → c.target = .product → s.trs.inflow = some q → s.trs.state = .diverting →
            s.trs.divertCause = .quality → (∀ x ∈ s.cle.list, x.target = c.target → x.sequence = q) →
            ∃ t, exec (.grant src q v) s = .next t ∧ (t.actOf a).command = .safe ∧ t.bc = s.bc ∧ t.trs = s.trs ∧
              t.claimOf q = some { c with state := .flowing, repeatTimer := 0, delivered := 0, stall := 0 })) ∧
        (s.permitted u = false → (s.actOf a).command ≠ .drive → (s.actOf a).travel = .closed →
          (∀ x ∈ s.cle.list, x.target = c.target → x.sequence = q) →
          (c.creator = .port → targetRole c.target ≠ .divert →
            ∃ t, exec (.grant src q v) s = .next t ∧ (t.actOf a).command = .safe ∧
              t.cle = { s.cle with list := s.cle.list.filter fun x => x.sequence != q }) ∧
          (∀ k, c.target = .fillInlet k → c.creator = .fill → k < 2 →
            ∃ t, exec (.grant src q v) s = .next t ∧ (t.actOf a).command = .safe ∧
              t.cle = { s.cle with list := s.cle.list.filter fun x => x.sequence != q } ∧
              t.tankOf k = { s.tankOf k with fill := .idle, live := none }) ∧
          (c.creator = .train → c.target = .product → s.trs.inflow = some q → s.trs.state = .diverting →
            s.trs.divertCause = .noDestination → s.setup.destinations.length ≤ s.trs.passCount + 1 →
            ∃ t, exec (.grant src q v) s = .next t ∧ (t.actOf a).command = .safe ∧
              t.cle = { s.cle with list := s.cle.list.filter fun x => x.sequence != q } ∧
              t.trs = { s.trs with inflow := none, passCount := 0, destIndex := 0, retry := some 0 }))))

/-- The causes that send a FLOWING claim to CLOSING (R83, R91, R93, R94, R96): REVOKE, STOP_CLAIM, STALLED and the pulse that reaches the volume
requested. With the valve away from CLOSED the claim stands in CLOSING with its reason and the valve commanded safe; with the valve CLOSED
already a claim that is not the train's leaves the list at once, END with the litres delivered and HOLD-FREE for each held segment offered in
this order and CLAIM-END reported as ended from FLOWING (R82, R94); the end of a closing travel is ActuatorsMove. And where nothing is to be
done: a REVOKE that matches no FLOWING claim is ignored, a STOP_CLAIM of an unknown sequence is answered BAD-ARG, one in CLOSING is answered OK
and changes nothing, and STALLED and TIMEOUT of a claim that is gone change nothing. -/
def Obligations.FlowingClaimsClose : Prop :=
  (∀ (q a : Nat) (c : Claim) (u : ActuatorSetup) (s : State), s.claimOf q = some c → c.state = .flowing →
    s.actWith (targetRole c.target) = some a → s.actSetup a = some u → (s.actOf a).travel ≠ .closed →
    ((s.actOf a).travel = .closing ∨ s.atEnd a u.kind false = false) →
    (s.ready → s.serving = true → ∃ t, exec (.revoke c.tank.station q) s = .next t ∧ (t.actOf a).command = .safe ∧
      t.bc = s.bc ∧ t.claimOf q = some { c with state := .closing, reason := some .revoked }) ∧
    (s.ready → s.bc.busState = .joined → ∃ t, exec (.stopClaim q) s = .next t ∧ (t.actOf a).command = .safe ∧
      t.bc = s.bc ∧ t.claimOf q = some { c with state := .closing, reason := some .stopped } ∧ t.port.answer = [0]) ∧
    (∀ rest, s.dueNext (.stalled q) rest → 30 ≤ c.stall → ∃ t, exec (.stalled q) s = .next t ∧
      (t.actOf a).command = .safe ∧ t.bc = s.bc ∧
      t.claimOf q = some { c with state := .closing, reason := some .stalled } ∧ t.due = rest) ∧
    (∀ m, s.ready → s.counted m = some c → c.volume ≤ (meter (s.weight m) c).delivered →
      ∃ t, exec (.meterPulse m) s = .next t ∧ (t.actOf a).command = .safe ∧ t.bc = s.bc ∧
        t.claimOf q = some { meter (s.weight m) c with state := .closing, reason := some .done })) ∧
  (∀ (q a : Nat) (c : Claim) (u : ActuatorSetup) (s : State), s.claimOf q = some c → c.state = .flowing →
    s.actWith (targetRole c.target) = some a → s.actSetup a = some u → (s.actOf a).travel = .closed → c.creator ≠ .train →
    s.ready → s.serving = true →
    (∃ t, exec (.revoke c.tank.station q) s = .next t ∧ (t.actOf a).command = .safe ∧
      t.cle = { s.cle with list := s.cle.list.filter fun x => x.sequence != q } ∧
      s.offered t (c.endsWith .revoked) ∧
      (s.port.ring.length < 32 →
        ⟨.claimEnd { c with state := .closing, reason := some .revoked } .flowing, s.bc.round, false⟩ ∈ t.port.ring)) ∧
    (s.bc.busState = .joined → ∃ t, exec (.stopClaim q) s = .next t ∧ (t.actOf a).command = .safe ∧ t.port.answer = [0] ∧
      t.cle = { s.cle with list := s.cle.list.filter fun x => x.sequence != q } ∧
      s.offered t (c.endsWith .stopped) ∧
      (s.port.ring.length < 32 →
        ⟨.claimEnd { c with state := .closing, reason := some .stopped } .flowing, s.bc.round, false⟩ ∈ t.port.ring))) ∧
  ((∀ (src q : Nat) (s : State), s.ready → s.serving = true →
    (∀ c, s.claimOf q = some c → c.tank.station ≠ src ∨ c.state ≠ .flowing) → exec (.revoke src q) s = .next s) ∧
  (∀ (q : Nat) (s : State), s.ready → s.bc.busState = .joined → s.claimOf q = none →
    exec (.stopClaim q) s = .next (s.answered [5] false false)) ∧
  (∀ (q : Nat) (c : Claim) (s : State), s.ready → s.bc.busState = .joined → s.claimOf q = some c → c.state = .closing →
    exec (.stopClaim q) s = .next (s.answered [0] false false)) ∧
  (∀ (q : Nat) (rest : List Due) (s : State), s.dueNext (.stalled q) rest → s.claimOf q = none →
    exec (.stalled q) s = .next { s with due := rest }) ∧
  (∀ (q : Nat) (rest : List Due) (s : State), s.dueNext (.timeout q) rest → s.claimOf q = none →
    exec (.timeout q) s = .next { s with due := rest }))

/-- A claim in PATHING or ASKING that is stopped or reaches its wait limit leaves the list, whoever made it (R82, R90, R91): the port's and the
flush claim; automatic fill's, whose outcome leaves the fill IDLE and skips the source after TIMEOUT (R126); and the train's inflow claim, whose
STOPPED from outside starts the retry wait in PRODUCING and DIVERTING (R153, R154). Its final messages are offered in their order: from PATHING
HOLD-FREE for each held segment and for the asked one, from ASKING CANCEL and HOLD-FREE for each held segment (R82). One whose repeat timer is at
0 offers its request again (R86, R87). At a boundary, by the local timer or a valid MARK, the ages and timers of the claims rise and fall and
their events are due (R86, R90, R93). -/
def Obligations.WaitingClaims : Prop :=
  (∀ (q : Nat) (c : Claim) (s : State), s.claimOf q = some c → c.state = .pathing ∨ c.state = .asking →
    (s.ready → s.bc.busState = .joined →
      (c.creator ≠ .train ∨ c.target = .flush → ∃ t, exec (.stopClaim q) s = .next t ∧ t.port.answer = [0] ∧
        t.cle = { s.cle with list := s.cle.list.filter fun x => x.sequence != q } ∧ s.offered t c.withdraws ∧
        (∀ k, c.target = .fillInlet k → c.creator = .fill → k < 2 →
          t.tankOf k = { s.tankOf k with fill := .idle, live := none })) ∧
      (c.creator = .train → c.target = .product → s.trs.inflow = some q → s.trs.ownStop = false →
        ∃ t, exec (.stopClaim q) s = .next t ∧ t.port.answer = [0] ∧
          t.cle = { s.cle with list := s.cle.list.filter fun x => x.sequence != q } ∧ t.trs.inflow = none ∧
          s.offered t c.withdraws ∧
          (s.trs.state = .producing ∨ s.trs.state = .diverting →
            t.trs.state = .diverting ∧ t.trs.retry = some 0 ∧ t.trs.passCount = 0 ∧ t.trs.destIndex = s.trs.destIndex))) ∧
    (∀ rest, s.dueNext (.timeout q) rest → c.wait ≤ c.age →
      ∃ t, exec (.timeout q) s = .next t ∧ t.due = rest ∧ s.offeredFirst t c.withdraws ∧
        (∀ x ∈ t.cle.list, x.sequence = q → x.age < x.wait) ∧
        (c.creator ≠ .train ∨ c.target = .flush →
          t.cle = { s.cle with list := s.cle.list.filter fun x => x.sequence != q } ∧ s.offered t c.withdraws) ∧
        (s.port.ring.length < 32 → ∃ x ∈ t.port.ring, x.round = s.bc.round ∧
          x.body = .claimEnd { c with reason := some .timeout, owner := none } c.state) ∧
        (∀ k, c.target = .fillInlet k → c.creator = .fill → k < 2 →
          (t.tankOf k).fill = .idle ∧ (t.tankOf k).live = none ∧
          ∀ i, (s.tankOf k).live = some i → i < 3 → look (t.tankOf k).skips 0 i = 50)) ∧
    (∀ rest, s.dueNext (.requestRepeat q) rest → c.repeatTimer = 0 → ∃ t, exec (.requestRepeat q) s = .next t ∧
      t.claimOf q = some { c with repeatTimer := if s.serving ∧ s.bc.queue.length < 16 then 5 else 1 } ∧ t.due = rest ∧
      (s.serving = true → s.bc.queue.length < 16 → t.bc = { s.bc with queue := s.bc.queue ++ [c.request] }))) ∧
  (∀ (row : Instr) (permit : Bool) (s : State), s.atBoundary row permit → ∃ t, exec row s = .next t ∧
    t.cle = { s.cle with list := s.cle.list.map fun c => { c with
      age := min 65535 (c.age + 1)
      repeatTimer := if (c.state = .pathing ∨ c.state = .asking) ∧ min 65535 (c.age + 1) < c.wait then c.repeatTimer - 1
        else c.repeatTimer
      stall := if c.state = .flowing ∧ s.travelOf (targetRole c.target) = .opened then c.stall + 1 else c.stall } } ∧
    ∀ q, (.timeout q ∈ t.due ↔ ∃ c ∈ t.cle.list, c.sequence = q ∧ (c.state = .pathing ∨ c.state = .asking) ∧ c.wait ≤ c.age) ∧
      (.requestRepeat q ∈ t.due ↔ ∃ c ∈ t.cle.list, c.sequence = q ∧ (c.state = .pathing ∨ c.state = .asking) ∧
        c.age < c.wait ∧ c.repeatTimer = 0) ∧
      (.stalled q ∈ t.due ↔ ∃ c ∈ t.cle.list, c.sequence = q ∧ c.state = .flowing ∧ 30 ≤ c.stall))

/-- A request of the Local Port for a claim (R78 to R81, Table 5-2), for DRAW and for FILL, whose class is the fill class of the tank, SERVICE
unless set, and whose wait limit is the station's default (R79): refused with the first reason that holds and no change but the answer, or a
new claim at the tail with its first request offered, its sequence answered, and nothing else changed. -/
def Obligations.PortClaimsAreMade : Prop :=
  (∀ (p : Nat) (tank : TankId) (cls v w : Nat) (path : List SegId) (s : State), s.ready → s.bc.busState = .joined →
    (∀ reason, createRefusal s ⟨.draw, .drawPort p, tank, cls, v, w, path, .port⟩ = some reason →
      exec (.draw p tank cls v w path) s = .next (s.answered (createAnswer (.no reason)) false false)) ∧
    (createRefusal s ⟨.draw, .drawPort p, tank, cls, v, w, path, .port⟩ = none → s.cle.nextSeq < 256 →
      ∃ t, exec (.draw p tank cls v w path) s = .next t ∧ ∃ q,
        s.makes t ⟨.draw, .drawPort p, tank, cls, v, w, path, .port⟩ q ∧
        t = { s with cle := t.cle, bc := t.bc }.answered [0, byteOf q] false false)) ∧
  (∀ (tank : Nat) (source : TankId) (v : Nat) (path : List SegId) (cls : Nat) (s : State), s.ready →
    s.bc.busState = .joined → (∀ f, s.fillSetup tank = some f → cls = f.cls) → (s.fillSetup tank = none → cls = 4) →
    ∀ x, s.setup.station = some x →
    (∀ reason, createRefusal s ⟨.transfer, .fillInlet tank, source, cls, v, x.wait, path, .port⟩ = some reason →
      exec (.fill tank source v path) s = .next (s.answered (createAnswer (.no reason)) false false)) ∧
    (createRefusal s ⟨.transfer, .fillInlet tank, source, cls, v, x.wait, path, .port⟩ = none → s.cle.nextSeq < 256 →
      ∃ t, exec (.fill tank source v path) s = .next t ∧ ∃ q,
        s.makes t ⟨.transfer, .fillInlet tank, source, cls, v, x.wait, path, .port⟩ q ∧
        t = { s with cle := t.cle, bc := t.bc }.answered [0, byteOf q] false false)) ∧
  ((∀ q, createAnswer (.ok q) = [0, byteOf q]) ∧ createAnswer (.no .badState) = [4] ∧ createAnswer (.no .badArg) = [5] ∧
    createAnswer (.no .noTarget) = [3, 1] ∧ createAnswer (.no .busy) = [1] ∧ createAnswer (.no .full) = [2] ∧
    createAnswer (.no .badPath) = [3, 2] ∧ createAnswer (.no .noTank) = [3, 3])

/-- The refusals at creation, in the order of Table 5-2 (R80): each reason is given exactly when its row holds and no earlier one. Of row 2,
that a port or tank index above 1 is BAD-ARG is the model's reading and not the table's words (assumption log 15, DEDUCED). -/
def Obligations.CreationRefusals : Prop :=
  ∀ (s : State) (n : NewClaim) (row1 row2 row3 row4 row5 row6 row7 : Prop),
    (row1 ↔ s.bc.busState ≠ .joined) →
    (row2 ↔ ¬((1 ≤ n.cls ∧ n.cls ≤ 5) ∧ (1 ≤ n.volume ∧ n.volume ≤ 65535) ∧ (10 ≤ n.wait ∧ n.wait ≤ 3000) ∧
      (1 ≤ n.tank.station ∧ n.tank.station ≤ 24) ∧ n.tank.index ≤ 1 ∧ n.path.length ≤ 4 ∧
      ((n.kind = .draw ∧ ∃ p, n.target = .drawPort p ∧ p ≤ 1) ∨ (n.kind = .draw ∧ n.target = .flush) ∨
        (n.kind = .transfer ∧ ∃ t, n.target = .fillInlet t ∧ t ≤ 1 ∧ n.tank ≠ ⟨s.ident.address, t⟩) ∨
        (n.kind = .inflow ∧ n.target = .product)))) →
    (row3 ↔ s.targetSetUp n.target = false) → (row4 ↔ ∃ c ∈ s.cle.list, c.target = n.target) →
    (row5 ↔ 8 ≤ s.cle.list.length) →
    (row6 ↔ ¬(n.path.Pairwise (fun a b => a.station < b.station ∨ (a.station = b.station ∧ a.index < b.index)) ∧
      ∀ g ∈ n.path, 1 ≤ g.station ∧ g.station ≤ 24 ∧ g.index ≤ 3)) →
    (row7 ↔ ∃ e, s.nwtOf n.tank.station = some e ∧ ∀ i ∈ e.record.tanks, i.index ≠ n.tank.index) →
    (createRefusal s n = some .badState ↔ row1) ∧
    (createRefusal s n = some .badArg ↔ ¬row1 ∧ row2) ∧
    (createRefusal s n = some .noTarget ↔ ¬row1 ∧ ¬row2 ∧ row3) ∧
    (createRefusal s n = some .busy ↔ ¬row1 ∧ ¬row2 ∧ ¬row3 ∧ row4) ∧
    (createRefusal s n = some .full ↔ ¬row1 ∧ ¬row2 ∧ ¬row3 ∧ ¬row4 ∧ row5) ∧
    (createRefusal s n = some .badPath ↔ ¬row1 ∧ ¬row2 ∧ ¬row3 ∧ ¬row4 ∧ ¬row5 ∧ row6) ∧
    (createRefusal s n = some .noTank ↔ ¬row1 ∧ ¬row2 ∧ ¬row3 ∧ ¬row4 ∧ ¬row5 ∧ ¬row6 ∧ row7) ∧
    (createRefusal s n = none ↔ ¬row1 ∧ ¬row2 ∧ ¬row3 ∧ ¬row4 ∧ ¬row5 ∧ ¬row6 ∧ ¬row7)

/-- A pulse of a meter input (R92, R93, R155): the claim that counts gains the weight in decilitres, held at 65535 L; with no
counting claim nothing happens. Every other claim and everything else stands. -/
def Obligations.PulsesAreCounted : Prop :=
  (∀ (m : Nat) (s : State), s.ready → s.counted m = none → exec (.meterPulse m) s = .next s) ∧
  (∀ (m : Nat) (c : Claim) (s : State), s.ready → s.counted m = some c → s.claimOf c.sequence = some c → c.remainder < 10 →
    (c.state = .closing ∨ (meter (s.weight m) c).delivered < c.volume) →
    ∃ t, exec (.meterPulse m) s = .next t ∧
      t.claimOf c.sequence = some { c with
        delivered := min 65535 (c.delivered + (c.remainder + s.weight m) / 10)
        remainder := (c.remainder + s.weight m) % 10
        stall := if c.state = .flowing then 0 else c.stall } ∧
      t = { s with cle := t.cle, trs := t.trs } ∧ t.cle.nextSeq = s.cle.nextSeq ∧
      t.cle.list = s.cle.list.map (fun x => if x.sequence = c.sequence then { c with
        delivered := min 65535 (c.delivered + (c.remainder + s.weight m) / 10)
        remainder := (c.remainder + s.weight m) % 10
        stall := if c.state = .flowing then 0 else c.stall } else x) ∧
      (∀ p, p ≠ c.sequence → t.claimOf p = s.claimOf p) ∧
      (¬(c.target = .product ∧ (s.trs.state = .producing ∨ s.trs.state = .diverting)) → t.trs = s.trs) ∧
      (c.target = .product → s.trs.state = .producing ∨ s.trs.state = .diverting →
        t.trs = { s.trs with productCount := s.trs.productCount + s.weight m }))

/-! ## Tanks -/

/-- The admission test, with the headroom of R106 (R105). The queue scan (R110): it takes the entries in queue order; where none fits it
changes nothing; the first that fits leaves the queue with a grant at its tank's tail and GRANT offered, and the scan goes on with the totals
as that admission has left them. -/
def Obligations.AdmissionTest : Prop :=
  (∀ (s : State) (t cls v : Nat) (kind : ClaimKind),
    s.fits t kind cls v = true ↔
      ((s.levelCh t).window = .below ∨ (s.levelCh t).window = .inside ∨ (s.levelCh t).window = .above) ∧
      (s.tankOf t).grants.length < 8 ∧
      (kind = .inflow → (v : Int) ≤ max 0 ((s.capacity t : Int) - (s.plan t).topMargin - (s.levelCh t).accepted -
          (((s.tankOf t).grants.filter fun g => g.kind = .inflow).map (·.remaining)).sum) ∧
        s.made (.overflow t) = false) ∧
      (kind ≠ .inflow → ∀ k, cls ≤ k → 1 ≤ k → k ≤ 5 →
        ((((s.tankOf t).grants.filter fun g => g.kind ≠ .inflow ∧ g.cls ≤ k).map (·.remaining)).sum : Int) + v ≤
          ((s.levelCh t).accepted : Int) - forClass (s.plan t).floor k)) ∧
  (∀ s : State,
    ((∀ w ∈ s.tkm.waits, s.fits w.tank w.kind w.cls w.volume = false) → scanQueue s = s) ∧
    (∀ before w after, s.tkm.waits = before ++ w :: after → (∀ x ∈ before, s.fits x.tank x.kind x.cls x.volume = false) →
      s.fits w.tank w.kind w.cls w.volume = true →
      ∃ u : State, u = { s with bc := u.bc, tkm := { u.tkm with waits := before ++ after, memory := s.tkm.memory, late := s.tkm.late } } ∧
        (u.tankOf w.tank) = { s.tankOf w.tank with
          grants := (s.tankOf w.tank).grants ++ [⟨w.id, w.kind, w.cls, w.volume, 0, w.volume, s.bc.round, 0⟩] } ∧
        (∀ j, j ≠ w.tank → u.tankOf j = s.tankOf j) ∧
        u.bc = (send w.id.address (.grant w.id.sequence w.volume) s).bc ∧
        scanQueue s = scanQueue u))

/-- A CLAIM (R107, Table 6-3): the malformed one, and the rows in their order. The place of a new queue entry (R109): behind those entries at
the head that stand before it by class, arrival and claimant address, and, in a queue in that order (BoundsAreKept), before every other; the
order then stands. -/
def Obligations.ClaimIsHandled : Prop :=
  (∀ (src inc q t cls v : Nat) (kind : ClaimKind) (s : State), s.ready → s.serving = true →
    (cls < 1 ∨ 5 < cls ∨ v = 0 → exec (.claim src inc q kind t cls v) s = .next s) ∧
    (1 ≤ cls ∧ cls ≤ 5 ∧ v ≠ 0 →
      (∀ g, (s.grantOf 0 ⟨src, inc, q⟩).or (s.grantOf 1 ⟨src, inc, q⟩) = some g →
        exec (.claim src inc q kind t cls v) s = .next (send src (.grant q g.volume) s)) ∧
      (s.grantOf 0 ⟨src, inc, q⟩ = none → s.grantOf 1 ⟨src, inc, q⟩ = none →
        ((∃ w ∈ s.tkm.waits, w.id = ⟨src, inc, q⟩) → exec (.claim src inc q kind t cls v) s = .next s) ∧
        ((∀ w ∈ s.tkm.waits, w.id ≠ ⟨src, inc, q⟩) →
          (s.hasTank t = false →
            exec (.claim src inc q kind t cls v) s = .next (send src (.refuse q .noTank) s)) ∧
          (s.hasTank t = true →
            ((s.levelCh t).window = .initial ∨ (s.levelCh t).window = .fault →
              exec (.claim src inc q kind t cls v) s = .next (send src (.refuse q .notReady) s)) ∧
            ((s.levelCh t).window ≠ .initial → (s.levelCh t).window ≠ .fault →
              ((kind = .inflow ∧ s.capacity t - (s.plan t).topMargin < v) ∨
                  (kind ≠ .inflow ∧ s.capacity t - forClass (s.plan t).floor cls < v) →
                exec (.claim src inc q kind t cls v) s = .next (send src (.refuse q .never) s)) ∧
              (¬((kind = .inflow ∧ s.capacity t - (s.plan t).topMargin < v) ∨
                  (kind ≠ .inflow ∧ s.capacity t - forClass (s.plan t).floor cls < v)) →
                (s.fits t kind cls v = false → s.tkm.waits.length < 8 →
                  exec (.claim src inc q kind t cls v) s = .next { s with tkm := { s.tkm with
                    waits := insertTankWait ⟨⟨src, inc, q⟩, t, kind, cls, v, s.bc.round, 0, true⟩ s.tkm.waits } }) ∧
                (s.fits t kind cls v = false → 8 ≤ s.tkm.waits.length →
                  exec (.claim src inc q kind t cls v) s = .next (send src (.refuse q .queueFull) s)) ∧
                (s.fits t kind cls v = true → t < 2 →
                  exec (.claim src inc q kind t cls v) s = .next { s with
                    bc := (send src (.grant q v) s).bc
                    tkm := { s.tkm with tank := put s.tkm.tank t { s.tankOf t with
                      grants := (s.tankOf t).grants ++ [⟨⟨src, inc, q⟩, kind, cls, v, 0, v, s.bc.round, 0⟩] } } })))))))) ∧
  (∀ (w : TankWait) (l : List TankWait), w.fresh = true → ∃ front back, l = front ++ back ∧ insertTankWait w l = front ++ w :: back ∧
    (∀ x ∈ front, x.cls < w.cls ∨ (x.cls = w.cls ∧ (x.fresh = false ∨ x.id.address ≤ w.id.address))) ∧
    (∀ x, back.head? = some x → w.cls < x.cls ∨ (x.cls = w.cls ∧ x.fresh = true ∧ w.id.address < x.id.address)) ∧
    (l.Pairwise TankWait.ahead →
      (∀ x ∈ back, w.cls < x.cls ∨ (x.cls = w.cls ∧ x.fresh = true ∧ w.id.address < x.id.address)) ∧
      (insertTankWait w l).Pairwise TankWait.ahead))

/-- END and CANCEL (R111, R112), which answer the same: the grant, the queue entry and the memory entry of the claim id leave; with no grant
of that id the rest stands as it was, and with one the queue scan follows (R110). A revocation run (R116 to R118): with Laws 4 and 5 holding
it does nothing; else it takes back one grant and goes on: for the highest class number that is over, the grant of highest class number up
to it with remaining above 0, the newest of those; where no class is over, the newest inflow grant with remaining above 0. A grant taken
back leaves the list, REVOKE is offered, and its id joins the memory of at most eight, the oldest leaving (R116, R119). -/
def Obligations.EndsAndCancels : Prop :=
  (∀ (src inc q d : Nat) (reason : EndReason) (s : State), s.ready → s.serving = true →
    (∃ t, exec (.endMsg src inc q d reason) s = .next t ∧ exec (.cancel src inc q) s = .next t ∧
      (∀ k, ∀ g ∈ (t.tankOf k).grants, g.id ≠ ⟨src, inc, q⟩) ∧ (∀ w ∈ t.tkm.waits, w.id ≠ ⟨src, inc, q⟩) ∧
      (∀ m ∈ t.tkm.memory, m.id ≠ ⟨src, inc, q⟩) ∧ s.bc.queue <+: t.bc.queue ∧
      t = { s with bc := { s.bc with queue := t.bc.queue }, tkm := t.tkm }) ∧
    (s.grantOf 0 ⟨src, inc, q⟩ = none → s.grantOf 1 ⟨src, inc, q⟩ = none →
      exec (.endMsg src inc q d reason) s = .next { s with tkm := { s.tkm with
        waits := s.tkm.waits.filter fun w => decide (w.id ≠ ⟨src, inc, q⟩)
        memory := s.tkm.memory.filter fun m => decide (m.id ≠ ⟨src, inc, q⟩) } }) ∧
    (s.grantOf 0 ⟨src, inc, q⟩ ≠ none ∨ s.grantOf 1 ⟨src, inc, q⟩ ≠ none →
      exec (.endMsg src inc q d reason) s = .next (scanQueue { s with tkm := { s.tkm with
        tank := s.tkm.tank.map fun x => { x with grants := x.grants.filter fun g => decide (g.id ≠ ⟨src, inc, q⟩) }
        waits := s.tkm.waits.filter fun w => decide (w.id ≠ ⟨src, inc, q⟩)
        memory := s.tkm.memory.filter fun m => decide (m.id ≠ ⟨src, inc, q⟩) } }))) ∧
  (∀ (i : Nat) (s : State) (tooMuch : Nat → Prop) (tooMuchIn : Prop), i < 2 → (s.tankOf i).grants.length ≤ 8 →
    (∀ k, tooMuch k ↔ max 0 (((s.levelCh i).accepted : Int) - forClass (s.plan i).floor k) <
      (((s.tankOf i).grants.filter fun g => g.kind ≠ .inflow ∧ g.cls ≤ k).map (·.remaining)).sum) →
    (tooMuchIn ↔ max 0 ((s.capacity i : Int) - (s.plan i).topMargin - (s.levelCh i).accepted) <
      (((s.tankOf i).grants.filter fun g => g.kind = .inflow).map (·.remaining)).sum) →
    ((∀ k, 1 ≤ k → k ≤ 5 → ¬tooMuch k) → ¬tooMuchIn → revocationRun i s = s) ∧
    (∀ k before g after, 1 ≤ k → k ≤ 5 → tooMuch k → (∀ j, k < j → j ≤ 5 → ¬tooMuch j) →
      (s.tankOf i).grants = before ++ g :: after → g.kind ≠ .inflow → g.cls ≤ k → 0 < g.remaining →
      (∀ x ∈ before, x.kind ≠ .inflow → x.cls ≤ k → 0 < x.remaining → x.cls ≤ g.cls) →
      (∀ x ∈ after, x.kind ≠ .inflow → x.cls ≤ k → 0 < x.remaining → x.cls < g.cls) →
      revocationRun i s = revocationRun i (takeBack i g s)) ∧
    (∀ before g after, (∀ k, 1 ≤ k → k ≤ 5 → ¬tooMuch k) → tooMuchIn →
      (s.tankOf i).grants = before ++ g :: after → g.kind = .inflow → 0 < g.remaining →
      (∀ x ∈ after, x.kind = .inflow → x.remaining = 0) →
      revocationRun i s = revocationRun i (takeBack i g s))) ∧
  (∀ (i : Nat) (g : Grant) (s : State), i < 2 → ∀ t, t = takeBack i g s →
    (t.tankOf i).grants = (s.tankOf i).grants.erase g ∧ (∀ j, j ≠ i → t.tankOf j = s.tankOf j) ∧
    t.tkm.waits = s.tkm.waits ∧ t = { s with bc := t.bc, tkm := t.tkm } ∧
    (s.serving = true → s.bc.queue.length < 16 →
      t.bc = { s.bc with queue := s.bc.queue ++ [⟨g.id.address, .revoke g.id.sequence⟩] } ∧
      t.tkm.memory = (if 8 ≤ s.tkm.memory.length then s.tkm.memory.tail else s.tkm.memory) ++ [⟨g.id, i, 5⟩]) ∧
    (s.serving = false ∨ 16 ≤ s.bc.queue.length → t.bc = s.bc ∧
      t.tkm.memory = (if 8 ≤ s.tkm.memory.length then s.tkm.memory.tail else s.tkm.memory) ++ [⟨g.id, i, 0⟩]))

/-! ## Measurement channels -/

/-- The window of a level channel after a valid reading and at direct classification (R46, R47, Table 3-2); and the conversion of a
raw mean by the strapping table (R44): the end points outside, and between two points the nearest whole litre with a half rounded
up. -/
def Obligations.LevelConversion : Prop :=
  (∀ (l h y v : Nat),
    (v < l + y → windowAfter .below l h y v = .below) ∧
    (l + y ≤ v → v ≤ h → windowAfter .below l h y v = .inside) ∧
    (l + y ≤ h → h < v → windowAfter .below l h y v = .above) ∧
    (v < l → windowAfter .inside l h y v = .below) ∧
    (l ≤ v → v ≤ h → windowAfter .inside l h y v = .inside) ∧
    (l ≤ h → h < v → windowAfter .inside l h y v = .above) ∧
    (v < l → windowAfter .above l h y v = .below) ∧
    (l ≤ v → v + y ≤ h → windowAfter .above l h y v = .inside) ∧
    (l ≤ v → h < v + y → windowAfter .above l h y v = .above) ∧
    (∀ w, w = .initial ∨ w = .fault →
      (v < l → windowAfter w l h y v = .below) ∧ (l ≤ v → v ≤ h → windowAfter w l h y v = .inside) ∧
      (l ≤ h → h < v → windowAfter w l h y v = .above))) ∧
  (∀ (r : Nat) (first last : Nat × Nat) (points : List (Nat × Nat)),
    (points.head? = some first → r ≤ first.1 → volumeOf points r = first.2) ∧
    (rising points = true → points.getLast? = some last → last.1 ≤ r → volumeOf points r = last.2) ∧
    (∀ before after lower upper, rising points = true → points = before ++ lower :: upper :: after → lower.1 ≤ r →
      r < upper.1 →
      2 * (upper.1 - lower.1) * (volumeOf points r - lower.2) ≤
          2 * (r - lower.1) * (upper.2 - lower.2) + (upper.1 - lower.1) ∧
        2 * (r - lower.1) * (upper.2 - lower.2) + (upper.1 - lower.1) <
          2 * (upper.1 - lower.1) * (volumeOf points r - lower.2 + 1) ∧ lower.2 ≤ volumeOf points r))

/-- SAMPLE_CLOCK_TICK (R41, R42, R43): every active channel takes its sample, a rail sample sets the rail flag, and the reading that
has its 2^n samples falls due; the clock is stopped in OFFLINE and DORMANT. Nothing else changes. -/
def Obligations.SamplesAreTaken : Prop :=
  ∀ (v0 v1 vq : Nat) (s : State), s.ready →
    (s.hearing = true → ∃ t, exec (.sampleClockTick v0 v1 vq) s = .next t ∧ t = { s with mch := t.mch, due := t.due } ∧
      (∀ i v, (i = 0 ∧ v = v0) ∨ (i = 1 ∧ v = v1) →
        (s.hasTank i = true → t.levelCh i = { s.levelCh i with
          active := true
          accumulator := (s.levelCh i).accumulator + v
          count := (s.levelCh i).count + 1
          rail := (s.levelCh i).rail || decide (v = 0) || decide (v = 4095) }) ∧
        (s.hasTank i = false → t.levelCh i = s.levelCh i) ∧
        (∀ u, s.hasTank i = true → look s.setup.levels none i = some u →
          (.levelReading i ∈ t.due ↔ (s.levelCh i).count + 1 = 2 ^ u.n))) ∧
      (s.highpressOn = true → t.mch.quality = { s.mch.quality with
        active := true
        accumulator := s.mch.quality.accumulator + vq
        count := s.mch.quality.count + 1
        rail := s.mch.quality.rail || decide (vq = 0) || decide (vq = 4095) }) ∧
      (∀ u, s.highpressOn = true → s.setup.quality = some u →
        (.qualityReading ∈ t.due ↔ s.mch.quality.count + 1 = 2 ^ u.n)) ∧
      (s.highpressOn = false → t.mch.quality = s.mch.quality)) ∧
    (s.hearing = false → exec (.sampleClockTick v0 v1 vq) s = .next s)

/-- A level reading completes (R42, R43, R45 to R48): a FAULT reading keeps the accepted level, a valid one converts the raw mean and
classifies; the accumulator, count and rail flag are cleared. A change of window makes one WINDOW record of cause READING with
the states, the accepted value after it and the plan generation, and a reading without a change none (R55); that a change to FAULT, at which no
marks are applied, carries the active generation is the model's choice (assumption log 33, DESIGN CHOICE). In JOINED and HOLDING Laws 4 and 5
hold after a valid reading (R116), and a FAULT reading leaves the tank's grants (R116). -/
def Obligations.LevelReadingCompletes : Prop :=
  ∀ (i : Nat) (rest : List Due) (s : State), s.dueNext (.levelReading i) rest → i < 2 →
    ∀ u, look s.setup.levels none i = some u → (s.levelCh i).active = true → (s.levelCh i).count = 2 ^ u.n →
    ∃ t, exec (.levelReadingComplete i) s = .next t ∧ t.due = rest ∧
      ((s.levelCh i).rail = true → t.levelCh i =
        { s.levelCh i with window := .fault, accumulator := 0, count := 0, rail := false }) ∧
      ((s.levelCh i).rail = false → t.levelCh i = { s.levelCh i with
        accepted := volumeOf u.points ((s.levelCh i).accumulator / 2 ^ u.n)
        window := windowAfter (s.levelCh i).window (s.plan i).low (s.plan i).high (s.plan i).hysteresis
          (volumeOf u.points ((s.levelCh i).accumulator / 2 ^ u.n))
        accumulator := 0, count := 0, rail := false }) ∧
      (∀ j, j ≠ i → t.levelCh j = s.levelCh j) ∧ t.mch.quality = s.mch.quality ∧ t.setup = s.setup ∧ t.pls = s.pls ∧
      t.fsc = s.fsc ∧ t.ila = s.ila ∧ t.trs = s.trs ∧
      ((t.levelCh i).window = (s.levelCh i).window → t.port = s.port) ∧
      ((t.levelCh i).window ≠ (s.levelCh i).window → s.port.ring.length < 32 → t.port = { s.port with ring := s.port.ring ++
        [⟨.window i (s.levelCh i).window (t.levelCh i).window (t.levelCh i).accepted .reading (some s.pls.generation),
          s.bc.round, false⟩] }) ∧
      (s.serving = true → (s.levelCh i).rail = true → (t.tankOf i).grants = (s.tankOf i).grants) ∧
      (s.serving = true → (s.levelCh i).rail = false → (s.tankOf i).grants.length ≤ 8 →
        (∀ k, 1 ≤ k → k ≤ 5 →
          ((((t.tankOf i).grants.filter fun g => g.kind ≠ .inflow ∧ g.cls ≤ k).map (·.remaining)).sum : Int) ≤
            max 0 (((t.levelCh i).accepted : Int) - forClass (t.plan i).floor k)) ∧
        ((((t.tankOf i).grants.filter fun g => g.kind = .inflow).map (·.remaining)).sum : Int) ≤
          max 0 ((t.capacity i : Int) - (t.plan i).topMargin - (t.levelCh i).accepted))

/-- The quality value (R52), and what a completed quality reading leaves of the channel (R52, R53): with no excursion watched for, or with no
claim on the product line in CLOSING but under a closing DIVERT. A change of window makes a WINDOW record of cause READING with no
generation, and a reading without a change none (R55). Without a watch the train's state, the actuators and the claims stand; a reading that
enters ABOVE or FAULT under a watch diverts the train for QUALITY (R156) with its TRAIN record (R145). -/
def Obligations.QualityReadingCompletes : Prop :=
  (∀ r, 1 ≤ r → r ≤ 4094 → qualityOf r = r * 2000 / 4095 ∧ qualityOf r ≤ 1999) ∧
  (∀ (rest : List Due) (s : State), s.dueNext .qualityReading rest → ∀ u, s.setup.quality = some u →
    s.mch.quality.active = true → s.mch.quality.count = 2 ^ u.n →
    ∃ t, exec .qualityReadingComplete s = .next t ∧ t.due = rest ∧ t.mch.level = s.mch.level ∧
      (s.watching = false ∨ s.closingStill →
        (s.mch.quality.rail = true → t.mch.quality =
          { s.mch.quality with window := .fault, accumulator := 0, count := 0, rail := false }) ∧
        (s.mch.quality.rail = false → t.mch.quality = { s.mch.quality with
          accepted := qualityOf (s.mch.quality.accumulator / 2 ^ u.n)
          window := windowAfter s.mch.quality.window u.accept u.reject u.hysteresis
            (qualityOf (s.mch.quality.accumulator / 2 ^ u.n))
          accumulator := 0, count := 0, rail := false })) ∧
      (∀ w v, w = (if s.mch.quality.rail then .fault else windowAfter s.mch.quality.window u.accept u.reject u.hysteresis
          (qualityOf (s.mch.quality.accumulator / 2 ^ u.n))) →
        v = (if s.mch.quality.rail then s.mch.quality.accepted else qualityOf (s.mch.quality.accumulator / 2 ^ u.n)) →
        (w = s.mch.quality.window → t.port = s.port) ∧
        (w ≠ s.mch.quality.window → s.tells t 0 (.window 2 s.mch.quality.window w v .reading none))) ∧
      (s.watching = false → t.trs.state = s.trs.state ∧ t.act = s.act ∧ t.cle = s.cle) ∧
      (s.watching = true → s.closingStill →
        (s.mch.quality.rail = true ∧ s.mch.quality.window ≠ .fault) ∨
          (s.mch.quality.rail = false ∧ s.mch.quality.window ≠ .above ∧
            windowAfter s.mch.quality.window u.accept u.reject u.hysteresis
              (qualityOf (s.mch.quality.accumulator / 2 ^ u.n)) = .above) →
        t.trs.state = .diverting ∧ t.trs.divertCause = .quality ∧ t.trs.diversion = 0 ∧ t.trs.good = none ∧
          t.commandOf .divert ≠ .drive ∧ s.tellsTrain t 1 .diverting .quality .none .none s.destination))

/-! ## Contacts and actuators -/

/-- GROUP_SAMPLE (R58, R59, R62): the eight contacts of the group are debounced by their samples, the others of groups 0 to 2 are not touched,
and the scanner goes on to the next group; it is stopped in OFFLINE and DORMANT. The sampling that ends group 3 is *scan complete*: the cells are
evaluated, on the contacts as they stood when the scan comes first and on the state that their sampling leaves when it comes last (R168, R169),
and after a scan that comes last no actuator with a false permissive is driven (R71); with no contact event and no permissive in play, the alarm
and travel timers and what they make due (R62, R67, R68). An OVERFLOW contact that becomes made (R120), one that becomes INACTIVE, and the one
queue scan after a sampling at which one changed (R110). That the changes of one sampling are taken in ascending contact number, and the queue
scan after all of them, is the model's choice (assumption log 32, DESIGN CHOICE; R59 and R19 leave the order open), and so is the operand that
says whether the scan of group 3 comes before its contact changes or after them (assumption log 9, DESIGN CHOICE; R169 allows both). The debounce
(R59), and the CONTACT record of a change, with the start mark in the second full scan (R63, R64). ALARM_REPEAT (R62): a made alarm contact
reports again and its timer is 500; nothing else changes. -/
def Obligations.ContactsAreSampled : Prop :=
  ((∀ (returns : Byte) (permit first : Bool) (s : State), s.ready → s.hearing = true → s.fsc.group < 3 →
    ∃ t, exec (.groupSample returns permit first) s = .next t ∧ t.fsc.group = s.fsc.group + 1 ∧ t.fsc.scans = s.fsc.scans ∧
      t.pins.permit = permit ∧ t.ila = s.ila ∧
      (∀ r, r < 8 → (s.contactSetup (8 * s.fsc.group + r)).role = .none →
        t.contact (8 * s.fsc.group + r) = s.contact (8 * s.fsc.group + r)) ∧
      (∀ r, r < 8 → (s.contactSetup (8 * s.fsc.group + r)).role ≠ .none → ∀ c, c = 8 * s.fsc.group + r →
        (t.contact c).active =
            (debounce (returns.getLsbD r != (s.contactSetup c).inverted) (s.contact c)).1.active ∧
          (t.contact c).disagree =
            (debounce (returns.getLsbD r != (s.contactSetup c).inverted) (s.contact c)).1.disagree ∧
          ((t.contact c).active ≠ (s.contact c).active → (t.contact c).repeatTimer =
            if (s.contactSetup c).alarm && (t.contact c).active then 500 else 0)) ∧
      (∀ c, c < 8 * s.fsc.group ∨ 8 * s.fsc.group + 8 ≤ c → t.contact c = s.contact c)) ∧
  (∀ (returns : Byte) (permit first : Bool) (s : State), s.ready → s.hearing = true → s.fsc.group = 3 →
    ∃ t, exec (.groupSample returns permit first) s = .next t ∧ t.fsc.group = 0 ∧ t.fsc.scans = min 2 (s.fsc.scans + 1) ∧
      t.pins.permit = permit ∧
      (∀ r, r < 8 → (s.contactSetup (24 + r)).role ≠ .none →
        (t.contact (24 + r)).active =
            (debounce (returns.getLsbD r != (s.contactSetup (24 + r)).inverted) (s.contact (24 + r))).1.active ∧
          (t.contact (24 + r)).disagree =
            (debounce (returns.getLsbD r != (s.contactSetup (24 + r)).inverted) (s.contact (24 + r))).1.disagree) ∧
      (first = true → t.ila = [7, 6, 5, 4, 3, 2, 1, 0].foldl (fun h n => evalCell s permit n h) s.ila) ∧
      (first = false → t.ila = [7, 6, 5, 4, 3, 2, 1, 0].foldl
        (fun h n => evalCell (sampleGroup 3 returns { s with pins := { s.pins with permit := permit } }) permit n h) s.ila) ∧
      (first = false → ∀ a, a < 12 → ∀ u, s.actSetup a = some u → t.permitted u = false → (t.actOf a).command ≠ .drive) ∧
      (first = false → (∀ r, r < 8 → (s.contactSetup (24 + r)).role = .none) →
        (∀ a, a < 12 → ∀ u, s.actSetup a = some u → u.permissive = none) →
        (∀ c, c < 32 → t.contact c = { s.contact c with
            repeatTimer := if (s.contactSetup c).alarm = true ∧ (s.contact c).active = true then (s.contact c).repeatTimer - 1
              else (s.contact c).repeatTimer } ∧
          (.alarmRepeat c ∈ t.due ↔
            (s.contactSetup c).alarm = true ∧ (s.contact c).active = true ∧ (s.contact c).repeatTimer = 1)) ∧
        (∀ a, a < 12 → ∀ u, s.actSetup a = some u →
          t.actOf a = { s.actOf a with
            timer := if (s.actOf a).travel = .opening ∨ (s.actOf a).travel = .closing then (s.actOf a).timer + 1
              else (s.actOf a).timer } ∧
          (.travelTimeEnd a ∈ t.due ↔ ((s.actOf a).travel = .opening ∨ (s.actOf a).travel = .closing) ∧
            s.endLimit a u.kind ((s.actOf a).travel == .opening) = none ∧ 10 * u.travel ≤ (s.actOf a).timer + 1) ∧
          (.travelStuck a ∈ t.due ↔ ((s.actOf a).travel = .opening ∨ (s.actOf a).travel = .closing) ∧
            s.endLimit a u.kind ((s.actOf a).travel == .opening) ≠ none ∧ 10 * u.travel + 200 ≤ (s.actOf a).timer + 1)))) ∧
  (∀ (returns : Byte) (permit first : Bool) (s : State), s.ready → s.hearing = false →
    exec (.groupSample returns permit first) s = .next s)) ∧
  ((∀ (i : Nat) (s : State), i < 2 → ∀ t, t = overflowChange i true s →
      (t.tankOf i).grants = (s.tankOf i).grants.filter (fun g => decide (¬(g.kind = .inflow ∧ 0 < g.remaining))) ∧
      t.commandOf (.fill i) = .safe ∧
      (s.oneClaimEach → ∀ c ∈ t.cle.list, c.kind = .transfer → c.target = .fillInlet i → c.state = .closing) ∧
      (∀ out, out = ((s.tankOf i).grants.filter fun g => g.kind = .inflow ∧ 0 < g.remaining).reverse → s.serving = true →
        s.bc.queue.length + out.length ≤ 16 →
        (s.bc.queue ++ out.map fun g => ⟨g.id.address, .revoke g.id.sequence⟩) <+: t.bc.queue)) ∧
    (∀ (i : Nat) (s : State), overflowChange i false s = s) ∧
    (∀ (g : Nat) (returns : Byte) (s : State),
      ((∀ r, r < 8 → ∀ i, (s.contactSetup (8 * g + r)).role ≠ .overflow i ∨
        (debounce (returns.getLsbD r != (s.contactSetup (8 * g + r)).inverted) (s.contact (8 * g + r))).2 = false) →
        sampleGroup g returns s =
          (List.range 8).foldl (fun s r => contactStep (returns.getLsbD r) (8 * g + r) s) s) ∧
      ((∃ r, r < 8 ∧ ∃ i, (s.contactSetup (8 * g + r)).role = .overflow i ∧
        (debounce (returns.getLsbD r != (s.contactSetup (8 * g + r)).inverted) (s.contact (8 * g + r))).2 = true) →
        sampleGroup g returns s =
          scanQueue ((List.range 8).foldl (fun s r => contactStep (returns.getLsbD r) (8 * g + r) s) s)))) ∧
  (∀ (sample : Bool) (c : Contact), c.disagree ≤ 1 →
    (sample = c.active → debounce sample c = ({ c with disagree := 0 }, false)) ∧
    (sample ≠ c.active → c.disagree = 0 → debounce sample c = ({ c with disagree := 1 }, false)) ∧
    (sample ≠ c.active → c.disagree = 1 → debounce sample c = ({ c with active := sample, disagree := 0 }, true))) ∧
  (∀ (c : Nat) (closed : Bool) (s : State), (s.contactSetup c).role ≠ .none →
    ((debounce (closed != (s.contactSetup c).inverted) (s.contact c)).2 = false →
      (sampleContact c closed s).1.port = s.port ∧ (sampleContact c closed s).2 = none) ∧
    ((debounce (closed != (s.contactSetup c).inverted) (s.contact c)).2 = true → s.port.ring.length < 32 →
      ∃ active, active = (closed != (s.contactSetup c).inverted) ∧ (sampleContact c closed s).2 = some active ∧
        (sampleContact c closed s).1.port = { s.port with ring := s.port.ring ++
          [⟨.contact c (s.contactSetup c).role active false (decide (s.fsc.scans = 1)), s.bc.round, false⟩] })) ∧
  (∀ (c : Nat) (rest : List Due) (s : State), s.dueNext (.alarmRepeat c) rest → c < 32 →
    (s.contactSetup c).alarm = true → (s.contact c).active = true → (s.contact c).repeatTimer = 0 →
    s.port.ring.length < 32 →
    ∃ t, exec (.alarmRepeat c) s = .next t ∧ t = { s with fsc := t.fsc, port := t.port, due := rest } ∧
      t.fsc = { s.fsc with contacts := t.fsc.contacts } ∧
      t.contact c = { s.contact c with repeatTimer := 500 } ∧ (∀ d, d ≠ c → t.contact d = s.contact d) ∧
      t.port = { s.port with ring := s.port.ring ++
        [⟨.contact c (s.contactSetup c).role true true false, s.bc.round, false⟩] })

/-- Requests at an actuator (R66): what an open request and a close request do to the command, the travel and the notices. The end of a travel
whose limit is not bound, and a travel that is overdue (R67, R68): for an outlet valve with no claim on it the rest of the station stands. Under
the claim in CLOSING whose target valve it is, either ends the closing (R94, R97): the claim leaves the list with its reason, END with every
litre metered and HOLD-FREE for each held segment are offered in this order (R82), and CLAIM-END is reported as ended from FLOWING. The train may
at once ask its next claim after the outcome of its inflow claim (R153); a *stuck* of DIVERT outside FAULT is also the train's fault with its
TRAIN record (R145, R163), whose entry comes first here (assumption log 10, DESIGN CHOICE). That the ACTUATOR record of a *stuck* comes before
CLAIM-END is the model's choice too (assumption log 32, DESIGN CHOICE). -/
def Obligations.ActuatorsMove : Prop :=
  (∀ (a : Nat) (u : ActuatorSetup) (s : State), s.actSetup a = some u → a < 12 →
    ((s.actOf a).command = .drive → openReq a s = (s, [])) ∧
    ((s.actOf a).command ≠ .drive → s.permitted u = true →
      ((openReq a s).1.actOf a).command = .drive ∧
      ((s.actOf a).travel = .opened → (openReq a s).2 = [] ∧ ((openReq a s).1.actOf a).travel = .opened) ∧
      ((s.actOf a).travel ≠ .opened → s.atEnd a u.kind true = false → (openReq a s).2 = [] ∧
        (openReq a s).1.actOf a = ⟨.drive, .opening, 0⟩)) ∧
    ((s.actOf a).command ≠ .drive → s.permitted u = false →
      openReq a s = (s.putAct a { s.actOf a with command := .held }, [⟨a, u.role, .permissiveDenied⟩])) ∧
    ((closeReq a s).1.actOf a).command = .safe ∧
    ((s.actOf a).command = .safe → (s.actOf a).travel = .closed ∨ (s.actOf a).travel = .closing →
      closeReq a s = (s, [])) ∧
    ((s.actOf a).travel ≠ .closed → (s.actOf a).travel ≠ .closing → s.atEnd a u.kind false = false →
      (closeReq a s).2 = [] ∧ (closeReq a s).1.actOf a = ⟨.safe, .closing, 0⟩) ∧
    (s.ident.resetLow = false → (s.drive a = true ↔ (s.actOf a).command = .drive))) ∧
  (∀ (a p : Nat) (u : ActuatorSetup) (rest : List Due) (s : State), s.actSetup a = some u → u.role = .outlet p →
    (∀ c ∈ s.cle.list, targetRole c.target ≠ .outlet p) →
    (s.dueNext (.travelTimeEnd a) rest → (s.actOf a).travel = .opening ∨ (s.actOf a).travel = .closing →
      s.endLimit a u.kind ((s.actOf a).travel == .opening) = none → 10 * u.travel ≤ (s.actOf a).timer →
      exec (.travelTimeEnd a) s = .next { s with
        act := put s.act a { s.actOf a with travel := if (s.actOf a).travel = .opening then .opened else .closed }
        due := rest }) ∧
    (s.dueNext (.travelStuck a) rest → (s.actOf a).travel = .opening ∨ (s.actOf a).travel = .closing →
      10 * u.travel + 200 ≤ (s.actOf a).timer → s.port.ring.length < 32 →
      exec (.travelStuck a) s = .next { s with
        act := put s.act a { s.actOf a with command := .safe, travel := .stuck }
        port := { s.port with ring := s.port.ring ++
          [⟨.actuator a u.role (s.actOf a).travel .travel, s.bc.round, false⟩] }
        due := rest })) ∧
  (∀ (a q : Nat) (u : ActuatorSetup) (c : Claim) (reason : EndReason) (rest : List Due) (s : State), s.actSetup a = some u →
    s.actWith (targetRole c.target) = some a → s.claimOf q = some c → c.state = .closing → c.reason = some reason →
    (∀ x ∈ s.cle.list, targetRole x.target = targetRole c.target → x = c) →
    (s.dueNext (.travelTimeEnd a) rest → (s.actOf a).travel = .closing → s.endLimit a u.kind false = none →
      10 * u.travel ≤ (s.actOf a).timer →
      ∃ t, exec (.travelTimeEnd a) s = .next t ∧ t.due = rest ∧ (t.actOf a).travel = .closed ∧
        (∀ x ∈ t.cle.list, x.sequence = q → x.state ≠ .closing) ∧ s.offeredFirst t (c.endsWith reason) ∧
        (s.port.ring.length < 32 → t.reported (.claimEnd c .flowing) s.bc.round) ∧
        (c.creator ≠ .train ∨ c.target = .flush ∨ (s.trs.state ≠ .producing ∧ s.trs.state ≠ .diverting) →
          t.cle = { s.cle with list := s.cle.list.filter fun x => x.sequence != q } ∧ s.offered t (c.endsWith reason)) ∧
        (∀ k, c.target = .fillInlet k → c.creator = .fill → k < 2 → (t.tankOf k).fill = .idle ∧ (t.tankOf k).live = none)) ∧
    (s.dueNext (.travelStuck a) rest → (s.actOf a).travel = .opening ∨ (s.actOf a).travel = .closing →
      10 * u.travel + 200 ≤ (s.actOf a).timer →
      ∃ t, exec (.travelStuck a) s = .next t ∧ t.due = rest ∧ t.claimOf q = none ∧
        (targetRole c.target ≠ .divert ∨ s.trs.state = .fault →
          t.actOf a = { s.actOf a with command := .safe, travel := .stuck } ∧
          t.cle = { s.cle with list := s.cle.list.filter fun x => x.sequence != q } ∧ s.offered t (c.endsWith reason) ∧
          (s.port.ring.length < 31 → t.reported (.claimEnd c .flowing) s.bc.round) ∧
          (∀ k, c.target = .fillInlet k → c.creator = .fill → k < 2 → (t.tankOf k).fill = .idle ∧ (t.tankOf k).live = none)) ∧
        (targetRole c.target = .divert → s.trs.state ≠ .fault →
          s.faultTold t .divert 1 ∧ (t.actOf a).command = .safe ∧
          (s.trs.flush = none → s.trs.inflow = none ∨ s.trs.inflow = some q →
            t.cle = { s.cle with list := s.cle.list.filter fun x => x.sequence != q } ∧ s.offered t (c.endsWith reason) ∧
            (s.port.ring.length < 29 → t.reported (.claimEnd c .flowing) s.bc.round)))))

/-! ## Interlock cells -/

/-- The truth table of a cell (R173, Table 9-3): the raw result is the entry that the three inputs number; every function of three inputs is
available; and the entries that a MASK input never reaches have no effect. -/
def Obligations.TruthTable : Prop :=
  (∀ (table : Byte) (i0 i1 i2 : Bool), tableEntry table i0 i1 i2 = table.getLsbD (4 * i0.toNat + 2 * i1.toNat + i2.toNat)) ∧
  (∀ (s : State) (permit : Bool) (n : Nat) (h : Vector CellHistory 8), evalCell s permit n h = put h n
    (condition (s.program n) ((s.program n).latch && n % 2 == 0) (look h CellHistory.initial (n + 1)).output
      (tableEntry (s.program n).table (readInput s permit h n (s.program n).in0 (s.program n).init0)
        (readInput s permit h n (s.program n).in1 (s.program n).init1)
        (readInput s permit h n (s.program n).in2 (s.program n).init2)) (look h CellHistory.initial n))) ∧
  (∀ f : Bool → Bool → Bool → Bool, ∃ table : Byte, ∀ i0 i1 i2, tableEntry table i0 i1 i2 = f i0 i1 i2) ∧
  (∀ (s : State) (permit initial : Bool) (h : Vector CellHistory 8) (n : Nat), readInput s permit h n .mask initial = false) ∧
  (∀ (x y : Byte), (∀ i, i < 4 → x.getLsbD i = y.getLsbD i) → ∀ i1 i2, tableEntry x false i1 i2 = tableEntry y false i1 i2) ∧
  (∀ (x y : Byte), (∀ i, i % 4 < 2 → x.getLsbD i = y.getLsbD i) → ∀ i0 i2, tableEntry x i0 false i2 = tableEntry y i0 false i2) ∧
  (∀ (x y : Byte), (∀ i, i % 2 = 0 → x.getLsbD i = y.getLsbD i) → ∀ i0 i1, tableEntry x i0 i1 false = tableEntry y i0 i1 false)

/-- The filter, the edge and the latch of a cell (R174, R175, R176); and *scan complete* (R71, R168, R177): the eight cells are
evaluated, cell 7 first, on the state as it stands, and afterwards no actuator with a false permissive is driven. -/
def Obligations.CellStages : Prop :=
  ((∀ (raw : Bool) (h : CellHistory), (filterStep .none raw h).filtered = raw) ∧
  (∀ (raw : Bool) (h : CellHistory), (filterStep .sync raw h).filtered = h.previousRaw ∧
    (filterStep .sync raw h).previousRaw = raw) ∧
  (∀ (raw : Bool) (h : CellHistory), h.holdCount ≤ 2 →
    (raw = h.filtered → (filterStep .hold raw h).filtered = h.filtered ∧ (filterStep .hold raw h).holdCount = 0) ∧
    (raw ≠ h.filtered → h.holdCount < 2 →
      (filterStep .hold raw h).filtered = h.filtered ∧ (filterStep .hold raw h).holdCount = h.holdCount + 1) ∧
    (raw ≠ h.filtered → h.holdCount = 2 → (filterStep .hold raw h).filtered = raw ∧
      (filterStep .hold raw h).holdCount = 0)) ∧
  (∀ (p : CellProgram) (latched above raw : Bool) (h : CellHistory),
    (condition p latched above raw h).edgeMemory = (filterStep p.filter raw h).filtered ∧
    (condition p latched above raw h).primed = true ∧
    (p.edge = .none → latched = false →
      (condition p latched above raw h).output = (filterStep p.filter raw h).filtered) ∧
    (p.edge = .risingPulse → latched = false → ((condition p latched above raw h).output = true ↔
      (filterStep p.filter raw h).filtered = true ∧ h.edgeMemory = false ∧ h.primed = true)) ∧
    (latched = false → (condition p latched above raw h).latch = false) ∧
    (latched = true → above = true → (condition p latched above raw h).latch = false ∧
      (condition p latched above raw h).output = false) ∧
    (p.edge = .none → latched = true → above = false →
      (condition p latched above raw h).latch = ((filterStep p.filter raw h).filtered || h.latch) ∧
      (condition p latched above raw h).output = ((filterStep p.filter raw h).filtered || h.latch)))) ∧
  (∀ (permit : Bool) (s : State),
    (scanComplete permit s).ila = [7, 6, 5, 4, 3, 2, 1, 0].foldl (fun h n => evalCell s permit n h) s.ila ∧
    (∀ a u, a < 12 → s.actSetup a = some u → (scanComplete permit s).permitted u = false →
      ((scanComplete permit s).actOf a).command ≠ .drive) ∧
    (scanComplete permit s).setup = s.setup ∧ (scanComplete permit s).pls = s.pls ∧
    (scanComplete permit s).roster = s.roster ∧ (scanComplete permit s).nwt = s.nwt)

/-! ## The train -/

/-- The causes of FAULT (R147, R149, R150, R158, R163). The timed ones. A *stuck* of FEED, HIGHPRESS or DIVERT and an *interlock drop* of
a pump, as notices, from any state but FAULT; in FAULT those of the pumps change nothing, and a *stuck* of DIVERT keeps state and cause (the
claim that it ends may clear the inflow field, R163). An *interlock drop* or *permissive denied* of DIVERT in PRODUCING
takes the train to DIVERTING for NO-DESTINATION (R152). Every change makes its TRAIN record (R145): before any other where no claim's end comes
first, and else behind that claim's CLAIM-END and the TRAIN record of its outcome. -/
def Obligations.TimedTrainFaults : Prop :=
  (∀ (rest : List Due) (s : State),
    (s.dueNext .noFeed rest → s.trs.state = .priming → 300 ≤ s.trs.phase →
      ∃ t, exec .noFeedTimeout s = .next t ∧ s.faultTold t .noFeed 0 ∧ t.due = rest) ∧
    (s.dueNext .highpressHold rest → s.trs.state = .ramping → 100 ≤ s.trs.hold →
      ∃ t, exec .highpressHoldTimeout s = .next t ∧ s.faultTold t .interlock 0 ∧ t.due = rest) ∧
    (s.dueNext .settleLimit rest → s.trs.state = .settling → 3000 ≤ s.trs.phase → s.trs.settle < 600 →
      ∃ t, exec .settleLimit s = .next t ∧ s.faultTold t .quality 0 ∧ t.due = rest) ∧
    (∀ n, s.trs.sensor = some n → s.dueNext .sensor rest →
      s.trs.state = .ramping ∨ s.trs.state = .settling ∨ s.trs.state = .producing ∨ s.trs.state = .diverting → 100 ≤ n →
      ∃ t, exec .sensorTimeout s = .next t ∧ s.faultTold t .sensor 0 ∧ t.due = rest) ∧
    (s.dueNext .settleLimit rest → s.trs.state = .settling → 600 ≤ s.trs.settle →
      exec .settleLimit s = .next { s with due := rest })) ∧
  (∀ (a : Nat) (b : Travel) (s : State),
    (s.trs.state ≠ .fault → s.faultTold (dispatch s ⟨a, .feed, .stuck b⟩) .stuck 0 ∧
      s.faultTold (dispatch s ⟨a, .highpress, .stuck b⟩) .stuck 0 ∧ s.faultOf (dispatch s ⟨a, .divert, .stuck b⟩) .divert ∧
      (s.flowingOn .divert = false → s.faultTold (dispatch s ⟨a, .divert, .stuck b⟩) .divert 0) ∧
      (∃ x, s.tells (dispatch s ⟨a, .divert, .stuck b⟩) 2 (.train x .fault .none .divert .none ⟨0, 0⟩ s.trs.unflushed)) ∧
      s.faultTold (dispatch s ⟨a, .feed, .interlockDrop⟩) .interlock 0 ∧
      s.faultTold (dispatch s ⟨a, .highpress, .interlockDrop⟩) .interlock 0) ∧
    (s.trs.state = .fault → dispatch s ⟨a, .feed, .stuck b⟩ = s ∧ dispatch s ⟨a, .highpress, .stuck b⟩ = s ∧
      dispatch s ⟨a, .feed, .interlockDrop⟩ = s ∧ dispatch s ⟨a, .highpress, .interlockDrop⟩ = s ∧
      (dispatch s ⟨a, .divert, .stuck b⟩).trs.state = .fault ∧
      (dispatch s ⟨a, .divert, .stuck b⟩).trs.faultCause = s.trs.faultCause) ∧
    (s.trs.state = .producing → ∀ k, k = .interlockDrop ∨ k = .permissiveDenied → ∀ t, t = dispatch s ⟨a, .divert, k⟩ →
      t.trs.state = .diverting ∧ t.trs.divertCause = .noDestination ∧
      (s.flowingOn .divert = false → s.tellsTrain t 0 .diverting .noDestination .none .none s.destination) ∧
      ∃ d, s.tellsTrain t 1 .diverting .noDestination .none .none d))

/-- The way up (R148 to R151): the budget test into RAMPING or not, the ramp's end into SETTLING, the settle's end into DIVERTING with cause
NO-DESTINATION. The timers at a boundary (R144, R147, R149, R150, R154 to R159): those that run rise by one, the others stand, and the event of
each is due exactly when its timer stands at its limit; the boundary is the local timer's or a valid MARK. That FEED-OK is read after the new
request in PRIMING, and that in RAMPING with HIGHPRESS HELD the phase timer stands and the hold timer rises only where the pump is still held
after the new request, is the model's reading of R144, R147 and R149 (assumption log 19, DEDUCED); that PENDING comes before NO-FEED where one
boundary brings both is its choice (assumption log 19, DESIGN CHOICE; R165 allows either). Every change of state makes its TRAIN record (R145). -/
def Obligations.TrainComesUp : Prop :=
  (∀ (rest : List Due) (s : State),
    (s.dueNext .budgetTest rest → s.trs.state = .pending → s.ownPending = true → s.budgetCount < s.allowed →
      ∃ t, exec .budgetTest s = .next t ∧ t.trs.state = .ramping ∧ t.trs.unflushed = true ∧ t.trs.phase = 0 ∧
        t.trs.hold = 0 ∧ t.commandOf .divert ≠ .drive ∧ t.due = rest ∧
        s.tells t 0 (.train .pending .ramping .none .none .none ⟨0, 0⟩ true) ∧
        ((s.actWith .highpress).isSome = true → t.commandOf .highpress ≠ .safe)) ∧
    (s.dueNext .budgetTest rest → s.trs.state = .pending → s.ownPending = true → s.allowed ≤ s.budgetCount →
      exec .budgetTest s = .next { s with due := rest }) ∧
    (s.dueNext .rampComplete rest → s.trs.state = .ramping → 200 ≤ s.trs.phase →
      ∃ t, exec .rampComplete s = .next t ∧ t.trs.state = .settling ∧ t.trs.phase = 0 ∧ t.trs.settle = 0 ∧
        t = { s with trs := t.trs, port := t.port, due := rest } ∧ s.tellsTrain t 0 .settling .none .none .none ⟨0, 0⟩) ∧
    (s.dueNext .settleComplete rest → s.trs.state = .settling → 600 ≤ s.trs.settle →
      ∃ t, exec .settleComplete s = .next t ∧ t.trs.state = .diverting ∧ t.trs.divertCause = .noDestination ∧
        t.due = rest ∧ t.act = s.act ∧ s.tellsTrain t 0 .diverting .noDestination .none .none t.destination)) ∧
  (∀ (row : Instr) (permit : Bool) (s : State), s.atBoundary row permit → ∃ t, exec row s = .next t ∧
    (t.trs.permit = if stoppable s.trs.state then if permit then 0 else s.trs.permit + 1 else s.trs.permit) ∧
    (t.trs.sensor = if sensed s.trs.state then s.trs.sensor.map (· + 1) else s.trs.sensor) ∧
    (s.trs.state = .producing ∨ s.trs.state = .diverting →
      t.trs.retry = s.trs.retry.map (· + 1) ∧ t.trs.rateTimer = s.trs.rateTimer + 1 ∧ t.trs.productCount = s.trs.productCount ∧
      t.trs.rate = s.trs.rate ∧
      (t.trs.marginal = if s.watching then s.trs.marginal.map (· + 1) else s.trs.marginal) ∧
      (t.trs.good = if s.diverted then s.trs.good.map (· + 1) else s.trs.good) ∧
      (t.trs.diversion = if s.diverted && s.mch.quality.window != .below then min 600 (s.trs.diversion + 1)
        else s.trs.diversion)) ∧
    (s.trs.state ≠ .priming → t.trs = { s.trs with
      permit := t.trs.permit, sensor := t.trs.sensor, retry := t.trs.retry, rateTimer := t.trs.rateTimer
      marginal := t.trs.marginal, good := t.trs.good, diversion := t.trs.diversion
      phase := t.trs.phase, hold := t.trs.hold, settle := t.trs.settle }) ∧
    (s.trs.state ≠ .producing → s.trs.state ≠ .diverting → s.trs.state ≠ .priming →
      t.trs.retry = s.trs.retry ∧ t.trs.rateTimer = s.trs.rateTimer ∧ t.trs.marginal = s.trs.marginal ∧
      t.trs.good = s.trs.good ∧ t.trs.diversion = s.trs.diversion) ∧
    (s.trs.state = .priming → t.trs.phase = s.trs.phase + 1 ∧
      ((s.made .feedOk = false ∨ t.commandOf .feed ≠ .drive) → t.trs.state = .priming) ∧
      (s.made .feedOk = true → t.commandOf .feed = .drive → t.trs.state = .pending ∧
        s.tellsTrain t 1 .pending .none .none .none ⟨0, 0⟩)) ∧
    (s.trs.state = .ramping → t.trs.settle = s.trs.settle ∧
      (s.commandOf .highpress ≠ .held → t.trs.phase = s.trs.phase + 1 ∧ t.trs.hold = s.trs.hold) ∧
      (s.commandOf .highpress = .held → t.trs.phase = s.trs.phase ∧
        (t.commandOf .highpress = .held → t.trs.hold = s.trs.hold + 1) ∧
        (t.commandOf .highpress ≠ .held → t.trs.hold = s.trs.hold))) ∧
    (s.trs.state = .settling → t.trs.phase = s.trs.phase + 1 ∧ t.trs.hold = s.trs.hold ∧
      (t.trs.settle = if s.mch.quality.window = .below then s.trs.settle + 1 else s.trs.settle)) ∧
    (s.trs.state ≠ .priming → s.trs.state ≠ .ramping → s.trs.state ≠ .settling →
      t.trs.phase = s.trs.phase ∧ t.trs.hold = s.trs.hold ∧ t.trs.settle = s.trs.settle) ∧
    (.noFeed ∈ t.due ↔ t.trs.state = .priming ∧ 300 ≤ t.trs.phase) ∧
    (.budgetTest ∈ t.due ↔ t.trs.state = .pending ∧ t.ownPending = true) ∧
    (.rampComplete ∈ t.due ↔ t.trs.state = .ramping ∧ 200 ≤ t.trs.phase) ∧
    (.highpressHold ∈ t.due ↔ t.trs.state = .ramping ∧ 100 ≤ t.trs.hold) ∧
    (.settleComplete ∈ t.due ↔ t.trs.state = .settling ∧ 600 ≤ t.trs.settle) ∧
    (.settleLimit ∈ t.due ↔ t.trs.state = .settling ∧ 3000 ≤ t.trs.phase) ∧
    (.marginal ∈ t.due ↔ t.watching = true ∧ t.trs.marginal = some 300) ∧
    (.diversionLimit ∈ t.due ↔ t.diverted = true ∧ s.trs.diversion < 600 ∧ t.trs.diversion = 600) ∧
    (.goodResume ∈ t.due ↔ t.diverted = true ∧ t.trs.good = some 600) ∧
    (.sensor ∈ t.due ↔ sensed t.trs.state = true ∧ t.trs.sensor = some 100) ∧
    (.permit ∈ t.due ↔ stoppable t.trs.state = true ∧ 100 ≤ t.trs.permit) ∧
    (.retryWaitEnd ∈ t.due ↔ t.trs.retry = some 50) ∧
    (.ratePeriodEnd ∈ t.due ↔ rated t.trs.state = true ∧ 100 ≤ t.trs.rateTimer))

/-- Excursions and their end (R156, R157). The marginal timer's limit diverts for QUALITY, with no claim on the product line in CLOSING but under
a closing DIVERT. The good timer's limit ends the diversion: to NO-DESTINATION without a FLOWING inflow claim, to PRODUCING with one whose open
request is permitted, and to NO-DESTINATION where it is denied (R152). The diversion timer's limit stops a held inflow claim, DIVERT being
commanded to reject as R156 leaves it: a FLOWING one leaves at once where DIVERT is CLOSED and closes with STOPPED where it is CLOSING, one in
PATHING or ASKING leaves the list, and one in CLOSING goes on closing; no other claim is asked. A claim that leaves offers its final messages in
their order (R82). Every change of state or divert cause makes its TRAIN record with the destination that will be published (R145). -/
def Obligations.Diversions : Prop :=
  ∀ (rest : List Due) (s : State),
    (∀ n, s.trs.marginal = some n → s.dueNext .marginal rest → s.watching = true → 300 ≤ n → s.closingStill →
      ∃ t, exec .marginalTimeout s = .next t ∧ t.trs.state = .diverting ∧ t.trs.divertCause = .quality ∧
        t.trs.diversion = 0 ∧ t.trs.good = none ∧ t.trs.marginal = none ∧ t.commandOf .divert ≠ .drive ∧ t.cle = s.cle ∧
        t.due = rest ∧ s.tellsTrain t 0 .diverting .quality .none .none s.destination) ∧
    (∀ n, s.trs.good = some n → s.dueNext .goodResume rest → s.diverted = true → 600 ≤ n →
      (s.inflowFlowing = false →
        ∃ t, exec .goodQualityResume s = .next t ∧ t.trs.state = .diverting ∧ t.trs.divertCause = .noDestination ∧
          t.act = s.act ∧ (s.trs.inflow ≠ none → t.trs.inflow = s.trs.inflow ∧ t.cle = s.cle) ∧ t.due = rest ∧
          s.tellsTrain t 0 .diverting .noDestination .none .none t.destination) ∧
      (s.inflowFlowing = true → ∀ a, s.actWith .divert = some a → ∀ u, s.actSetup a = some u →
        (s.permitted u = true → ∃ t, exec .goodQualityResume s = .next t ∧ t.trs.state = .producing ∧
          (t.actOf a).command = .drive ∧ t.due = rest ∧ s.tellsTrain t 0 .producing .none .none .none s.destination) ∧
        (s.permitted u = false → (s.actOf a).command ≠ .drive → ∃ t, exec .goodQualityResume s = .next t ∧
          t.trs.state = .diverting ∧ t.trs.divertCause = .noDestination ∧ (t.actOf a).command ≠ .drive ∧ t.due = rest ∧
          s.tellsTrain t 0 .producing .none .none .none s.destination ∧
          ∃ d, s.tells t 2 (.train .producing .diverting .noDestination .none .none d s.trs.unflushed)))) ∧
    (s.dueNext .diversionLimit rest → s.diverted = true → 600 ≤ s.trs.diversion →
      (s.trs.inflow = none → exec .diversionLimit s = .next { s with due := rest }) ∧
      (∀ q, s.trs.inflow = some q → ∀ c, s.claimOf q = some c → c.target = .product → c.creator = .train →
        s.commandOf .divert = .safe →
        (c.state = .flowing → s.travelOf .divert = .closed → ∃ t, exec .diversionLimit s = .next t ∧
          t.cle = { s.cle with list := s.cle.list.filter fun x => x.sequence != q } ∧
          t.trs = { s.trs with inflow := none, ownStop := false } ∧ t.due = rest ∧ s.offered t (c.endsWith .stopped)) ∧
        (c.state = .flowing → s.travelOf .divert = .closing →
          exec .diversionLimit s = .next { s with
            cle := { s.cle with list := s.cle.list.map fun x =>
              if x.sequence = q then { c with state := .closing, reason := some .stopped } else x }
            trs := { s.trs with ownStop := true }
            due := rest }) ∧
        (c.state = .pathing ∨ c.state = .asking → ∃ t, exec .diversionLimit s = .next t ∧
          t.cle = { s.cle with list := s.cle.list.filter fun x => x.sequence != q } ∧
          t.trs = { s.trs with inflow := none, ownStop := false } ∧ t.act = s.act ∧ t.due = rest ∧ s.offered t c.withdraws ∧
          (s.port.ring.length < 32 →
            ⟨.claimEnd { c with reason := some .stopped, owner := none } c.state, s.bc.round, false⟩ ∈ t.port.ring)) ∧
        (c.state = .closing →
          exec .diversionLimit s = .next { s with trs := { s.trs with ownStop := true }, due := rest })))

/-- The permit timer's limit stops the train (R159, R160), the retry wait's end asks the next claim if R151 allows it (R154), and the
rate period's end sets the rate (R155). What an outcome of the inflow claim does (R153, Table 8-4): only its fields are cleared outside PRODUCING
and DIVERTING (R161, R163); SUPPLY does nothing more; DONE and the train's own STOPPED ask the next claim at the same destination; another STOPPED
starts the retry wait with the index kept; and every other reason is a failed destination, the last one of a pass stopping the train on REVOKED
and starting the retry wait otherwise. From PRODUCING the train is in DIVERTING for NO-DESTINATION before the next claim. Every change of state makes
its TRAIN record, that to DIVERTING with the destination that will be published (R145): where it goes on to STOPPING at once, a second one. -/
def Obligations.TrainTimers : Prop :=
  (∀ (rest : List Due) (s : State),
    (s.dueNext .permit rest → stoppable s.trs.state = true → 100 ≤ s.trs.permit →
      ∃ t, exec .permitTimeout s = .next t ∧ s.stopOf t s.trs.state .permit 0 ∧ t.due = rest) ∧
    (s.dueNext .retryWaitEnd rest → s.trs.retry = some 50 →
      (s.trs.state ≠ .diverting ∨ s.trs.divertCause ≠ .noDestination ∨ s.trs.inflow ≠ none) →
      exec .retryWaitEnd s = .next { s with trs := { s.trs with retry := none }, due := rest }) ∧
    (s.dueNext .retryWaitEnd rest → s.trs.retry = some 50 → s.trs.state = .diverting →
      s.trs.divertCause = .noDestination → s.trs.inflow = none → s.cle.nextSeq < 256 →
      ∀ u, s.setup.train = some u → ∀ d, s.setup.destinations[s.trs.destIndex]? = some d → ∀ x, s.setup.station = some x →
      createRefusal s ⟨.inflow, .product, d.tank, u.inflowClass, 2000, x.wait, d.path, .train⟩ = none →
      ∃ t, exec .retryWaitEnd s = .next t ∧ ∃ q,
        s.makes t ⟨.inflow, .product, d.tank, u.inflowClass, 2000, x.wait, d.path, .train⟩ q ∧
        t = { s with
          cle := t.cle
          bc := t.bc
          trs := { s.trs with retry := none, inflow := some q }
          due := rest }) ∧
    (s.dueNext .ratePeriodEnd rest → s.trs.state = .producing ∨ s.trs.state = .diverting → 100 ≤ s.trs.rateTimer →
      exec .ratePeriodEnd s = .next { s with
        trs := { s.trs with rate := min 65535 (s.trs.productCount * 36), productCount := 0, rateTimer := 0 }
        due := rest })) ∧
  (∀ (q : Nat) (reason : EndReason) (s : State),
    (s.trs.inflow ≠ some q → trainOutcome q .product reason s = s) ∧
    (s.trs.inflow = some q →
      (s.trs.state = .fault → trainOutcome q .product reason s = { s with trs := { s.trs with inflow := none } }) ∧
      (s.trs.state ≠ .fault → s.trs.state ≠ .producing → s.trs.state ≠ .diverting →
        trainOutcome q .product reason s = { s with trs := { s.trs with inflow := none, ownStop := false } }) ∧
      (s.trs.state = .producing ∨ s.trs.state = .diverting → ∀ t, t = trainOutcome q .product reason s →
        (reason = .supply → t = { s with trs := { s.trs with inflow := none } }) ∧
        (reason ≠ .supply →
          (reason ≠ .revoked ∨ s.trs.passCount + 1 < s.setup.destinations.length →
            t.trs.state = .diverting ∧
            (t.trs.divertCause = if s.trs.state = .producing then .noDestination else s.trs.divertCause) ∧
            (s.trs.state = .producing → s.tellsTrain t 0 .diverting .noDestination .none .none t.destination)) ∧
          (reason = .stopped → s.trs.ownStop = false →
            t.trs.retry = some 0 ∧ t.trs.passCount = 0 ∧ t.trs.destIndex = s.trs.destIndex ∧ t.trs.inflow = none ∧
            t.cle = s.cle ∧ t.act = s.act) ∧
          (reason ≠ .stopped → reason ≠ .done → reason ≠ .revoked →
            s.setup.destinations.length ≤ s.trs.passCount + 1 →
            t.trs.retry = some 0 ∧ t.trs.passCount = 0 ∧ t.trs.destIndex = 0 ∧ t.trs.inflow = none ∧ t.cle = s.cle ∧
            t.act = s.act) ∧
          (reason = .revoked → s.setup.destinations.length ≤ s.trs.passCount + 1 →
            s.stopOf t .diverting .revoked 1 ∧ t.trs.retry = none ∧ t.trs.inflow = none ∧
            (s.trs.state = .producing → s.tellsTrain t 1 .diverting .noDestination .none .none s.destination)) ∧
          (s.trs.state = .diverting → s.trs.divertCause = .quality →
            (reason = .done → t.trs = { s.trs with inflow := none, passCount := 0 } ∧ t.cle = s.cle) ∧
            (reason = .stopped → s.trs.ownStop = true → t.trs = { s.trs with inflow := none, ownStop := false } ∧ t.cle = s.cle) ∧
            (reason ≠ .stopped → reason ≠ .done → s.trs.passCount + 1 < s.setup.destinations.length →
              t.trs = { s.trs with
                inflow := none
                passCount := s.trs.passCount + 1
                destIndex := (s.trs.destIndex + 1) % s.setup.destinations.length } ∧ t.cle = s.cle)) ∧
          ((s.trs.state = .producing ∨ s.trs.divertCause = .noDestination) → s.trs.retry = none → s.cle.nextSeq < 256 →
            s.bc.busState = .joined → ∀ u, s.setup.train = some u → ∀ x, s.setup.station = some x →
            (reason = .done ∨ (reason = .stopped ∧ s.trs.ownStop = true) →
              ∀ d, s.setup.destinations[s.trs.destIndex]? = some d →
              createRefusal s ⟨.inflow, .product, d.tank, u.inflowClass, 2000, x.wait, d.path, .train⟩ = none →
              ∃ k, s.makes t ⟨.inflow, .product, d.tank, u.inflowClass, 2000, x.wait, d.path, .train⟩ k ∧
                t.trs.inflow = some k ∧ t.trs.destIndex = s.trs.destIndex ∧ t.trs.retry = none ∧
                (t.trs.passCount = if reason = .done then 0 else s.trs.passCount) ∧
                (t.trs.ownStop = if reason = .done then s.trs.ownStop else false)) ∧
            (reason ≠ .stopped → reason ≠ .done → s.trs.passCount + 1 < s.setup.destinations.length →
              ∀ d, s.setup.destinations[(s.trs.destIndex + 1) % s.setup.destinations.length]? = some d →
              createRefusal s ⟨.inflow, .product, d.tank, u.inflowClass, 2000, x.wait, d.path, .train⟩ = none →
              ∃ k, s.makes t ⟨.inflow, .product, d.tank, u.inflowClass, 2000, x.wait, d.path, .train⟩ k ∧
                t.trs.inflow = some k ∧ t.trs.destIndex = (s.trs.destIndex + 1) % s.setup.destinations.length ∧
                t.trs.passCount = s.trs.passCount + 1 ∧ t.trs.retry = none))))))

/-- The train requests (R146, Table 8-3). A stop asks for the flush claim of class SERVICE: created, the flush is PENDING with its sequence;
refused, the flush FAILED (R160). An outcome of the flush claim: outside STOPPING it clears the field alone; in STOPPING it is DONE or FAILED,
and with both pumps STOPPED the train is STOPPED with the unflushed mark cleared or set (R161). Every change of state makes its TRAIN record (R145),
and the stop of a running HIGHPRESS the WINDOW record PUMP-OFF (R51, R55). -/
def Obligations.TrainRequests : Prop :=
  (∀ s : State, s.ready → s.bc.busState = .joined →
    (s.setup.train = none →
      (∀ p, exec (.trainStart p) s = .next ({ s with pins := { s.pins with permit := p } }.answered [3, 1] false false)) ∧
      exec .trainStop s = .next (s.answered [3, 1] false false) ∧
      exec .trainClear s = .next (s.answered [3, 1] false false)) ∧
    (s.setup.train ≠ none →
      (s.trs.state = .stopped → ∃ t, exec (.trainStart true) s = .next t ∧ t.port.answer = [0] ∧ t.trs.state = .priming ∧
        t.trs.phase = 0 ∧ t.trs.permit = 0 ∧ t.trs.passCount = 0 ∧ t.trs.destIndex = 0 ∧ t.commandOf .divert ≠ .drive ∧
        s.tellsTrain t 0 .priming .none .none .none ⟨0, 0⟩ ∧
        ((s.actWith .feed).isSome = true → t.commandOf .feed ≠ .safe)) ∧
      (s.trs.state = .stopped → exec (.trainStart false) s =
        .next ({ s with pins := { s.pins with permit := false } }.answered [3, 4] false false)) ∧
      (∀ p, s.trs.state ≠ .stopped → exec (.trainStart p) s =
        .next ({ s with pins := { s.pins with permit := p } }.answered [1] false false)) ∧
      (stoppable s.trs.state = true → ∃ t, exec .trainStop s = .next t ∧ t.port.answer = [0] ∧
        s.stopOf t s.trs.state .command 0 ∧
        (s.highpressOn = true → s.mch.quality.window ≠ .initial →
          s.tells t 1 (.window 2 s.mch.quality.window .initial 0 .pumpOff none))) ∧
      (stoppable s.trs.state = false → exec .trainStop s = .next (s.answered [0] false false)) ∧
      (s.trs.state = .fault → ∃ t, exec .trainClear s = .next t ∧ t.port.answer = [0] ∧ t.trs.state = .stopped ∧
        t.trs.faultCause = .none ∧ t.trs.unflushed = s.trs.unflushed ∧ t.trs.destIndex = s.trs.destIndex ∧
        t.trs.passCount = s.trs.passCount ∧ t.trs.inflow = s.trs.inflow ∧ t.trs.flush = s.trs.flush ∧
        t.trs.ownStop = s.trs.ownStop ∧ t.trs.phase = 0 ∧ t.trs.retry = none ∧ t.act = s.act ∧ t.cle = s.cle ∧
        s.tellsTrain t 0 .stopped .none .none .none ⟨0, 0⟩) ∧
      (s.trs.state ≠ .fault → exec .trainClear s = .next (s.answered [3, 5] false false)) ∧
      (∀ u, s.setup.train = some u → ∀ x, s.setup.station = some x → stoppable s.trs.state = true → s.trs.inflow = none →
        (∀ c ∈ s.cle.list, c.state ≠ .closing) →
        (createRefusal s ⟨.draw, .flush, u.flushTank, 4, u.flushVolume, x.wait, u.flushPath, .train⟩ = none →
          s.cle.nextSeq < 256 → ∃ t, exec .trainStop s = .next t ∧ t.trs.state = .stopping ∧ t.trs.flushResult = .pending ∧ ∃ q,
            s.makes t ⟨.draw, .flush, u.flushTank, 4, u.flushVolume, x.wait, u.flushPath, .train⟩ q ∧
            t.trs.flush = some q) ∧
        (createRefusal s ⟨.draw, .flush, u.flushTank, 4, u.flushVolume, x.wait, u.flushPath, .train⟩ ≠ none →
          ∃ t, exec .trainStop s = .next t ∧ t.cle = s.cle ∧
            ((t.trs.state = .stopping ∧ t.trs.flushResult = .failed) ∨
              (t.trs.state = .stopped ∧ t.trs.unflushed = true ∧ t.trs.flushResult = .none)))))) ∧
  (∀ (q : Nat) (reason : EndReason) (s : State),
    (s.trs.flush ≠ some q → trainOutcome q .flush reason s = s) ∧
    (s.trs.flush = some q →
      (s.trs.state ≠ .stopping → trainOutcome q .flush reason s = { s with trs := { s.trs with flush := none } }) ∧
      (s.trs.state = .stopping →
        (s.travelOf .feed ≠ .closed ∨ s.travelOf .highpress ≠ .closed →
          trainOutcome q .flush reason s = { s with trs := { s.trs with
            flush := none
            flushResult := if reason = .done then .done else .failed } }) ∧
        (s.travelOf .feed = .closed → s.travelOf .highpress = .closed → ∀ t, t = trainOutcome q .flush reason s →
          t.trs.state = .stopped ∧ t.trs.flush = none ∧ t.trs.flushResult = .none ∧ t.trs.stopCause = .none ∧
          (t.trs.unflushed = true ↔ reason ≠ .done) ∧ t = { s with trs := t.trs, port := t.port } ∧
          s.tells t 0 (.train .stopping .stopped .none .none .none ⟨0, 0⟩ (decide (reason ≠ .done)))))))

/-! ## Automatic fill -/

/-- Automatic fill (R122 to R126). FILL_RETRY_EXPIRY: no attempt where R123's conditions fail; IDLE where less than a litre is wanted; the first
eligible source with the volume wanted, else the one with the largest figure of at least 100 L, the earlier of equals; else WAITING; with the
claim made FILLING, and refused WAITING, on NO-TANK and BAD-PATH with the source passed over for 50 rounds. An attempt at a level event that
enters BELOW is the same one; a level that leaves BELOW ends WAITING. The outcome of the claim (R126). The Tank Manager's timers at a boundary
(R109, R119, R122) of either kind, and when an attempt is due at it: that R123's conditions are those before the boundary's claim events is the
model's choice (assumption log 10, DESIGN CHOICE). -/
def Obligations.FillAttempts : Prop :=
  (∀ (i : Nat) (rest : List Due) (s : State), s.dueNext (.fillRetry i) rest → i < 2 →
    (∀ b, b ≠ WindowState.below →
      exec (.fillRetryExpiry i) s = .next (fillEvent i b .below { s with due := rest }) ∧
      (fillEvent i .below b s).tankOf i = { s.tankOf i with
        retry := 0
        fill := if (s.tankOf i).fill = .waiting then .idle else (s.tankOf i).fill }) ∧
    (¬ s.attempts i → exec (.fillRetryExpiry i) s = .next { s with due := rest }) ∧
    (s.attempts i →
      ((s.plan i).fillTarget ≤ (s.levelCh i).accepted → ∃ t, exec (.fillRetryExpiry i) s = .next t ∧
        t = { s with tkm := t.tkm, due := rest } ∧ t.tankOf i = { s.tankOf i with retry := 50, fill := .idle }) ∧
      (∀ w, w = (s.plan i).fillTarget - (s.levelCh i).accepted → 1 ≤ w → ∀ f, s.fillSetup i = some f →
        ((∀ k, k < f.sources.length → ∀ src, f.sources[k]? = some src → ∀ v, s.sourceGives i k src v → v < w ∧ v < 100) →
          ∃ t, exec (.fillRetryExpiry i) s = .next t ∧ t = { s with tkm := t.tkm, due := rest } ∧
            t.tankOf i = { s.tankOf i with retry := 50, fill := .waiting }) ∧
        (∀ k, k < f.sources.length → ∀ src, f.sources[k]? = some src → ∀ v, s.sourceGives i k src v →
          (w ≤ v ∧ (∀ j, j < k → ∀ other, f.sources[j]? = some other → ∀ u, s.sourceGives i j other u → u < w)) ∨
          (100 ≤ v ∧ ∀ j, j < f.sources.length → ∀ other, f.sources[j]? = some other → ∀ u, s.sourceGives i j other u →
            u < w ∧ u ≤ v ∧ (j < k → u < v)) →
          ∀ n, n = (⟨.transfer, .fillInlet i, src.tank, s.fillClass i, min v w, s.defaultWait, src.path, .fill⟩ : NewClaim) →
          (createRefusal s n = none → s.cle.nextSeq < 256 → ∃ t, exec (.fillRetryExpiry i) s = .next t ∧
            t = { s with cle := t.cle, bc := t.bc, tkm := t.tkm, due := rest } ∧
            t.tankOf i = { s.tankOf i with retry := 50, fill := .filling, live := some k } ∧ ∃ q, s.makes t n q) ∧
          (createRefusal s n = some .noTank ∨ createRefusal s n = some .badPath → ∃ t, exec (.fillRetryExpiry i) s = .next t ∧
            t = { s with tkm := t.tkm, due := rest } ∧
            t.tankOf i = { s.tankOf i with retry := 50, fill := .waiting, skips := put (s.tankOf i).skips k 50 }) ∧
          (createRefusal s n ≠ none → createRefusal s n ≠ some .noTank → createRefusal s n ≠ some .badPath →
            ∃ t, exec (.fillRetryExpiry i) s = .next t ∧ t = { s with tkm := t.tkm, due := rest } ∧
              t.tankOf i = { s.tankOf i with retry := 50, fill := .waiting }))))) ∧
  (∀ (c : Claim) (i : Nat) (reason : EndReason) (s : State), c.creator = .fill → c.target = .fillInlet i → i < 2 →
    (∀ k, (s.tankOf i).live = some k → ∀ t, t = handOutcome c reason s →
      t.tankOf i = { s.tankOf i with
        fill := .idle
        live := none
        skips := if reason = .failed ∨ reason = .timeout ∨ reason = .revoked then put (s.tankOf i).skips k 50
          else (s.tankOf i).skips } ∧
      t.tankOf (1 - i) = s.tankOf (1 - i) ∧ t = { s with tkm := t.tkm })) ∧
  (∀ (row : Instr) (permit : Bool) (s : State), s.atBoundary row permit → ∃ t, exec row s = .next t ∧
    t.tkm.memory = s.tkm.memory.map (fun m => { m with timer := m.timer - 1 }) ∧
    t.tkm.waits = s.tkm.waits.map (fun w => { w with fresh := false }) ∧
    ∀ i, i < 2 → (t.tankOf i).retry = (s.tankOf i).retry - 1 ∧ (t.tankOf i).grants = (s.tankOf i).grants ∧
      (t.tankOf i).fill = (s.tankOf i).fill ∧ (t.tankOf i).live = (s.tankOf i).live ∧
      (∀ k, k < 3 → look (t.tankOf i).skips 0 k = look (s.tankOf i).skips 0 k - 1) ∧
      (.fillRetry i ∈ t.due ↔ (t.tankOf i).retry = 0 ∧ t.attempts i))

/-! ## Plans -/

/-- PLAN-WRITE (R182): BUSY while a swap is pending, BAD-ARG for a tank not set up, else the standby entry is replaced whole.
PLAN_EXCHANGE (R185): the banks exchange roles with their entries unchanged, the generation rises by one, the flag clears, and a
PLAN report is made; without a pending swap, or outside JOINED and HOLDING, nothing happens. The exchange is due at a boundary of either kind
exactly when a swap is pending. An own good MARK with DORMANT waiting for its end (R13) is a boundary too: the banks exchange, and DORMANT
follows. So they do at a boundary in the millisecond in which the grace ends; that the boundary comes first there is the model's choice
(assumption log 4, DESIGN CHOICE). That the PLAN record has the ring's last place where WINDOW records of cause SWAP are made beside it is the
model's choice too (assumption log 32, DESIGN CHOICE). -/
def Obligations.PlansChange : Prop :=
  (∀ (i : Nat) (e : PlanEntry) (s : State), s.ready → s.bc.busState = .joined →
    (s.pls.pending = true → exec (.planWrite i e) s = .next (s.answered [1] false false)) ∧
    (s.pls.pending = false → s.hasTank i = false → exec (.planWrite i e) s = .next (s.answered [5] false false)) ∧
    (s.pls.pending = false → s.hasTank i = true → ∃ t : State, exec (.planWrite i e) s = .next (t.answered [0] false false) ∧
      t = { s with pls := t.pls } ∧ t.pls.active = s.pls.active ∧ t.pls.generation = s.pls.generation ∧
      t.pls.pending = false ∧ t.pls.entries s.pls.active = s.pls.entries s.pls.active ∧ t.standby i = e ∧
      ∀ j, j ≠ i → t.standby j = s.standby j)) ∧
  (∀ (rest : List Due) (s : State), s.dueNext .planExchange rest →
    (s.pls.pending = true → s.serving = true → ∃ t, exec .planExchange s = .next t ∧ t.due = rest ∧
      t.pls = { s.pls with active := otherBank s.pls.active, generation := s.pls.generation + 1, pending := false } ∧
      (s.port.ring.length < 32 → ∃ x ∈ t.port.ring, x.round = s.bc.round ∧
        x.body = .plan (otherBank s.pls.active) (s.pls.generation + 1)) ∧
      t.setup = s.setup ∧ t.roster = s.roster ∧ t.nwt = s.nwt ∧ t.fsc = s.fsc ∧ t.ila = s.ila) ∧
    (s.pls.pending = false ∨ s.serving = false → exec .planExchange s = .next { s with due := rest })) ∧
  (∀ (permit : Bool) (s : State), s.ready → s.serving = true →
    (s.graceEnds 104 = false → ∃ t, exec (.localRoundTimer permit) s = .next t ∧ t.pls = s.pls ∧
      (.planExchange ∈ t.due ↔ s.pls.pending = true)) ∧
    (∀ (frame : List Byte) (ms : Nat) (r : Word) (a : Nat), readMark frame = some (r, a) → s.graceEnds ms = false →
      (a = s.ident.address → s.bc.line = some (.mark r) ∧ s.bc.dormantNext = false) →
      ∃ t, exec (.validMark frame ms permit) s = .next t ∧ t.pls = s.pls ∧ (.planExchange ∈ t.due ↔ s.pls.pending = true)) ∧
    (∀ (frame : List Byte) (ms : Nat) (r : Word), readMark frame = some (r, s.ident.address) → s.bc.line = some (.mark r) →
      s.bc.dormantNext = true → s.pls.pending = true →
      ∃ t, exec (.validMark frame ms permit) s = .next t ∧ t.bc.busState = .dormant ∧
        t.pls = { s.pls with active := otherBank s.pls.active, generation := s.pls.generation + 1, pending := false }) ∧
    (∀ (frame : List Byte) (ms c : Nat) (r : Word) (a : Nat), readMark frame = some (r, a) → a ≠ s.ident.address →
      s.failing = true → s.bc.line = none → s.bc.clock = some c → s.port.supplyTimer < 2000 →
      s.port.supplyTimer + (ms - c) = 2000 → s.pls.pending = true →
      ∃ t u, exec (.validMark frame ms permit) s = .next t ∧ t.bc.busState = .holding ∧ exec .supplyGraceExpiry t = .next u ∧
        u.bc.busState = .dormant ∧
        u.pls = { s.pls with active := otherBank s.pls.active, generation := s.pls.generation + 1, pending := false }))

/-- PLAN-SWAP (R183, Table 10-3): BUSY while one is pending; the first failing check, tank 0 before tank 1, in whole numbers; else the
flag is set. -/
def Obligations.PlanSwaps : Prop :=
  ∀ (s : State) (fails : Nat → PlanReason → Prop), s.ready → s.bc.busState = .joined →
    (∀ i r, fails i r ↔ ∃ u, s.tankSetup i = some u ∧ ∃ ok : PlanReason → Prop,
      (ok .floorOrder ↔ (s.standby i).floor.c1 ≤ (s.standby i).floor.c2 ∧ (s.standby i).floor.c2 ≤ (s.standby i).floor.c3 ∧
        (s.standby i).floor.c3 ≤ (s.standby i).floor.c4 ∧ (s.standby i).floor.c4 ≤ (s.standby i).floor.c5) ∧
      (ok .floorHigh ↔ (s.standby i).floor.c5 < u.capacity) ∧
      (ok .marks ↔ ((s.standby i).low : Int) + (s.standby i).hysteresis ≤
        ((s.standby i).high : Int) - (s.standby i).hysteresis) ∧
      (ok .topMargin ↔ (s.standby i).topMargin < u.capacity) ∧
      (ok .fillTarget ↔ ((s.standby i).fillTarget : Int) ≤ (u.capacity : Int) - (s.standby i).topMargin) ∧
      ¬ok r ∧ ∀ q, planCode q < planCode r → ok q) →
    (s.pls.pending = true → exec .planSwap s = .next (s.answered [1] false false)) ∧
    (s.pls.pending = false → ∀ r, fails 0 r →
      exec .planSwap s = .next (s.answered [3, byteOf (planCode r), 0] false false)) ∧
    (s.pls.pending = false → (∀ r, ¬fails 0 r) → ∀ r, fails 1 r →
      exec .planSwap s = .next (s.answered [3, byteOf (planCode r), 1] false false)) ∧
    (s.pls.pending = false → (∀ r, ¬fails 0 r) → (∀ r, ¬fails 1 r) →
      exec .planSwap s = .next ({ s with pls := { s.pls with pending := true } }.answered [0] false false))

/-- PLAN-READ (R181): the ten fields of the named bank's entry, whether the bank is active, the generation and the flag; BAD-ARG for a
tank not set up; no state changes but the port's; an exchange moves no value between banks. The bytes of the answer are R204's and the model's
reading of the order the rule lists (assumption log 12, DEDUCED). -/
def Obligations.PlanReads : Prop :=
  (∀ (k : Bank) (i : Nat) (s : State), s.ready → s.hearing = true →
    (s.hasTank i = false → exec (.planRead k i) s = .next (s.answered [5] false false)) ∧
    (∀ e, s.hasTank i = true → look (s.pls.entries k) none i = some e → exec (.planRead k i) s = .next (s.answered
      ([0] ++ [e.floor.c1, e.floor.c2, e.floor.c3, e.floor.c4, e.floor.c5, e.low, e.high, e.hysteresis, e.fillTarget,
          e.topMargin].flatMap b2 ++ [boolByte (s.pls.active == k), hiByte s.pls.generation, loByte s.pls.generation,
          boolByte s.pls.pending]) false false))) ∧
  (∀ (p : Plans) (k : Bank), (exchange p).entries k = p.entries k)

/-! ## The local port -/

/-- SEL and the clocked bytes (R189). The last response byte of REPORT-TAKE takes the record out, and ATTN-MASK replaces the mask
whole (R194). That SEL_FALL in a transaction and REPORT_TAKE_COMPLETE with nothing being taken do nothing is the model's choice
(assumption log 18, DESIGN CHOICE). -/
def Obligations.PortTransactions : Prop :=
  (∀ s : State, s.ready →
    (s.port.txn = .idle → exec .selFall s = .next { s with port := { s.port with
      txn := .code, code := 0, length := 0, args := [], fillers := 0, answer := [], left := [], sdo := 255, restart := false,
      taking := false } }) ∧
    (s.port.txn ≠ .idle → exec .selFall s = .next s) ∧
    (s.port.restart = false → exec .selRise s = .next { s with port := { s.port with
      txn := .idle, code := 0, length := 0, args := [], fillers := 0, answer := [], left := [], sdo := 255, restart := false,
      taking := false } }) ∧
    (∀ (x : Byte) (permit : Bool),
      (s.port.txn = .idle → exec (.portByteClocked x permit) s = .next s) ∧
      (s.port.txn = .code → exec (.portByteClocked x permit) s =
        .next { s with port := { s.port with txn := .length, code := x, sdo := 255 } }) ∧
      (s.port.txn = .length → x ≠ 0 → exec (.portByteClocked x permit) s =
        .next { s with port := { s.port with txn := .arguments, length := x, sdo := 255 } }) ∧
      (s.port.txn = .arguments → s.port.args.length + 1 ≠ s.port.length.toNat → exec (.portByteClocked x permit) s =
        .next { s with port := { s.port with args := s.port.args ++ [x], sdo := 255 } }) ∧
      (s.port.txn = .arguments → s.port.args.length + 1 = s.port.length.toNat → exec (.portByteClocked x permit) s =
        .next (takeRequest (requestOf s.port.code.toNat (s.port.args ++ [x]) permit)
          { s with port := { s.port with args := s.port.args ++ [x], sdo := 255 } })) ∧
      (s.port.txn = .length → x = 0 → exec (.portByteClocked x permit) s =
        .next (takeRequest (requestOf s.port.code.toNat [] permit)
          { s with port := { s.port with txn := .arguments, length := 0, sdo := 255 } })) ∧
      (s.port.txn = .taking → s.port.fillers = 0 → exec (.portByteClocked x permit) s =
        .next { s with port := { s.port with fillers := 1, sdo := 255 } }) ∧
      (s.port.txn = .taking → s.port.fillers = 1 → exec (.portByteClocked x permit) s =
        .next { s with port := { s.port with txn := .answering, fillers := 2, sdo := 255 } }) ∧
      (s.port.txn = .answering → s.port.left = [] → exec (.portByteClocked x permit) s =
        .next { s with port := { s.port with sdo := 255 } }) ∧
      (∀ b more, s.port.txn = .answering → s.port.left = b :: more → more ≠ [] ∨ s.port.taking = false →
        exec (.portByteClocked x permit) s = .next { s with port := { s.port with sdo := b, left := more } }))) ∧
  (∀ s : State, s.ready →
    (s.port.taking = true → exec .reportTakeComplete s = .next { s with port := { s.port with
      ring := s.port.ring.tail, taking := false, left := [], txn := .answering } }) ∧
    (s.port.taking = false → exec .reportTakeComplete s = .next s) ∧
    (∀ b x permit, s.port.txn = .answering → s.port.left = [b] → s.port.taking = true →
      exec (.portByteClocked x permit) s = .next { s with port := { s.port with
        sdo := b, left := [], ring := s.port.ring.tail, taking := false } }) ∧
    (∀ m, s.bc.busState ≠ .dormant →
      exec (.attnMask m) s = .next ({ s with port := { s.port with mask := m } }.answered [0] false false)))

/-- A request that Table 11-1 does not allow is answered BAD-STATE and passed to no block (R190). -/
def Obligations.RequestsOutOfState : Prop :=
  ∀ (c : Instr) (r : Request) (s : State), s.ready → requestRow c = some r →
    ((s.bc.busState ≠ .offline ∧ (r = .run ∨ ∃ item inst l, r = .setupWrite item inst l)) ∨
      (s.bc.busState = .dormant ∧ (r = .reportTake ∨ ∃ m, r = .attnMask m)) ∨
      ((s.bc.busState = .offline ∨ s.bc.busState = .dormant) ∧
        ((∃ a, r = .nwtRead a) ∨ r = .claimRead ∨ (∃ i, r = .grantRead i) ∨ ∃ k i, r = .planRead k i)) ∨
      (s.bc.busState ≠ .joined ∧
        ((∃ p i k v w g, r = .draw p i k v w g) ∨ (∃ i b v g, r = .fill i b v g) ∨ (∃ q, r = .stopClaim q) ∨
          (∃ p, r = .trainStart p) ∨ r = .trainStop ∨ r = .trainClear ∨ (∃ i e, r = .planWrite i e) ∨ r = .planSwap))) →
    exec c s = .next (s.answered [4] false false)

/-- The requests that only read (R103, R181, R190, R191, R194, R199): their answers, and nothing but the port changes. RESTART is taken and
waits for SEL's rise; a bad request is answered BAD-ARG. The order of an answer's bytes and of a record's is the model's reading (assumption logs
12 and 13, DEDUCED). -/
def Obligations.RequestsThatRead : Prop :=
  ∀ s : State, s.ready →
    exec .status s = .next (s.answered (0 :: statusBytes s) false false) ∧
    exec .restart s = .next (s.answered [0] true false) ∧
    exec .badRequest s = .next (s.answered [5] false false) ∧
    (s.hearing = true →
      (∀ a, exec (.nwtRead a) s = .next (s.answered (if 1 ≤ a ∧ a ≤ 24 then 0 :: nwtBytes s a else [5]) false false)) ∧
      exec .claimRead s =
        .next (s.answered (0 :: byteOf s.cle.list.length :: s.cle.list.flatMap claimBytes) false false) ∧
      (∀ i, exec (.grantRead i) s =
        .next (s.answered (if s.hasTank i then 0 :: grantReadBytes s i else [5]) false false))) ∧
    (s.bc.busState ≠ .dormant →
      (s.port.ring = [] → exec .reportTake s = .next (s.answered [0, 0] false false)) ∧
      (∀ r more, s.port.ring = r :: more →
        exec .reportTake s = .next (s.answered (0 :: 1 :: reportBytes r) false true)))

/-- SETUP-WRITE in OFFLINE (R195, Tables 11-2 and 12-9): for each item and instance, a content in range replaces the instance whole and is
answered OK, and any other is answered BAD-ARG; so is an unknown item or instance. What is in range beside Table 11-2 (role indices, yes-no bytes,
unused bytes, the instance of an item without instances) is assumption log 21. A length that the counts do not require is BAD-ARG in every bus
state (R204), and no other command but RUN and the resets touches the setup. -/
def Obligations.SetupIsWritten : Prop :=
  (∀ s : State, s.ready → s.bc.busState = .offline →
    s.itemIs 1 0 (fun x : StationItem => 1 ≤ x.p ∧ x.p ≤ 4 ∧ 10 ≤ x.wait ∧ x.wait ≤ 3000)
      (fun x => b1 x.p ++ b2 x.wait) (fun x => { s.setup with station := some x }) ∧
    (∀ i, i < 2 → s.itemIs 2 (byteOf i) (fun x : TankSetup => 500 ≤ x.capacity ∧ x.capacity ≤ 65000 ∧ 1 ≤ x.weight ∧ x.weight ≤ 50)
      (fun x => b2 x.capacity ++ b1 x.weight) (fun x => { s.setup with tanks := put s.setup.tanks i (some x) })) ∧
    (∀ i, i < 2 → s.itemIs 3 (byteOf i) (fun x : Nat => 1 ≤ x ∧ x ≤ 50) b1
      (fun x => { s.setup with ports := put s.setup.ports i (some x) })) ∧
    (∀ i, i < 4 → s.itemIs 4 (byteOf i) (fun _ : Unit => True) (fun _ => [])
      (fun _ => { s.setup with segments := put s.setup.segments i true })) ∧
    s.itemIs 5 0 rightTrain trainItemBytes (fun x => { s.setup with train := some x }) ∧
    s.itemIs 6 0 (fun l : List Source => 1 ≤ l.length ∧ l.length ≤ 3 ∧ ∀ x ∈ l, rightSource x) (encList sourceBytes)
      (fun l => { s.setup with destinations := l }) ∧
    (∀ i, i < 12 → s.itemIs 7 (byteOf i) rightActuator actuatorBytes
      (fun x => { s.setup with actuators := put s.setup.actuators i (some x) })) ∧
    s.itemIs 8 0 (fun v : Vector (ContactSetup × Byte) 32 => ∀ x ∈ v.toList, rightContact x) (fun v => v.toList.flatMap contactItemBytes)
      (fun v => { s.setup with contacts := v.map (·.1) }) ∧
    (∀ i, i < 8 → s.itemIs 9 (byteOf i) rightProgram programBytes
      (fun x => { s.setup with cells := put s.setup.cells i (some x.1) })) ∧
    (∀ i, i < 2 → s.itemIs 10 (byteOf i) rightLevel levelBytes
      (fun x => { s.setup with levels := put s.setup.levels i (some x) })) ∧
    s.itemIs 10 2 rightQuality qualityBytes (fun x => { s.setup with quality := some x }) ∧
    (∀ i, i < 2 → s.itemIs 11 (byteOf i) rightFill fillBytes (fun x => { s.setup with fills := put s.setup.fills i (some x) })) ∧
    (∀ (item inst : Byte) (l : List Byte), [1, 2, 2, 4, 1, 1, 12, 1, 8, 3, 2].getD (item.toNat - 1) 0 ≤ inst.toNat ∨ item = 0 →
      exec (.setupWrite item inst l) s = .next (s.answered [5] false false))) ∧
  (∀ (item inst : Byte) (l : List Byte) (s : State), s.ready → itemShape item.toNat inst.toNat l = false →
    exec (.setupWrite item inst l) s = .next (s.answered [5] false false)) ∧
  (∀ (c : Instr) (s t : State), writesSetup c = false → exec c s = .next t → t.setup = s.setup)

/-- RUN (R196): refused with the first failing test of Table 11-3 and nothing changed, the reason's code after R204 and the item and instance
after assumption log 22; else the setup is locked and the station starts in LISTEN with a count of 4. -/
def Obligations.RunStarts : Prop :=
  (∀ s : State, s.ready → s.bc.busState = .offline →
    (∀ k, k < runOrder.length → ∀ f, runOrder[k]? = some f → s.failsTest f →
      (∀ j, j < k → ∀ g, runOrder[j]? = some g → ¬ s.failsTest g) →
      exec .run s = .next (s.answered [3, byteOf (runCode f.reason), byteOf f.item, byteOf f.inst] false false)) ∧
    ((∀ f ∈ runOrder, ¬ s.failsTest f) → ∃ t, exec .run s = .next t ∧ t.setup = { s.setup with locked := true } ∧
      t.bc = { s.bc with busState := .listen, listenCount := 4, clash := false } ∧ t.fsc = Scanner.initial ∧
      t.pls = Plans.atRun s.setup.tanks ∧ t.port.answer = [0] ∧ t.ident = s.ident ∧ t.roster = s.roster ∧ t.nwt = s.nwt ∧
      (s.nothingHeld → t.safeActuators))) ∧
  ([RunReason.badAddress, .noStation, .noChannel, .table, .trainParts, .noActuator, .role, .noCell, .contactMap, .cell,
    .fillSources, .badPath].map runCode = [11, 12, 13, 14, 15, 16, 17, 18, 19, 20, 21, 2])

/-! ## Layouts -/

/-- Frames read back (Tables 12-1 to 12-4, R5): a MARK gives its round number and its sender; a station frame whose fields fit their
layouts is the frame sent. -/
def Obligations.FramesReadBack : Prop :=
  (∀ (r : Word) (a : Nat), 1 ≤ a → a ≤ 24 → readMark (encMark r a) = some (r, a)) ∧
  (∀ f : StationFrame, f.wf = true → readFrame (encFrame f) = some f)

end
end

