-- ==== Sys2Proof/Laws/State.lean ====
section
/-!
SUPPORT. One lemma per part of State per replacement: the part replaced reads as given, every other reads as before.
-/

namespace Sys2Proof.Machine

@[simp] theorem State.setSetup_setup (s : State) (x : Setup) : (s.setSetup x).setup = x := rfl
@[simp] theorem State.setSetup_ident (s : State) (x : Setup) : (s.setSetup x).ident = s.ident := rfl
@[simp] theorem State.setSetup_pins (s : State) (x : Setup) : (s.setSetup x).pins = s.pins := rfl
@[simp] theorem State.setSetup_bc (s : State) (x : Setup) : (s.setSetup x).bc = s.bc := rfl
@[simp] theorem State.setSetup_roster (s : State) (x : Setup) : (s.setSetup x).roster = s.roster := rfl
@[simp] theorem State.setSetup_nwt (s : State) (x : Setup) : (s.setSetup x).nwt = s.nwt := rfl
@[simp] theorem State.setSetup_mch (s : State) (x : Setup) : (s.setSetup x).mch = s.mch := rfl
@[simp] theorem State.setSetup_fsc (s : State) (x : Setup) : (s.setSetup x).fsc = s.fsc := rfl
@[simp] theorem State.setSetup_act (s : State) (x : Setup) : (s.setSetup x).act = s.act := rfl
@[simp] theorem State.setSetup_cle (s : State) (x : Setup) : (s.setSetup x).cle = s.cle := rfl
@[simp] theorem State.setSetup_tkm (s : State) (x : Setup) : (s.setSetup x).tkm = s.tkm := rfl
@[simp] theorem State.setSetup_sga (s : State) (x : Setup) : (s.setSetup x).sga = s.sga := rfl
@[simp] theorem State.setSetup_trs (s : State) (x : Setup) : (s.setSetup x).trs = s.trs := rfl
@[simp] theorem State.setSetup_ila (s : State) (x : Setup) : (s.setSetup x).ila = s.ila := rfl
@[simp] theorem State.setSetup_pls (s : State) (x : Setup) : (s.setSetup x).pls = s.pls := rfl
@[simp] theorem State.setSetup_port (s : State) (x : Setup) : (s.setSetup x).port = s.port := rfl
@[simp] theorem State.setSetup_due (s : State) (x : Setup) : (s.setSetup x).due = s.due := rfl
@[simp] theorem State.setSetup_pending (s : State) (x : Setup) : (s.setSetup x).pending = s.pending := rfl

@[simp] theorem State.setIdent_setup (s : State) (x : Ident) : (s.setIdent x).setup = s.setup := rfl
@[simp] theorem State.setIdent_ident (s : State) (x : Ident) : (s.setIdent x).ident = x := rfl
@[simp] theorem State.setIdent_pins (s : State) (x : Ident) : (s.setIdent x).pins = s.pins := rfl
@[simp] theorem State.setIdent_bc (s : State) (x : Ident) : (s.setIdent x).bc = s.bc := rfl
@[simp] theorem State.setIdent_roster (s : State) (x : Ident) : (s.setIdent x).roster = s.roster := rfl
@[simp] theorem State.setIdent_nwt (s : State) (x : Ident) : (s.setIdent x).nwt = s.nwt := rfl
@[simp] theorem State.setIdent_mch (s : State) (x : Ident) : (s.setIdent x).mch = s.mch := rfl
@[simp] theorem State.setIdent_fsc (s : State) (x : Ident) : (s.setIdent x).fsc = s.fsc := rfl
@[simp] theorem State.setIdent_act (s : State) (x : Ident) : (s.setIdent x).act = s.act := rfl
@[simp] theorem State.setIdent_cle (s : State) (x : Ident) : (s.setIdent x).cle = s.cle := rfl
@[simp] theorem State.setIdent_tkm (s : State) (x : Ident) : (s.setIdent x).tkm = s.tkm := rfl
@[simp] theorem State.setIdent_sga (s : State) (x : Ident) : (s.setIdent x).sga = s.sga := rfl
@[simp] theorem State.setIdent_trs (s : State) (x : Ident) : (s.setIdent x).trs = s.trs := rfl
@[simp] theorem State.setIdent_ila (s : State) (x : Ident) : (s.setIdent x).ila = s.ila := rfl
@[simp] theorem State.setIdent_pls (s : State) (x : Ident) : (s.setIdent x).pls = s.pls := rfl
@[simp] theorem State.setIdent_port (s : State) (x : Ident) : (s.setIdent x).port = s.port := rfl
@[simp] theorem State.setIdent_due (s : State) (x : Ident) : (s.setIdent x).due = s.due := rfl
@[simp] theorem State.setIdent_pending (s : State) (x : Ident) : (s.setIdent x).pending = s.pending := rfl

@[simp] theorem State.setPins_setup (s : State) (x : Pins) : (s.setPins x).setup = s.setup := rfl
@[simp] theorem State.setPins_ident (s : State) (x : Pins) : (s.setPins x).ident = s.ident := rfl
@[simp] theorem State.setPins_pins (s : State) (x : Pins) : (s.setPins x).pins = x := rfl
@[simp] theorem State.setPins_bc (s : State) (x : Pins) : (s.setPins x).bc = s.bc := rfl
@[simp] theorem State.setPins_roster (s : State) (x : Pins) : (s.setPins x).roster = s.roster := rfl
@[simp] theorem State.setPins_nwt (s : State) (x : Pins) : (s.setPins x).nwt = s.nwt := rfl
@[simp] theorem State.setPins_mch (s : State) (x : Pins) : (s.setPins x).mch = s.mch := rfl
@[simp] theorem State.setPins_fsc (s : State) (x : Pins) : (s.setPins x).fsc = s.fsc := rfl
@[simp] theorem State.setPins_act (s : State) (x : Pins) : (s.setPins x).act = s.act := rfl
@[simp] theorem State.setPins_cle (s : State) (x : Pins) : (s.setPins x).cle = s.cle := rfl
@[simp] theorem State.setPins_tkm (s : State) (x : Pins) : (s.setPins x).tkm = s.tkm := rfl
@[simp] theorem State.setPins_sga (s : State) (x : Pins) : (s.setPins x).sga = s.sga := rfl
@[simp] theorem State.setPins_trs (s : State) (x : Pins) : (s.setPins x).trs = s.trs := rfl
@[simp] theorem State.setPins_ila (s : State) (x : Pins) : (s.setPins x).ila = s.ila := rfl
@[simp] theorem State.setPins_pls (s : State) (x : Pins) : (s.setPins x).pls = s.pls := rfl
@[simp] theorem State.setPins_port (s : State) (x : Pins) : (s.setPins x).port = s.port := rfl
@[simp] theorem State.setPins_due (s : State) (x : Pins) : (s.setPins x).due = s.due := rfl
@[simp] theorem State.setPins_pending (s : State) (x : Pins) : (s.setPins x).pending = s.pending := rfl

@[simp] theorem State.setBc_setup (s : State) (x : BusCtl) : (s.setBc x).setup = s.setup := rfl
@[simp] theorem State.setBc_ident (s : State) (x : BusCtl) : (s.setBc x).ident = s.ident := rfl
@[simp] theorem State.setBc_pins (s : State) (x : BusCtl) : (s.setBc x).pins = s.pins := rfl
@[simp] theorem State.setBc_bc (s : State) (x : BusCtl) : (s.setBc x).bc = x := rfl
@[simp] theorem State.setBc_roster (s : State) (x : BusCtl) : (s.setBc x).roster = s.roster := rfl
@[simp] theorem State.setBc_nwt (s : State) (x : BusCtl) : (s.setBc x).nwt = s.nwt := rfl
@[simp] theorem State.setBc_mch (s : State) (x : BusCtl) : (s.setBc x).mch = s.mch := rfl
@[simp] theorem State.setBc_fsc (s : State) (x : BusCtl) : (s.setBc x).fsc = s.fsc := rfl
@[simp] theorem State.setBc_act (s : State) (x : BusCtl) : (s.setBc x).act = s.act := rfl
@[simp] theorem State.setBc_cle (s : State) (x : BusCtl) : (s.setBc x).cle = s.cle := rfl
@[simp] theorem State.setBc_tkm (s : State) (x : BusCtl) : (s.setBc x).tkm = s.tkm := rfl
@[simp] theorem State.setBc_sga (s : State) (x : BusCtl) : (s.setBc x).sga = s.sga := rfl
@[simp] theorem State.setBc_trs (s : State) (x : BusCtl) : (s.setBc x).trs = s.trs := rfl
@[simp] theorem State.setBc_ila (s : State) (x : BusCtl) : (s.setBc x).ila = s.ila := rfl
@[simp] theorem State.setBc_pls (s : State) (x : BusCtl) : (s.setBc x).pls = s.pls := rfl
@[simp] theorem State.setBc_port (s : State) (x : BusCtl) : (s.setBc x).port = s.port := rfl
@[simp] theorem State.setBc_due (s : State) (x : BusCtl) : (s.setBc x).due = s.due := rfl
@[simp] theorem State.setBc_pending (s : State) (x : BusCtl) : (s.setBc x).pending = s.pending := rfl

@[simp] theorem State.setRoster_setup (s : State) (x : Vector RosterEntry 24) : (s.setRoster x).setup = s.setup := rfl
@[simp] theorem State.setRoster_ident (s : State) (x : Vector RosterEntry 24) : (s.setRoster x).ident = s.ident := rfl
@[simp] theorem State.setRoster_pins (s : State) (x : Vector RosterEntry 24) : (s.setRoster x).pins = s.pins := rfl
@[simp] theorem State.setRoster_bc (s : State) (x : Vector RosterEntry 24) : (s.setRoster x).bc = s.bc := rfl
@[simp] theorem State.setRoster_roster (s : State) (x : Vector RosterEntry 24) : (s.setRoster x).roster = x := rfl
@[simp] theorem State.setRoster_nwt (s : State) (x : Vector RosterEntry 24) : (s.setRoster x).nwt = s.nwt := rfl
@[simp] theorem State.setRoster_mch (s : State) (x : Vector RosterEntry 24) : (s.setRoster x).mch = s.mch := rfl
@[simp] theorem State.setRoster_fsc (s : State) (x : Vector RosterEntry 24) : (s.setRoster x).fsc = s.fsc := rfl
@[simp] theorem State.setRoster_act (s : State) (x : Vector RosterEntry 24) : (s.setRoster x).act = s.act := rfl
@[simp] theorem State.setRoster_cle (s : State) (x : Vector RosterEntry 24) : (s.setRoster x).cle = s.cle := rfl
@[simp] theorem State.setRoster_tkm (s : State) (x : Vector RosterEntry 24) : (s.setRoster x).tkm = s.tkm := rfl
@[simp] theorem State.setRoster_sga (s : State) (x : Vector RosterEntry 24) : (s.setRoster x).sga = s.sga := rfl
@[simp] theorem State.setRoster_trs (s : State) (x : Vector RosterEntry 24) : (s.setRoster x).trs = s.trs := rfl
@[simp] theorem State.setRoster_ila (s : State) (x : Vector RosterEntry 24) : (s.setRoster x).ila = s.ila := rfl
@[simp] theorem State.setRoster_pls (s : State) (x : Vector RosterEntry 24) : (s.setRoster x).pls = s.pls := rfl
@[simp] theorem State.setRoster_port (s : State) (x : Vector RosterEntry 24) : (s.setRoster x).port = s.port := rfl
@[simp] theorem State.setRoster_due (s : State) (x : Vector RosterEntry 24) : (s.setRoster x).due = s.due := rfl
@[simp] theorem State.setRoster_pending (s : State) (x : Vector RosterEntry 24) : (s.setRoster x).pending = s.pending := rfl

@[simp] theorem State.setNwt_setup (s : State) (x : Vector (Option NwtEntry) 24) : (s.setNwt x).setup = s.setup := rfl
@[simp] theorem State.setNwt_ident (s : State) (x : Vector (Option NwtEntry) 24) : (s.setNwt x).ident = s.ident := rfl
@[simp] theorem State.setNwt_pins (s : State) (x : Vector (Option NwtEntry) 24) : (s.setNwt x).pins = s.pins := rfl
@[simp] theorem State.setNwt_bc (s : State) (x : Vector (Option NwtEntry) 24) : (s.setNwt x).bc = s.bc := rfl
@[simp] theorem State.setNwt_roster (s : State) (x : Vector (Option NwtEntry) 24) : (s.setNwt x).roster = s.roster := rfl
@[simp] theorem State.setNwt_nwt (s : State) (x : Vector (Option NwtEntry) 24) : (s.setNwt x).nwt = x := rfl
@[simp] theorem State.setNwt_mch (s : State) (x : Vector (Option NwtEntry) 24) : (s.setNwt x).mch = s.mch := rfl
@[simp] theorem State.setNwt_fsc (s : State) (x : Vector (Option NwtEntry) 24) : (s.setNwt x).fsc = s.fsc := rfl
@[simp] theorem State.setNwt_act (s : State) (x : Vector (Option NwtEntry) 24) : (s.setNwt x).act = s.act := rfl
@[simp] theorem State.setNwt_cle (s : State) (x : Vector (Option NwtEntry) 24) : (s.setNwt x).cle = s.cle := rfl
@[simp] theorem State.setNwt_tkm (s : State) (x : Vector (Option NwtEntry) 24) : (s.setNwt x).tkm = s.tkm := rfl
@[simp] theorem State.setNwt_sga (s : State) (x : Vector (Option NwtEntry) 24) : (s.setNwt x).sga = s.sga := rfl
@[simp] theorem State.setNwt_trs (s : State) (x : Vector (Option NwtEntry) 24) : (s.setNwt x).trs = s.trs := rfl
@[simp] theorem State.setNwt_ila (s : State) (x : Vector (Option NwtEntry) 24) : (s.setNwt x).ila = s.ila := rfl
@[simp] theorem State.setNwt_pls (s : State) (x : Vector (Option NwtEntry) 24) : (s.setNwt x).pls = s.pls := rfl
@[simp] theorem State.setNwt_port (s : State) (x : Vector (Option NwtEntry) 24) : (s.setNwt x).port = s.port := rfl
@[simp] theorem State.setNwt_due (s : State) (x : Vector (Option NwtEntry) 24) : (s.setNwt x).due = s.due := rfl
@[simp] theorem State.setNwt_pending (s : State) (x : Vector (Option NwtEntry) 24) : (s.setNwt x).pending = s.pending := rfl

@[simp] theorem State.setMch_setup (s : State) (x : Channels) : (s.setMch x).setup = s.setup := rfl
@[simp] theorem State.setMch_ident (s : State) (x : Channels) : (s.setMch x).ident = s.ident := rfl
@[simp] theorem State.setMch_pins (s : State) (x : Channels) : (s.setMch x).pins = s.pins := rfl
@[simp] theorem State.setMch_bc (s : State) (x : Channels) : (s.setMch x).bc = s.bc := rfl
@[simp] theorem State.setMch_roster (s : State) (x : Channels) : (s.setMch x).roster = s.roster := rfl
@[simp] theorem State.setMch_nwt (s : State) (x : Channels) : (s.setMch x).nwt = s.nwt := rfl
@[simp] theorem State.setMch_mch (s : State) (x : Channels) : (s.setMch x).mch = x := rfl
@[simp] theorem State.setMch_fsc (s : State) (x : Channels) : (s.setMch x).fsc = s.fsc := rfl
@[simp] theorem State.setMch_act (s : State) (x : Channels) : (s.setMch x).act = s.act := rfl
@[simp] theorem State.setMch_cle (s : State) (x : Channels) : (s.setMch x).cle = s.cle := rfl
@[simp] theorem State.setMch_tkm (s : State) (x : Channels) : (s.setMch x).tkm = s.tkm := rfl
@[simp] theorem State.setMch_sga (s : State) (x : Channels) : (s.setMch x).sga = s.sga := rfl
@[simp] theorem State.setMch_trs (s : State) (x : Channels) : (s.setMch x).trs = s.trs := rfl
@[simp] theorem State.setMch_ila (s : State) (x : Channels) : (s.setMch x).ila = s.ila := rfl
@[simp] theorem State.setMch_pls (s : State) (x : Channels) : (s.setMch x).pls = s.pls := rfl
@[simp] theorem State.setMch_port (s : State) (x : Channels) : (s.setMch x).port = s.port := rfl
@[simp] theorem State.setMch_due (s : State) (x : Channels) : (s.setMch x).due = s.due := rfl
@[simp] theorem State.setMch_pending (s : State) (x : Channels) : (s.setMch x).pending = s.pending := rfl

@[simp] theorem State.setFsc_setup (s : State) (x : Scanner) : (s.setFsc x).setup = s.setup := rfl
@[simp] theorem State.setFsc_ident (s : State) (x : Scanner) : (s.setFsc x).ident = s.ident := rfl
@[simp] theorem State.setFsc_pins (s : State) (x : Scanner) : (s.setFsc x).pins = s.pins := rfl
@[simp] theorem State.setFsc_bc (s : State) (x : Scanner) : (s.setFsc x).bc = s.bc := rfl
@[simp] theorem State.setFsc_roster (s : State) (x : Scanner) : (s.setFsc x).roster = s.roster := rfl
@[simp] theorem State.setFsc_nwt (s : State) (x : Scanner) : (s.setFsc x).nwt = s.nwt := rfl
@[simp] theorem State.setFsc_mch (s : State) (x : Scanner) : (s.setFsc x).mch = s.mch := rfl
@[simp] theorem State.setFsc_fsc (s : State) (x : Scanner) : (s.setFsc x).fsc = x := rfl
@[simp] theorem State.setFsc_act (s : State) (x : Scanner) : (s.setFsc x).act = s.act := rfl
@[simp] theorem State.setFsc_cle (s : State) (x : Scanner) : (s.setFsc x).cle = s.cle := rfl
@[simp] theorem State.setFsc_tkm (s : State) (x : Scanner) : (s.setFsc x).tkm = s.tkm := rfl
@[simp] theorem State.setFsc_sga (s : State) (x : Scanner) : (s.setFsc x).sga = s.sga := rfl
@[simp] theorem State.setFsc_trs (s : State) (x : Scanner) : (s.setFsc x).trs = s.trs := rfl
@[simp] theorem State.setFsc_ila (s : State) (x : Scanner) : (s.setFsc x).ila = s.ila := rfl
@[simp] theorem State.setFsc_pls (s : State) (x : Scanner) : (s.setFsc x).pls = s.pls := rfl
@[simp] theorem State.setFsc_port (s : State) (x : Scanner) : (s.setFsc x).port = s.port := rfl
@[simp] theorem State.setFsc_due (s : State) (x : Scanner) : (s.setFsc x).due = s.due := rfl
@[simp] theorem State.setFsc_pending (s : State) (x : Scanner) : (s.setFsc x).pending = s.pending := rfl

@[simp] theorem State.setAct_setup (s : State) (x : Vector Actuator 12) : (s.setAct x).setup = s.setup := rfl
@[simp] theorem State.setAct_ident (s : State) (x : Vector Actuator 12) : (s.setAct x).ident = s.ident := rfl
@[simp] theorem State.setAct_pins (s : State) (x : Vector Actuator 12) : (s.setAct x).pins = s.pins := rfl
@[simp] theorem State.setAct_bc (s : State) (x : Vector Actuator 12) : (s.setAct x).bc = s.bc := rfl
@[simp] theorem State.setAct_roster (s : State) (x : Vector Actuator 12) : (s.setAct x).roster = s.roster := rfl
@[simp] theorem State.setAct_nwt (s : State) (x : Vector Actuator 12) : (s.setAct x).nwt = s.nwt := rfl
@[simp] theorem State.setAct_mch (s : State) (x : Vector Actuator 12) : (s.setAct x).mch = s.mch := rfl
@[simp] theorem State.setAct_fsc (s : State) (x : Vector Actuator 12) : (s.setAct x).fsc = s.fsc := rfl
@[simp] theorem State.setAct_act (s : State) (x : Vector Actuator 12) : (s.setAct x).act = x := rfl
@[simp] theorem State.setAct_cle (s : State) (x : Vector Actuator 12) : (s.setAct x).cle = s.cle := rfl
@[simp] theorem State.setAct_tkm (s : State) (x : Vector Actuator 12) : (s.setAct x).tkm = s.tkm := rfl
@[simp] theorem State.setAct_sga (s : State) (x : Vector Actuator 12) : (s.setAct x).sga = s.sga := rfl
@[simp] theorem State.setAct_trs (s : State) (x : Vector Actuator 12) : (s.setAct x).trs = s.trs := rfl
@[simp] theorem State.setAct_ila (s : State) (x : Vector Actuator 12) : (s.setAct x).ila = s.ila := rfl
@[simp] theorem State.setAct_pls (s : State) (x : Vector Actuator 12) : (s.setAct x).pls = s.pls := rfl
@[simp] theorem State.setAct_port (s : State) (x : Vector Actuator 12) : (s.setAct x).port = s.port := rfl
@[simp] theorem State.setAct_due (s : State) (x : Vector Actuator 12) : (s.setAct x).due = s.due := rfl
@[simp] theorem State.setAct_pending (s : State) (x : Vector Actuator 12) : (s.setAct x).pending = s.pending := rfl

@[simp] theorem State.setCle_setup (s : State) (x : Claims) : (s.setCle x).setup = s.setup := rfl
@[simp] theorem State.setCle_ident (s : State) (x : Claims) : (s.setCle x).ident = s.ident := rfl
@[simp] theorem State.setCle_pins (s : State) (x : Claims) : (s.setCle x).pins = s.pins := rfl
@[simp] theorem State.setCle_bc (s : State) (x : Claims) : (s.setCle x).bc = s.bc := rfl
@[simp] theorem State.setCle_roster (s : State) (x : Claims) : (s.setCle x).roster = s.roster := rfl
@[simp] theorem State.setCle_nwt (s : State) (x : Claims) : (s.setCle x).nwt = s.nwt := rfl
@[simp] theorem State.setCle_mch (s : State) (x : Claims) : (s.setCle x).mch = s.mch := rfl
@[simp] theorem State.setCle_fsc (s : State) (x : Claims) : (s.setCle x).fsc = s.fsc := rfl
@[simp] theorem State.setCle_act (s : State) (x : Claims) : (s.setCle x).act = s.act := rfl
@[simp] theorem State.setCle_cle (s : State) (x : Claims) : (s.setCle x).cle = x := rfl
@[simp] theorem State.setCle_tkm (s : State) (x : Claims) : (s.setCle x).tkm = s.tkm := rfl
@[simp] theorem State.setCle_sga (s : State) (x : Claims) : (s.setCle x).sga = s.sga := rfl
@[simp] theorem State.setCle_trs (s : State) (x : Claims) : (s.setCle x).trs = s.trs := rfl
@[simp] theorem State.setCle_ila (s : State) (x : Claims) : (s.setCle x).ila = s.ila := rfl
@[simp] theorem State.setCle_pls (s : State) (x : Claims) : (s.setCle x).pls = s.pls := rfl
@[simp] theorem State.setCle_port (s : State) (x : Claims) : (s.setCle x).port = s.port := rfl
@[simp] theorem State.setCle_due (s : State) (x : Claims) : (s.setCle x).due = s.due := rfl
@[simp] theorem State.setCle_pending (s : State) (x : Claims) : (s.setCle x).pending = s.pending := rfl

@[simp] theorem State.setTkm_setup (s : State) (x : Tanks) : (s.setTkm x).setup = s.setup := rfl
@[simp] theorem State.setTkm_ident (s : State) (x : Tanks) : (s.setTkm x).ident = s.ident := rfl
@[simp] theorem State.setTkm_pins (s : State) (x : Tanks) : (s.setTkm x).pins = s.pins := rfl
@[simp] theorem State.setTkm_bc (s : State) (x : Tanks) : (s.setTkm x).bc = s.bc := rfl
@[simp] theorem State.setTkm_roster (s : State) (x : Tanks) : (s.setTkm x).roster = s.roster := rfl
@[simp] theorem State.setTkm_nwt (s : State) (x : Tanks) : (s.setTkm x).nwt = s.nwt := rfl
@[simp] theorem State.setTkm_mch (s : State) (x : Tanks) : (s.setTkm x).mch = s.mch := rfl
@[simp] theorem State.setTkm_fsc (s : State) (x : Tanks) : (s.setTkm x).fsc = s.fsc := rfl
@[simp] theorem State.setTkm_act (s : State) (x : Tanks) : (s.setTkm x).act = s.act := rfl
@[simp] theorem State.setTkm_cle (s : State) (x : Tanks) : (s.setTkm x).cle = s.cle := rfl
@[simp] theorem State.setTkm_tkm (s : State) (x : Tanks) : (s.setTkm x).tkm = x := rfl
@[simp] theorem State.setTkm_sga (s : State) (x : Tanks) : (s.setTkm x).sga = s.sga := rfl
@[simp] theorem State.setTkm_trs (s : State) (x : Tanks) : (s.setTkm x).trs = s.trs := rfl
@[simp] theorem State.setTkm_ila (s : State) (x : Tanks) : (s.setTkm x).ila = s.ila := rfl
@[simp] theorem State.setTkm_pls (s : State) (x : Tanks) : (s.setTkm x).pls = s.pls := rfl
@[simp] theorem State.setTkm_port (s : State) (x : Tanks) : (s.setTkm x).port = s.port := rfl
@[simp] theorem State.setTkm_due (s : State) (x : Tanks) : (s.setTkm x).due = s.due := rfl
@[simp] theorem State.setTkm_pending (s : State) (x : Tanks) : (s.setTkm x).pending = s.pending := rfl

@[simp] theorem State.setSga_setup (s : State) (x : Segments) : (s.setSga x).setup = s.setup := rfl
@[simp] theorem State.setSga_ident (s : State) (x : Segments) : (s.setSga x).ident = s.ident := rfl
@[simp] theorem State.setSga_pins (s : State) (x : Segments) : (s.setSga x).pins = s.pins := rfl
@[simp] theorem State.setSga_bc (s : State) (x : Segments) : (s.setSga x).bc = s.bc := rfl
@[simp] theorem State.setSga_roster (s : State) (x : Segments) : (s.setSga x).roster = s.roster := rfl
@[simp] theorem State.setSga_nwt (s : State) (x : Segments) : (s.setSga x).nwt = s.nwt := rfl
@[simp] theorem State.setSga_mch (s : State) (x : Segments) : (s.setSga x).mch = s.mch := rfl
@[simp] theorem State.setSga_fsc (s : State) (x : Segments) : (s.setSga x).fsc = s.fsc := rfl
@[simp] theorem State.setSga_act (s : State) (x : Segments) : (s.setSga x).act = s.act := rfl
@[simp] theorem State.setSga_cle (s : State) (x : Segments) : (s.setSga x).cle = s.cle := rfl
@[simp] theorem State.setSga_tkm (s : State) (x : Segments) : (s.setSga x).tkm = s.tkm := rfl
@[simp] theorem State.setSga_sga (s : State) (x : Segments) : (s.setSga x).sga = x := rfl
@[simp] theorem State.setSga_trs (s : State) (x : Segments) : (s.setSga x).trs = s.trs := rfl
@[simp] theorem State.setSga_ila (s : State) (x : Segments) : (s.setSga x).ila = s.ila := rfl
@[simp] theorem State.setSga_pls (s : State) (x : Segments) : (s.setSga x).pls = s.pls := rfl
@[simp] theorem State.setSga_port (s : State) (x : Segments) : (s.setSga x).port = s.port := rfl
@[simp] theorem State.setSga_due (s : State) (x : Segments) : (s.setSga x).due = s.due := rfl
@[simp] theorem State.setSga_pending (s : State) (x : Segments) : (s.setSga x).pending = s.pending := rfl

@[simp] theorem State.setTrs_setup (s : State) (x : Train) : (s.setTrs x).setup = s.setup := rfl
@[simp] theorem State.setTrs_ident (s : State) (x : Train) : (s.setTrs x).ident = s.ident := rfl
@[simp] theorem State.setTrs_pins (s : State) (x : Train) : (s.setTrs x).pins = s.pins := rfl
@[simp] theorem State.setTrs_bc (s : State) (x : Train) : (s.setTrs x).bc = s.bc := rfl
@[simp] theorem State.setTrs_roster (s : State) (x : Train) : (s.setTrs x).roster = s.roster := rfl
@[simp] theorem State.setTrs_nwt (s : State) (x : Train) : (s.setTrs x).nwt = s.nwt := rfl
@[simp] theorem State.setTrs_mch (s : State) (x : Train) : (s.setTrs x).mch = s.mch := rfl
@[simp] theorem State.setTrs_fsc (s : State) (x : Train) : (s.setTrs x).fsc = s.fsc := rfl
@[simp] theorem State.setTrs_act (s : State) (x : Train) : (s.setTrs x).act = s.act := rfl
@[simp] theorem State.setTrs_cle (s : State) (x : Train) : (s.setTrs x).cle = s.cle := rfl
@[simp] theorem State.setTrs_tkm (s : State) (x : Train) : (s.setTrs x).tkm = s.tkm := rfl
@[simp] theorem State.setTrs_sga (s : State) (x : Train) : (s.setTrs x).sga = s.sga := rfl
@[simp] theorem State.setTrs_trs (s : State) (x : Train) : (s.setTrs x).trs = x := rfl
@[simp] theorem State.setTrs_ila (s : State) (x : Train) : (s.setTrs x).ila = s.ila := rfl
@[simp] theorem State.setTrs_pls (s : State) (x : Train) : (s.setTrs x).pls = s.pls := rfl
@[simp] theorem State.setTrs_port (s : State) (x : Train) : (s.setTrs x).port = s.port := rfl
@[simp] theorem State.setTrs_due (s : State) (x : Train) : (s.setTrs x).due = s.due := rfl
@[simp] theorem State.setTrs_pending (s : State) (x : Train) : (s.setTrs x).pending = s.pending := rfl

@[simp] theorem State.setIla_setup (s : State) (x : Vector CellHistory 8) : (s.setIla x).setup = s.setup := rfl
@[simp] theorem State.setIla_ident (s : State) (x : Vector CellHistory 8) : (s.setIla x).ident = s.ident := rfl
@[simp] theorem State.setIla_pins (s : State) (x : Vector CellHistory 8) : (s.setIla x).pins = s.pins := rfl
@[simp] theorem State.setIla_bc (s : State) (x : Vector CellHistory 8) : (s.setIla x).bc = s.bc := rfl
@[simp] theorem State.setIla_roster (s : State) (x : Vector CellHistory 8) : (s.setIla x).roster = s.roster := rfl
@[simp] theorem State.setIla_nwt (s : State) (x : Vector CellHistory 8) : (s.setIla x).nwt = s.nwt := rfl
@[simp] theorem State.setIla_mch (s : State) (x : Vector CellHistory 8) : (s.setIla x).mch = s.mch := rfl
@[simp] theorem State.setIla_fsc (s : State) (x : Vector CellHistory 8) : (s.setIla x).fsc = s.fsc := rfl
@[simp] theorem State.setIla_act (s : State) (x : Vector CellHistory 8) : (s.setIla x).act = s.act := rfl
@[simp] theorem State.setIla_cle (s : State) (x : Vector CellHistory 8) : (s.setIla x).cle = s.cle := rfl
@[simp] theorem State.setIla_tkm (s : State) (x : Vector CellHistory 8) : (s.setIla x).tkm = s.tkm := rfl
@[simp] theorem State.setIla_sga (s : State) (x : Vector CellHistory 8) : (s.setIla x).sga = s.sga := rfl
@[simp] theorem State.setIla_trs (s : State) (x : Vector CellHistory 8) : (s.setIla x).trs = s.trs := rfl
@[simp] theorem State.setIla_ila (s : State) (x : Vector CellHistory 8) : (s.setIla x).ila = x := rfl
@[simp] theorem State.setIla_pls (s : State) (x : Vector CellHistory 8) : (s.setIla x).pls = s.pls := rfl
@[simp] theorem State.setIla_port (s : State) (x : Vector CellHistory 8) : (s.setIla x).port = s.port := rfl
@[simp] theorem State.setIla_due (s : State) (x : Vector CellHistory 8) : (s.setIla x).due = s.due := rfl
@[simp] theorem State.setIla_pending (s : State) (x : Vector CellHistory 8) : (s.setIla x).pending = s.pending := rfl

@[simp] theorem State.setPls_setup (s : State) (x : Plans) : (s.setPls x).setup = s.setup := rfl
@[simp] theorem State.setPls_ident (s : State) (x : Plans) : (s.setPls x).ident = s.ident := rfl
@[simp] theorem State.setPls_pins (s : State) (x : Plans) : (s.setPls x).pins = s.pins := rfl
@[simp] theorem State.setPls_bc (s : State) (x : Plans) : (s.setPls x).bc = s.bc := rfl
@[simp] theorem State.setPls_roster (s : State) (x : Plans) : (s.setPls x).roster = s.roster := rfl
@[simp] theorem State.setPls_nwt (s : State) (x : Plans) : (s.setPls x).nwt = s.nwt := rfl
@[simp] theorem State.setPls_mch (s : State) (x : Plans) : (s.setPls x).mch = s.mch := rfl
@[simp] theorem State.setPls_fsc (s : State) (x : Plans) : (s.setPls x).fsc = s.fsc := rfl
@[simp] theorem State.setPls_act (s : State) (x : Plans) : (s.setPls x).act = s.act := rfl
@[simp] theorem State.setPls_cle (s : State) (x : Plans) : (s.setPls x).cle = s.cle := rfl
@[simp] theorem State.setPls_tkm (s : State) (x : Plans) : (s.setPls x).tkm = s.tkm := rfl
@[simp] theorem State.setPls_sga (s : State) (x : Plans) : (s.setPls x).sga = s.sga := rfl
@[simp] theorem State.setPls_trs (s : State) (x : Plans) : (s.setPls x).trs = s.trs := rfl
@[simp] theorem State.setPls_ila (s : State) (x : Plans) : (s.setPls x).ila = s.ila := rfl
@[simp] theorem State.setPls_pls (s : State) (x : Plans) : (s.setPls x).pls = x := rfl
@[simp] theorem State.setPls_port (s : State) (x : Plans) : (s.setPls x).port = s.port := rfl
@[simp] theorem State.setPls_due (s : State) (x : Plans) : (s.setPls x).due = s.due := rfl
@[simp] theorem State.setPls_pending (s : State) (x : Plans) : (s.setPls x).pending = s.pending := rfl

@[simp] theorem State.setPort_setup (s : State) (x : Port) : (s.setPort x).setup = s.setup := rfl
@[simp] theorem State.setPort_ident (s : State) (x : Port) : (s.setPort x).ident = s.ident := rfl
@[simp] theorem State.setPort_pins (s : State) (x : Port) : (s.setPort x).pins = s.pins := rfl
@[simp] theorem State.setPort_bc (s : State) (x : Port) : (s.setPort x).bc = s.bc := rfl
@[simp] theorem State.setPort_roster (s : State) (x : Port) : (s.setPort x).roster = s.roster := rfl
@[simp] theorem State.setPort_nwt (s : State) (x : Port) : (s.setPort x).nwt = s.nwt := rfl
@[simp] theorem State.setPort_mch (s : State) (x : Port) : (s.setPort x).mch = s.mch := rfl
@[simp] theorem State.setPort_fsc (s : State) (x : Port) : (s.setPort x).fsc = s.fsc := rfl
@[simp] theorem State.setPort_act (s : State) (x : Port) : (s.setPort x).act = s.act := rfl
@[simp] theorem State.setPort_cle (s : State) (x : Port) : (s.setPort x).cle = s.cle := rfl
@[simp] theorem State.setPort_tkm (s : State) (x : Port) : (s.setPort x).tkm = s.tkm := rfl
@[simp] theorem State.setPort_sga (s : State) (x : Port) : (s.setPort x).sga = s.sga := rfl
@[simp] theorem State.setPort_trs (s : State) (x : Port) : (s.setPort x).trs = s.trs := rfl
@[simp] theorem State.setPort_ila (s : State) (x : Port) : (s.setPort x).ila = s.ila := rfl
@[simp] theorem State.setPort_pls (s : State) (x : Port) : (s.setPort x).pls = s.pls := rfl
@[simp] theorem State.setPort_port (s : State) (x : Port) : (s.setPort x).port = x := rfl
@[simp] theorem State.setPort_due (s : State) (x : Port) : (s.setPort x).due = s.due := rfl
@[simp] theorem State.setPort_pending (s : State) (x : Port) : (s.setPort x).pending = s.pending := rfl

@[simp] theorem State.setDue_setup (s : State) (x : List Due) : (s.setDue x).setup = s.setup := rfl
@[simp] theorem State.setDue_ident (s : State) (x : List Due) : (s.setDue x).ident = s.ident := rfl
@[simp] theorem State.setDue_pins (s : State) (x : List Due) : (s.setDue x).pins = s.pins := rfl
@[simp] theorem State.setDue_bc (s : State) (x : List Due) : (s.setDue x).bc = s.bc := rfl
@[simp] theorem State.setDue_roster (s : State) (x : List Due) : (s.setDue x).roster = s.roster := rfl
@[simp] theorem State.setDue_nwt (s : State) (x : List Due) : (s.setDue x).nwt = s.nwt := rfl
@[simp] theorem State.setDue_mch (s : State) (x : List Due) : (s.setDue x).mch = s.mch := rfl
@[simp] theorem State.setDue_fsc (s : State) (x : List Due) : (s.setDue x).fsc = s.fsc := rfl
@[simp] theorem State.setDue_act (s : State) (x : List Due) : (s.setDue x).act = s.act := rfl
@[simp] theorem State.setDue_cle (s : State) (x : List Due) : (s.setDue x).cle = s.cle := rfl
@[simp] theorem State.setDue_tkm (s : State) (x : List Due) : (s.setDue x).tkm = s.tkm := rfl
@[simp] theorem State.setDue_sga (s : State) (x : List Due) : (s.setDue x).sga = s.sga := rfl
@[simp] theorem State.setDue_trs (s : State) (x : List Due) : (s.setDue x).trs = s.trs := rfl
@[simp] theorem State.setDue_ila (s : State) (x : List Due) : (s.setDue x).ila = s.ila := rfl
@[simp] theorem State.setDue_pls (s : State) (x : List Due) : (s.setDue x).pls = s.pls := rfl
@[simp] theorem State.setDue_port (s : State) (x : List Due) : (s.setDue x).port = s.port := rfl
@[simp] theorem State.setDue_due (s : State) (x : List Due) : (s.setDue x).due = x := rfl
@[simp] theorem State.setDue_pending (s : State) (x : List Due) : (s.setDue x).pending = s.pending := rfl

@[simp] theorem State.setPending_setup (s : State) (x : List Instr) : (s.setPending x).setup = s.setup := rfl
@[simp] theorem State.setPending_ident (s : State) (x : List Instr) : (s.setPending x).ident = s.ident := rfl
@[simp] theorem State.setPending_pins (s : State) (x : List Instr) : (s.setPending x).pins = s.pins := rfl
@[simp] theorem State.setPending_bc (s : State) (x : List Instr) : (s.setPending x).bc = s.bc := rfl
@[simp] theorem State.setPending_roster (s : State) (x : List Instr) : (s.setPending x).roster = s.roster := rfl
@[simp] theorem State.setPending_nwt (s : State) (x : List Instr) : (s.setPending x).nwt = s.nwt := rfl
@[simp] theorem State.setPending_mch (s : State) (x : List Instr) : (s.setPending x).mch = s.mch := rfl
@[simp] theorem State.setPending_fsc (s : State) (x : List Instr) : (s.setPending x).fsc = s.fsc := rfl
@[simp] theorem State.setPending_act (s : State) (x : List Instr) : (s.setPending x).act = s.act := rfl
@[simp] theorem State.setPending_cle (s : State) (x : List Instr) : (s.setPending x).cle = s.cle := rfl
@[simp] theorem State.setPending_tkm (s : State) (x : List Instr) : (s.setPending x).tkm = s.tkm := rfl
@[simp] theorem State.setPending_sga (s : State) (x : List Instr) : (s.setPending x).sga = s.sga := rfl
@[simp] theorem State.setPending_trs (s : State) (x : List Instr) : (s.setPending x).trs = s.trs := rfl
@[simp] theorem State.setPending_ila (s : State) (x : List Instr) : (s.setPending x).ila = s.ila := rfl
@[simp] theorem State.setPending_pls (s : State) (x : List Instr) : (s.setPending x).pls = s.pls := rfl
@[simp] theorem State.setPending_port (s : State) (x : List Instr) : (s.setPending x).port = s.port := rfl
@[simp] theorem State.setPending_due (s : State) (x : List Instr) : (s.setPending x).due = s.due := rfl
@[simp] theorem State.setPending_pending (s : State) (x : List Instr) : (s.setPending x).pending = x := rfl

end Sys2Proof.Machine
end

