-- ==== Sys2Proof/Laws/Works.lean ====
section
/-!
SUPPORT. What the working operations of the blocks can do, said once: `Works s t` leaves setup, identity, pins, roster, NWT,
scanner, cells, plans, due events and pending commands as they were, only lengthens the transmit queue and the report ring, and
keeps the bounds of every list and the order of both wait queues.
-/

namespace Sys2Proof.Machine

/-! ## Tables -/

theorem look_put {α : Type} {n : Nat} (v : Vector α n) (i j : Nat) (x d : α) :
    look (put v i x) d j = if i = j ∧ i < n then x else look v d j := by
  unfold look put
  by_cases h : i = j
  · subst h
    by_cases hi : i < n <;> simp [List.getD, hi]
  · simp [List.getD, h]

theorem look_put_same {α : Type} {n : Nat} (v : Vector α n) {i : Nat} (h : i < n) (x d : α) : look (put v i x) d i = x := by
  simp [look_put, h]

theorem look_put_other {α : Type} {n : Nat} (v : Vector α n) {i j : Nat} (h : i ≠ j) (x d : α) :
    look (put v i x) d j = look v d j := by
  simp [look_put, h]

/-! ## Bounds -/

theorem bounded_iff (s : State) :
    s.bounded = true ↔ s.bc.queue.length ≤ 16 ∧ s.port.ring.length ≤ 32 ∧ s.cle.list.length ≤ 8 ∧
      (s.tankOf 0).grants.length ≤ 8 ∧ (s.tankOf 1).grants.length ≤ 8 ∧ s.tkm.waits.length ≤ 8 ∧ s.tkm.memory.length ≤ 8 ∧
      s.sga.waits.length ≤ 8 := by
  simp [State.bounded, and_assoc]

/-- What a report says, its loss mark apart. -/
def Report.made (r : Report) : ReportBody × Word := (r.body, r.round)

/-- What a working operation leaves as it was, and what it keeps. -/
structure Works (s t : State) : Prop where
  setup : t.setup = s.setup
  ident : t.ident = s.ident
  pins : t.pins = s.pins
  roster : t.roster = s.roster
  nwt : t.nwt = s.nwt
  fsc : t.fsc = s.fsc
  ila : t.ila = s.ila
  pls : t.pls = s.pls
  due : t.due = s.due
  pending : t.pending = s.pending
  bc : t.bc = { s.bc with queue := t.bc.queue }
  port : t.port = { s.port with ring := t.port.ring }
  queue : s.bc.queue <+: t.bc.queue
  ring : s.port.ring.map Report.made <+: t.port.ring.map Report.made
  unset : ∀ a, s.actSetup a = none → t.actOf a = s.actOf a
  bounds : s.bounded = true → t.bounded = true
  order : s.waitsOrdered → t.waitsOrdered
  still : s.serving = false → t.bc = s.bc

namespace Works

theorem refl (s : State) : Works s s :=
  ⟨rfl, rfl, rfl, rfl, rfl, rfl, rfl, rfl, rfl, rfl, rfl, rfl, List.prefix_refl _, List.prefix_refl _, fun _ _ => rfl, id, id,
    fun _ => rfl⟩

theorem trans {s t u : State} (h : Works s t) (k : Works t u) : Works s u where
  setup := k.setup.trans h.setup
  ident := k.ident.trans h.ident
  pins := k.pins.trans h.pins
  roster := k.roster.trans h.roster
  nwt := k.nwt.trans h.nwt
  fsc := k.fsc.trans h.fsc
  ila := k.ila.trans h.ila
  pls := k.pls.trans h.pls
  due := k.due.trans h.due
  pending := k.pending.trans h.pending
  bc := by rw [k.bc, h.bc]
  port := by rw [k.port, h.port]
  queue := h.queue.trans k.queue
  ring := h.ring.trans k.ring
  unset a e := (k.unset a (by rw [State.actSetup, h.setup]; exact e)).trans (h.unset a e)
  bounds := fun b => k.bounds (h.bounds b)
  order := fun o => k.order (h.order o)
  still := fun b => (k.still (by rw [State.serving, h.still b]; exact b)).trans (h.still b)

theorem foldl {α : Type} {f : State → α → State} (h : ∀ s a, Works s (f s a)) (l : List α) (s : State) :
    Works s (l.foldl f s) := by
  induction l generalizing s with
  | nil => exact refl s
  | cons a l ih => exact (h s a).trans (ih _)

theorem fold {α : Type} {f : State → α → State} (h : ∀ s a, Works s (f s a)) (l : List α) {r s : State} (k : Works r s) :
    Works r (l.foldl f s) := k.trans (foldl h l s)

theorem ite {c : Prop} [Decidable c] {s t u : State} (h : c → Works s t) (k : ¬c → Works s u) :
    Works s (if c then t else u) := by
  by_cases hc : c
  · rw [if_pos hc]; exact h hc
  · rw [if_neg hc]; exact k hc

theorem opt {α : Type} {f : α → State} {s u : State} (o : Option α) (h : ∀ a, o = some a → Works s (f a)) (k : Works s u) :
    Works s (match o with | some a => f a | none => u) := by
  cases o with
  | none => exact k
  | some a => exact h a rfl

theorem serving {s t : State} (h : Works s t) : t.serving = s.serving := by
  simp only [State.serving]; rw [h.bc]

theorem busState {s t : State} (h : Works s t) : t.bc.busState = s.bc.busState := by rw [h.bc]

/-- A change of blocks that hold no bounded list. -/
theorem free (s : State) (m : Channels) (t : Train) : Works s ((s.setMch m).setTrs t) :=
  ⟨rfl, rfl, rfl, rfl, rfl, rfl, rfl, rfl, rfl, rfl, rfl, rfl, List.prefix_refl _, List.prefix_refl _, fun _ _ => rfl, id, id,
    fun _ => rfl⟩

theorem mch {r s : State} (k : Works r s) (m : Channels) : Works r (s.setMch m) := k.trans (free s m s.trs)

theorem trs {r s : State} (k : Works r s) (t : Train) : Works r (s.setTrs t) := k.trans (free s s.mch t)

theorem act {r s : State} (k : Works r s) (v : Vector Actuator 12)
    (h : ∀ a, s.actSetup a = none → look v Actuator.initial a = s.actOf a) : Works r (s.setAct v) :=
  k.trans ⟨rfl, rfl, rfl, rfl, rfl, rfl, rfl, rfl, rfl, rfl, rfl, rfl, List.prefix_refl _, List.prefix_refl _, h, id, id,
    fun _ => rfl⟩

theorem cle {r s : State} (k : Works r s) (x : Claims) (h : s.cle.list.length ≤ 8 → x.list.length ≤ 8) :
    Works r (s.setCle x) := by
  refine k.trans ?_
  refine ⟨rfl, rfl, rfl, rfl, rfl, rfl, rfl, rfl, rfl, rfl, rfl, rfl, List.prefix_refl _, List.prefix_refl _, fun _ _ => rfl, ?_, id,
    fun _ => rfl⟩
  intro b
  rw [bounded_iff] at b ⊢
  exact ⟨b.1, b.2.1, h b.2.2.1, b.2.2.2⟩

theorem tkm {r s : State} (k : Works r s) (x : Tanks)
    (g : ∀ t, (s.tankOf t).grants.length ≤ 8 → (look x.tank TankState.initial t).grants.length ≤ 8)
    (w : s.tkm.waits.length ≤ 8 → x.waits.length ≤ 8) (m : s.tkm.memory.length ≤ 8 → x.memory.length ≤ 8)
    (o : s.tkm.waits.Pairwise TankWait.ahead → x.waits.Pairwise TankWait.ahead) : Works r (s.setTkm x) := by
  refine k.trans ?_
  refine ⟨rfl, rfl, rfl, rfl, rfl, rfl, rfl, rfl, rfl, rfl, rfl, rfl, List.prefix_refl _, List.prefix_refl _, fun _ _ => rfl, ?_,
    fun b => ⟨o b.1, b.2⟩, fun _ => rfl⟩
  intro b
  rw [bounded_iff] at b ⊢
  obtain ⟨b1, b2, b3, b4, b5, b6, b7, b8⟩ := b
  exact ⟨b1, b2, b3, g 0 b4, g 1 b5, w b6, m b7, b8⟩

theorem sga {r s : State} (k : Works r s) (x : Segments) (w : s.sga.waits.length ≤ 8 → x.waits.length ≤ 8)
    (o : s.sga.waits.Pairwise HoldWait.ahead → x.waits.Pairwise HoldWait.ahead) : Works r (s.setSga x) := by
  refine k.trans ?_
  refine ⟨rfl, rfl, rfl, rfl, rfl, rfl, rfl, rfl, rfl, rfl, rfl, rfl, List.prefix_refl _, List.prefix_refl _, fun _ _ => rfl, ?_,
    fun b => ⟨b.1, o b.2⟩, fun _ => rfl⟩
  intro b
  rw [bounded_iff] at b ⊢
  obtain ⟨b1, b2, b3, b4, b5, b6, b7, b8⟩ := b
  exact ⟨b1, b2, b3, b4, b5, b6, b7, w b8⟩

end Works

/-! ## The shared operations -/

theorem offer_works {r s : State} (h : Works r s) (m : Message) : Works r (offer m s).1 := by
  refine h.trans ?_
  unfold offer
  split
  · rename_i h
    have hq : s.bc.queue.length < 16 := by simp at h; exact h.2
    have hs : s.serving = true := by simp at h; exact h.1
    refine ⟨rfl, rfl, rfl, rfl, rfl, rfl, rfl, rfl, rfl, rfl, rfl, rfl, ⟨[m], rfl⟩, List.prefix_refl _, fun _ _ => rfl, ?_,
      id, fun b => by simp [hs] at b⟩
    intro b
    rw [bounded_iff] at b ⊢
    refine ⟨?_, b.2⟩
    simp
    omega
  · exact Works.refl s

theorem send_works {r s : State} (h : Works r s) (d : Nat) (b : MsgBody) : Works r (send d b s) := offer_works h _

theorem markLoss_made (l : List Report) : (markLoss l).map Report.made = l.map Report.made := by
  induction l with
  | nil => rfl
  | cons r l ih =>
    cases l with
    | nil => rfl
    | cons q l => simp [markLoss] at ih ⊢; exact ih

theorem markLoss_length (l : List Report) : (markLoss l).length = l.length := by
  induction l with
  | nil => rfl
  | cons r l ih =>
    cases l with
    | nil => rfl
    | cons q l => simp [markLoss] at ih ⊢; exact ih

theorem report_works {r s : State} (h : Works r s) (b : ReportBody) : Works r (report b s) := by
  refine h.trans ?_
  unfold report
  split
  · rename_i h
    refine ⟨rfl, rfl, rfl, rfl, rfl, rfl, rfl, rfl, rfl, rfl, rfl, rfl, List.prefix_refl _, by simp, fun _ _ => rfl, ?_, id,
      fun _ => rfl⟩
    intro k
    rw [bounded_iff] at k ⊢
    refine ⟨k.1, ?_, k.2.2⟩
    simp
    omega
  · refine ⟨rfl, rfl, rfl, rfl, rfl, rfl, rfl, rfl, rfl, rfl, rfl, rfl, List.prefix_refl _, by simp [markLoss_made],
      fun _ _ => rfl, ?_, id, fun _ => rfl⟩
    intro k
    rw [bounded_iff] at k ⊢
    exact ⟨k.1, by simpa [markLoss_length] using k.2.1, k.2.2⟩

theorem putAct_works {r s : State} (h : Works r s) (a : Nat) (x : Actuator) (k : (s.actSetup a).isSome = true) :
    Works r (s.putAct a x) := by
  refine h.act _ fun b hb => ?_
  have : a ≠ b := by rintro rfl; simp [hb] at k
  exact look_put_other _ this _ _

theorem mapTrs_works {r s : State} (h : Works r s) (f : Train → Train) : Works r (s.mapTrs f) := h.trs _

theorem setClaims_works {r s : State} (h : Works r s) (l : List Claim) (k : s.cle.list.length ≤ 8 → l.length ≤ 8) :
    Works r (s.setClaims l) := h.cle _ k

theorem putClaim_works {r s : State} (h : Works r s) (c : Claim) : Works r (s.putClaim c) := setClaims_works h _ (by simp)

theorem dropClaim_works {r s : State} (h : Works r s) (q : Nat) : Works r (s.dropClaim q) :=
  setClaims_works h _ fun k => Nat.le_trans (List.length_filter_le _ _) k

theorem putTank_works {r s : State} (h : Works r s) (t : Nat) (x : TankState)
    (k : (s.tankOf t).grants.length ≤ 8 → x.grants.length ≤ 8) : Works r (s.putTank t x) := by
  refine h.tkm _ ?_ id id id
  intro u hu
  simp only [look_put]
  split
  · rename_i e; obtain ⟨rfl, _⟩ := e; exact k hu
  · exact hu

theorem setGrants_works {r s : State} (h : Works r s) (t : Nat) (l : List Grant)
    (k : (s.tankOf t).grants.length ≤ 8 → l.length ≤ 8) : Works r (s.setGrants t l) := putTank_works h t _ k

theorem setTankWaits_works {r s : State} (h : Works r s) (l : List TankWait) (k : s.tkm.waits.length ≤ 8 → l.length ≤ 8)
    (o : s.tkm.waits.Pairwise TankWait.ahead → l.Pairwise TankWait.ahead) : Works r (s.setTankWaits l) :=
  h.tkm _ (fun _ b => b) k id o

/-- Some entries leave the tank wait queue. -/
theorem subTankWaits_works {r s : State} (h : Works r s) {l : List TankWait} (k : l.Sublist s.tkm.waits) : Works r (s.setTankWaits l) :=
  setTankWaits_works h _ (Nat.le_trans k.length_le) fun o => o.sublist k

theorem setMemory_works {r s : State} (h : Works r s) (l : List Revoked) (k : s.tkm.memory.length ≤ 8 → l.length ≤ 8) :
    Works r (s.setMemory l) := h.tkm _ (fun _ b => b) id k id

theorem setHoldWaits_works {r s : State} (h : Works r s) (l : List HoldWait) (k : s.sga.waits.length ≤ 8 → l.length ≤ 8)
    (o : s.sga.waits.Pairwise HoldWait.ahead → l.Pairwise HoldWait.ahead) : Works r (s.setHoldWaits l) := h.sga _ k o

/-- Some entries leave the hold wait queue. -/
theorem subHoldWaits_works {r s : State} (h : Works r s) {l : List HoldWait} (k : l.Sublist s.sga.waits) : Works r (s.setHoldWaits l) :=
  setHoldWaits_works h _ (Nat.le_trans k.length_le) fun o => o.sublist k

theorem putSeg_works {r s : State} (h : Works r s) (i : Nat) (x : Segment) : Works r (s.putSeg i x) := h.sga _ id id

end Sys2Proof.Machine
end

