-- ==== Sys2Proof/Laws/WorksBlocks.lean ====
section
/-!
SUPPORT. The working operations of channels, actuators, segments, claims, tanks and train, each shown to be a working operation
(Laws/Works.lean). A lemma `f_works` takes what came before `f` as its first argument.
-/

namespace Sys2Proof.Machine

/-! ## Channels -/

theorem reportLevel_works {r s : State} (h : Works r s) (t : Nat) (w : WindowState) (c : WindowCause) :
    Works r (reportLevel t w c s) := by
  unfold reportLevel
  dsimp only
  split
  · exact h
  · exact report_works h _

theorem reportQuality_works {r s : State} (h : Works r s) (w : WindowState) (c : WindowCause) :
    Works r (reportQuality w c s) := by
  unfold reportQuality
  dsimp only
  split
  · exact h
  · exact report_works h _

theorem completeLevel_works {r s : State} (h : Works r s) (t : Nat) (u : LevelSetup) : Works r (completeLevel t u s) :=
  reportLevel_works (h.mch _) _ _ _

theorem completeQuality_works {r s : State} (h : Works r s) (u : QualitySetup) : Works r (completeQuality u s) :=
  reportQuality_works (h.mch _) _ _

theorem reclassify_works {r s : State} (h : Works r s) (t : Nat) : Works r (reclassify t s) := by
  unfold reclassify
  dsimp only
  split
  iterate 3 exact reportLevel_works (h.mch _) _ _ _
  exact h

theorem qualityOff_works {r s : State} (h : Works r s) : Works r (qualityOff s) := by
  unfold qualityOff
  dsimp only
  split
  · exact h.mch _
  · exact (reportQuality_works (h.mch _) _ _).trs _

/-! ## Actuators -/

theorem startTravel_works {r s : State} (h : Works r s) (a : Nat) (u : ActuatorSetup) (o : Bool)
    (k : (s.actSetup a).isSome = true) : Works r (startTravel a u o s).1 := by
  unfold startTravel
  dsimp only
  split <;> exact putAct_works h _ _ k

theorem stopQuality_works {r s : State} (h : Works r s) (u : ActuatorSetup) : Works r (stopQuality u s) := by
  unfold stopQuality
  split
  · exact qualityOff_works h
  · exact h

theorem actSetup_works {r s : State} (h : Works r s) (a : Nat) : s.actSetup a = r.actSetup a := by
  rw [State.actSetup, h.setup, State.actSetup]

theorem openReq_works {r s : State} (h : Works r s) (a : Nat) : Works r (openReq a s).1 := by
  unfold openReq
  split
  · exact h
  · rename_i u e
    have k : (s.actSetup a).isSome = true := by rw [e]; rfl
    dsimp only
    repeat' split
    all_goals first
      | exact h
      | exact startTravel_works (putAct_works h _ _ k) _ _ _ k
      | exact putAct_works h _ _ k

theorem closeReq_works {r s : State} (h : Works r s) (a : Nat) : Works r (closeReq a s).1 := by
  unfold closeReq
  split
  · exact h
  · rename_i u e
    have k : (s.actSetup a).isSome = true := by rw [e]; rfl
    have q : Works s (stopQuality u (s.putAct a { s.actOf a with command := .safe })) :=
      stopQuality_works (putAct_works (Works.refl s) _ _ k) _
    dsimp only
    repeat' split
    all_goals first
      | exact h
      | exact startTravel_works h _ _ _ k
      | exact startTravel_works (h.trans q) _ _ _ (by rw [actSetup_works q]; exact k)
      | exact h.trans q

theorem openRole_works {r s : State} (h : Works r s) (x : Role) : Works r (openRole x s).1 := by
  unfold openRole
  split
  · exact openReq_works h _
  · exact h

theorem closeRole_works {r s : State} (h : Works r s) (x : Role) : Works r (closeRole x s).1 := by
  unfold closeRole
  split
  · exact closeReq_works h _
  · exact h

theorem becomeStuck_works {r s : State} (h : Works r s) (a : Nat) (u : ActuatorSetup) (c : StuckCause)
    (k : (s.actSetup a).isSome = true) : Works r (becomeStuck a u c s).1 := by
  unfold becomeStuck
  dsimp only
  split
  · exact report_works (putAct_works h _ _ k) _
  · exact stopQuality_works (report_works (putAct_works h _ _ k) _) _

theorem endTravel_works {r s : State} (h : Works r s) (a : Nat) (u : ActuatorSetup) (k : (s.actSetup a).isSome = true) :
    Works r (endTravel a u s).1 :=
  putAct_works h _ _ k

theorem openLimitChange_works {r s : State} (h : Works r s) (a : Nat) (b : Bool) : Works r (openLimitChange a b s).1 := by
  unfold openLimitChange
  split
  · exact h
  · rename_i u e
    have k : (s.actSetup a).isSome = true := by rw [e]; rfl
    dsimp only
    repeat' split
    all_goals first
      | exact h
      | exact endTravel_works h _ _ k
      | exact becomeStuck_works h _ _ _ k

theorem closedLimitChange_works {r s : State} (h : Works r s) (a : Nat) (b : Bool) :
    Works r (closedLimitChange a b s).1 := by
  unfold closedLimitChange
  split
  · exact h
  · rename_i u e
    have k : (s.actSetup a).isSome = true := by rw [e]; rfl
    dsimp only
    repeat' split
    all_goals first
      | exact h
      | exact endTravel_works h _ _ k
      | exact becomeStuck_works h _ _ _ k

theorem dropActuator_works {r s : State} (h : Works r s) (a : Nat) : Works r (dropActuator a s).1 := by
  unfold dropActuator
  split
  · exact h
  · rename_i u e
    have k : (s.actSetup a).isSome = true := by rw [e]; rfl
    dsimp only
    repeat' split
    all_goals first
      | exact h
      | exact startTravel_works (putAct_works h _ _ k) _ _ _ k
      | exact putAct_works h _ _ k

theorem safeAfresh_works {r s : State} (h : Works r s) (a : Nat) : Works r (safeAfresh a s).1 := by
  unfold safeAfresh
  split
  · exact h
  · rename_i u e
    have k : (s.actSetup a).isSome = true := by rw [e]; rfl
    exact startTravel_works (putAct_works h _ _ k) _ _ _ k

/-! ## Segments -/

theorem insertHold_length (w : HoldWait) (l : List HoldWait) : (insertHold w l).length = l.length + 1 := by
  induction l with
  | nil => rfl
  | cons x l ih =>
    unfold insertHold
    split <;> simp [ih]

/-- Where a new entry stands: behind the entries at the head that precede it, before the first that does not (R129). -/
theorem insertHold_split (w : HoldWait) (l : List HoldWait) : ∃ front back, l = front ++ back ∧
    insertHold w l = front ++ w :: back ∧ (∀ x ∈ front, x.precedes w.cls w.id.address = true) ∧
    ∀ x, back.head? = some x → x.precedes w.cls w.id.address = false := by
  induction l with
  | nil => exact ⟨[], [], rfl, rfl, by simp, by simp⟩
  | cons x l ih =>
    obtain ⟨f, b, e, i, p, q⟩ := ih
    unfold insertHold
    split
    · rename_i h
      exact ⟨x :: f, b, by rw [e]; rfl, by rw [i]; rfl, by simpa [h] using p, q⟩
    · rename_i h
      exact ⟨[], x :: l, rfl, rfl, by simp, by simpa using h⟩

/-- A new entry takes its place in the order (R129). -/
theorem insertHold_ordered (w : HoldWait) (f : w.fresh = true) (l : List HoldWait) (o : l.Pairwise HoldWait.ahead) :
    (insertHold w l).Pairwise HoldWait.ahead := by
  obtain ⟨front, back, rfl, i, p, q⟩ := insertHold_split w l
  rw [i]
  rw [List.pairwise_append] at o ⊢
  obtain ⟨o1, o2, o3⟩ := o
  have before : ∀ x ∈ front, x.ahead w := fun x h => by
    have := p x h
    simp [HoldWait.precedes] at this
    unfold HoldWait.ahead
    simp only [f]
    tauto
  have behind : ∀ y ∈ back, w.ahead y := by
    cases back with
    | nil => simp
    | cons z back =>
      have nz := q z rfl
      simp [HoldWait.precedes] at nz
      rw [List.pairwise_cons] at o2
      intro y h
      unfold HoldWait.ahead
      rcases List.mem_cons.mp h with rfl | h
      · by_cases e : y.cls = w.cls
        · exact .inr ⟨e.symm, .inr ⟨(nz.2 e).1, by have := (nz.2 e).2; omega⟩⟩
        · exact .inl (by have := nz.1; omega)
      · have r := o2.1 y h
        unfold HoldWait.ahead at r
        by_cases e : z.cls = w.cls
        · obtain ⟨n1, n2⟩ := nz.2 e
          rcases r with r | ⟨r1, r2⟩
          · exact .inl (by omega)
          · simp only [n1, Bool.true_eq_false, false_or] at r2
            exact .inr ⟨by omega, .inr ⟨r2.1, by omega⟩⟩
        · exact .inl (by have := nz.1; rcases r with r | r <;> omega)
  refine ⟨o1, List.pairwise_cons.mpr ⟨behind, o2⟩, fun x hx y hy => ?_⟩
  rcases List.mem_cons.mp hy with rfl | hy
  · exact before x hx
  · exact o3 x hx y hy

theorem refuseWaiters_works {r s : State} (h : Works r s) (i : Nat) : Works r (refuseWaiters i s) :=
  Works.fold (fun s _ => send_works (Works.refl s) _ _) _
    (subHoldWaits_works h List.filter_sublist)

theorem giveAttempt_works {r s : State} (h : Works r s) (i : Nat) (id : ClaimId) : Works r (giveAttempt i id s) := by
  unfold giveAttempt
  dsimp only
  repeat' split
  · exact send_works (putSeg_works (openRole_works h _) _ _) _ _
  · exact send_works (putSeg_works (closeRole_works (openRole_works h _) _) _ _) _ _
  · exact refuseWaiters_works (send_works (putSeg_works (closeRole_works (openRole_works h _) _) _ _) _ _) _

theorem clearFault_works {r s : State} (h : Works r s) (i : Nat) : Works r (clearFault i s) := by
  unfold clearFault
  dsimp only
  repeat' split
  all_goals first
    | exact putSeg_works h _ _
    | exact h

theorem releaseSeg_works {r s : State} (h : Works r s) (i : Nat) : Works r (releaseSeg i s) := by
  unfold releaseSeg
  dsimp only
  repeat' split
  · exact giveAttempt_works (subHoldWaits_works (putSeg_works (closeRole_works h _) _ _) List.erase_sublist) _ _
  · exact putSeg_works (closeRole_works h _) _ _
  · exact clearFault_works (closeRole_works (putSeg_works h _ _) _) _
  · exact h

theorem faultSeg_works {r s : State} (h : Works r s) (i : Nat) : Works r (faultSeg i s) :=
  refuseWaiters_works (putSeg_works h _ _) _

theorem segNotice_works {r s : State} (h : Works r s) (i : Nat) (k : NoticeKind) : Works r (segNotice i k s) := by
  unfold segNotice
  split
  · exact faultSeg_works h _
  · exact faultSeg_works (closeRole_works h _) _
  · exact faultSeg_works h _
  · exact clearFault_works h _
  · exact h

theorem takeHoldReq_works {r s : State} (h : Works r s) (id : ClaimId) (i c : Nat) : Works r (takeHoldReq id i c s) := by
  unfold takeHoldReq
  dsimp only
  repeat' split
  all_goals first
    | exact h
    | exact send_works h _ _
    | exact giveAttempt_works h _ _
    | exact setHoldWaits_works h _ (fun _ => by rw [insertHold_length]; omega) (insertHold_ordered _ rfl _)

theorem takeHoldFree_works {r s : State} (h : Works r s) (id : ClaimId) (i : Nat) : Works r (takeHoldFree id i s) := by
  unfold takeHoldFree
  repeat' split
  · exact h
  · exact releaseSeg_works h _
  · exact subHoldWaits_works h List.filter_sublist

theorem sweepHold_works {r s : State} (h : Works r s) (src inc : Nat) (l : List ClaimItem) (i : Nat) :
    Works r (sweepHold src inc l s i) := by
  unfold sweepHold
  dsimp only
  repeat' split
  all_goals first
    | exact h
    | exact putSeg_works h _ _
    | exact releaseSeg_works h _

/-- The entries that a sweep leaves keep their order. -/
theorem sweepWait_ordered (src inc : Nat) (l : List ClaimItem) {w : List HoldWait} (o : w.Pairwise HoldWait.ahead) :
    (w.filterMap (sweepWait src inc l)).Pairwise HoldWait.ahead := by
  have same : ∀ x y, sweepWait src inc l x = some y → y.cls = x.cls ∧ y.fresh = x.fresh ∧ y.id = x.id := by
    intro x y e
    unfold sweepWait at e
    repeat' split at e
    all_goals first
      | cases e; exact ⟨rfl, rfl, rfl⟩
      | cases e
  refine o.filterMap _ fun x z h x' e z' e' => ?_
  obtain ⟨a1, a2, a3⟩ := same x x' e
  obtain ⟨b1, b2, b3⟩ := same z z' e'
  unfold HoldWait.ahead
  rw [a1, a2, a3, b1, b2, b3]
  exact h

theorem sweepSegments_works {r s : State} (h : Works r s) (src inc : Nat) (l : List ClaimItem) :
    Works r (sweepSegments src inc l s) :=
  Works.fold (fun s i => sweepHold_works (Works.refl s) _ _ _ i) _
    (setHoldWaits_works h _ (fun k => Nat.le_trans (List.length_filterMap_le _ _) k) (sweepWait_ordered src inc l))

theorem dropHold_works {r s : State} (h : Works r s) (a i : Nat) : Works r (dropHold a s i) := by
  unfold dropHold
  repeat' split
  · exact releaseSeg_works h _
  · exact h
  · exact h

theorem peerSegments_works {r s : State} (h : Works r s) (a : Nat) : Works r (peerSegments a s) :=
  Works.fold (fun s i => dropHold_works (Works.refl s) _ i) _
    (subHoldWaits_works h List.filter_sublist)

theorem boundarySegments_works {r s : State} (h : Works r s) : Works r (boundarySegments s) :=
  setHoldWaits_works h _ (by simp) fun o => o.map _ fun _ _ k => k.imp id fun e => ⟨e.1, .inl rfl⟩

/-! ## Claims: creation and requests -/

theorem offerRequest_works {r s : State} (h : Works r s) (c : Claim) : Works r (offerRequest c s) :=
  putClaim_works (offer_works h _) _

/-- A creation is refused and changes nothing, or the list had room. -/
theorem createRefusal_none {s : State} {n : NewClaim} (h : createRefusal s n = none) :
    s.bc.busState = .joined ∧ s.cle.list.length < 8 := by
  unfold createRefusal at h
  repeat' split at h
  all_goals simp_all

theorem createClaim_works {r s : State} (h : Works r s) (n : NewClaim) : Works r (createClaim n s).1 := by
  unfold createClaim
  dsimp only
  split
  · exact h
  · rename_i e
    have k := (createRefusal_none e).2
    exact offerRequest_works (h.cle _ fun _ => by simp; omega) _

theorem repeatRequest_works {r s : State} (h : Works r s) (q : Nat) : Works r (repeatRequest q s) := by
  unfold repeatRequest
  repeat' split
  · exact offerRequest_works h _
  · exact h
  · exact h

/-! ## Tanks -/

theorem fits_room {s : State} {t : Nat} {k : ClaimKind} {c v : Nat} (h : s.fits t k c v = true) :
    (s.tankOf t).grants.length < 8 := by
  unfold State.fits at h
  simp only [Bool.and_eq_true, decide_eq_true_eq] at h
  exact h.1.2

theorem insertTankWait_length (w : TankWait) (l : List TankWait) : (insertTankWait w l).length = l.length + 1 := by
  induction l with
  | nil => rfl
  | cons x l ih =>
    unfold insertTankWait
    split <;> simp [ih]

/-- Where a new entry stands: behind the entries at the head that precede it, before the first that does not (R109). -/
theorem insertTankWait_split (w : TankWait) (l : List TankWait) : ∃ front back, l = front ++ back ∧
    insertTankWait w l = front ++ w :: back ∧ (∀ x ∈ front, x.precedes w.cls w.id.address = true) ∧
    ∀ x, back.head? = some x → x.precedes w.cls w.id.address = false := by
  induction l with
  | nil => exact ⟨[], [], rfl, rfl, by simp, by simp⟩
  | cons x l ih =>
    obtain ⟨f, b, e, i, p, q⟩ := ih
    unfold insertTankWait
    split
    · rename_i h
      exact ⟨x :: f, b, by rw [e]; rfl, by rw [i]; rfl, by simpa [h] using p, q⟩
    · rename_i h
      exact ⟨[], x :: l, rfl, rfl, by simp, by simpa using h⟩

/-- A new entry takes its place in the order (R109). -/
theorem insertTankWait_ordered (w : TankWait) (f : w.fresh = true) (l : List TankWait) (o : l.Pairwise TankWait.ahead) :
    (insertTankWait w l).Pairwise TankWait.ahead := by
  obtain ⟨front, back, rfl, i, p, q⟩ := insertTankWait_split w l
  rw [i]
  rw [List.pairwise_append] at o ⊢
  obtain ⟨o1, o2, o3⟩ := o
  have before : ∀ x ∈ front, x.ahead w := fun x h => by
    have := p x h
    simp [TankWait.precedes] at this
    unfold TankWait.ahead
    simp only [f]
    tauto
  have behind : ∀ y ∈ back, w.ahead y := by
    cases back with
    | nil => simp
    | cons z back =>
      have nz := q z rfl
      simp [TankWait.precedes] at nz
      rw [List.pairwise_cons] at o2
      intro y h
      unfold TankWait.ahead
      rcases List.mem_cons.mp h with rfl | h
      · by_cases e : y.cls = w.cls
        · exact .inr ⟨e.symm, .inr ⟨(nz.2 e).1, by have := (nz.2 e).2; omega⟩⟩
        · exact .inl (by have := nz.1; omega)
      · have r := o2.1 y h
        unfold TankWait.ahead at r
        by_cases e : z.cls = w.cls
        · obtain ⟨n1, n2⟩ := nz.2 e
          rcases r with r | ⟨r1, r2⟩
          · exact .inl (by omega)
          · simp only [n1, Bool.true_eq_false, false_or] at r2
            exact .inr ⟨by omega, .inr ⟨r2.1, by omega⟩⟩
        · exact .inl (by have := nz.1; rcases r with r | r <;> omega)
  refine ⟨o1, List.pairwise_cons.mpr ⟨behind, o2⟩, fun x hx y hy => ?_⟩
  rcases List.mem_cons.mp hy with rfl | hy
  · exact before x hx
  · exact o3 x hx y hy

theorem admitRequest_works {r s : State} (h : Works r s) (t : Nat) (id : ClaimId) (k : ClaimKind) (c v : Nat)
    (room : (s.tankOf t).grants.length < 8) : Works r (admitRequest t id k c v s) :=
  send_works (setGrants_works h _ _ fun _ => by simp; omega) _ _

theorem scanEntry_works {r s : State} (h : Works r s) (w : TankWait) : Works r (scanEntry s w) := by
  unfold scanEntry
  split
  · rename_i f
    exact admitRequest_works (subTankWaits_works h List.erase_sublist) _ _ _ _ _ (fits_room f)
  · exact h

theorem scanQueue_works {r s : State} (h : Works r s) : Works r (scanQueue s) :=
  Works.fold (fun s w => scanEntry_works (Works.refl s) w) _ h

theorem takeClaim_works {r s : State} (h : Works r s) (id : ClaimId) (k : ClaimKind) (t c v : Nat) :
    Works r (takeClaim id k t c v s) := by
  unfold takeClaim
  dsimp only
  repeat' split
  all_goals first
    | exact h
    | exact send_works h _ _
    | exact admitRequest_works h _ _ _ _ _ (fits_room (by assumption))
    | exact setTankWaits_works h _ (fun _ => by rw [insertTankWait_length]; omega) (insertTankWait_ordered _ rfl _)

theorem dropGrants_works {r s : State} (h : Works r s) (p : Grant → Bool) : Works r (dropGrants p s) := by
  refine setGrants_works (setGrants_works h _ _ ?_) _ _ ?_
  · exact fun k => Nat.le_trans (List.length_filter_le _ _) k
  · intro k
    exact Nat.le_trans (List.length_filter_le _ _) k

theorem endGrant_works {r s : State} (h : Works r s) (id : ClaimId) : Works r (endGrant id s) := by
  have k : Works r
      (((dropGrants (·.id == id) s).setTankWaits ((dropGrants (·.id == id) s).tkm.waits.filter (·.id != id))).setMemory
        ((dropGrants (·.id == id) s).tkm.memory.filter (·.id != id))) :=
    setMemory_works (subTankWaits_works (dropGrants_works h _) List.filter_sublist) _
      fun k => Nat.le_trans (List.length_filter_le _ _) k
  unfold endGrant
  dsimp only
  split
  · exact scanQueue_works k
  · exact k

theorem remember_length (x : Revoked) (l : List Revoked) (h : l.length ≤ 8) : (remember x l).length ≤ 8 := by
  unfold remember
  split <;> simp <;> omega

theorem takeBack_works {r s : State} (h : Works r s) (t : Nat) (g : Grant) : Works r (takeBack t g s) :=
  setMemory_works (offer_works (setGrants_works h _ _ fun k => Nat.le_trans List.length_erase_le k) _) _ (remember_length _ _)

theorem revokeClass_works (t k fuel : Nat) {r s : State} (h : Works r s) : Works r (revokeClass t k fuel s) := by
  induction fuel generalizing s with
  | zero => exact h
  | succ n ih =>
    unfold revokeClass
    repeat' split
    · exact ih (takeBack_works h _ _)
    · exact h
    · exact h

theorem revokeInflow_works (t fuel : Nat) {r s : State} (h : Works r s) : Works r (revokeInflow t fuel s) := by
  induction fuel generalizing s with
  | zero => exact h
  | succ n ih =>
    unfold revokeInflow
    repeat' split
    · exact ih (takeBack_works h _ _)
    · exact h
    · exact h

theorem revocationRun_works {r s : State} (h : Works r s) (t : Nat) : Works r (revocationRun t s) :=
  revokeInflow_works _ _ (Works.fold (fun s k => revokeClass_works _ k _ (Works.refl s)) _ h)

theorem examineMemory_works {r s : State} (h : Works r s) (src inc : Nat) (l : List ClaimItem) (m : Revoked) :
    Works r (examineMemory src inc l m s).1 := by
  unfold examineMemory
  dsimp only
  repeat' split
  all_goals first
    | exact h
    | exact offer_works h _

theorem examineEntries_works (src inc : Nat) (l : List ClaimItem) :
    ∀ (m : List Revoked) {r s : State}, Works r s → Works r (examineEntries src inc l m s).1
  | [], _, _, h => h
  | x :: m, _, _, h => examineEntries_works src inc l m (examineMemory_works h src inc l x)

/-- Examining a memory entry changes no entry of the memory itself. -/
theorem examineMemory_tkm (src inc : Nat) (l : List ClaimItem) (m : Revoked) (s : State) :
    (examineMemory src inc l m s).1.tkm = s.tkm := by
  unfold examineMemory offer
  repeat' split
  all_goals rfl

theorem examineEntries_tkm (src inc : Nat) (l : List ClaimItem) :
    ∀ (m : List Revoked) (s : State), (examineEntries src inc l m s).1.tkm = s.tkm
  | [], _ => rfl
  | x :: m, s => (examineEntries_tkm src inc l m _).trans (examineMemory_tkm src inc l x s)

/-- Examining the memory adds no entry. -/
theorem examineEntries_length (src inc : Nat) (l : List ClaimItem) :
    ∀ (m : List Revoked) (s : State), (examineEntries src inc l m s).2.length ≤ m.length
  | [], _ => Nat.le_refl _
  | x :: m, s => by
    have k := examineEntries_length src inc l m (examineMemory src inc l x s).1
    have o : (examineMemory src inc l x s).2.toList.length ≤ 1 := by
      cases (examineMemory src inc l x s).2 <;> simp
    simp only [examineEntries, List.length_append, List.length_cons]
    omega

theorem examineRevoked_works {r s : State} (h : Works r s) (src inc : Nat) (l : List ClaimItem) :
    Works r (examineRevoked src inc l s) :=
  setMemory_works (examineEntries_works src inc l _ h) _ fun k => by
    rw [examineEntries_tkm] at k
    exact Nat.le_trans (examineEntries_length src inc l _ s) k

/-- The entries that a sweep leaves keep their order. -/
theorem examineWait_ordered (own src inc : Nat) (l : List ClaimItem) {w : List TankWait} (o : w.Pairwise TankWait.ahead) :
    (w.filterMap (examineWait own src inc l)).Pairwise TankWait.ahead := by
  have same : ∀ x y, examineWait own src inc l x = some y → y.cls = x.cls ∧ y.fresh = x.fresh ∧ y.id = x.id := by
    intro x y e
    unfold examineWait at e
    repeat' split at e
    all_goals first
      | cases e; exact ⟨rfl, rfl, rfl⟩
      | cases e
  refine o.filterMap _ fun x z h x' e z' e' => ?_
  obtain ⟨a1, a2, a3⟩ := same x x' e
  obtain ⟨b1, b2, b3⟩ := same z z' e'
  unfold TankWait.ahead
  rw [a1, a2, a3, b1, b2, b3]
  exact h

theorem recordTanks_works {r s : State} (h : Works r s) (src inc : Nat) (l : List ClaimItem) :
    Works r (recordTanks src inc l s) := by
  have k1 : Works r (s.setGrants 0 ((s.tankOf 0).grants.filterMap (examineGrant s.ident.address src inc l 0))) :=
    setGrants_works h _ _ fun k => Nat.le_trans (List.length_filterMap_le _ _) k
  have k2 := setGrants_works k1 1 ((s.tankOf 1).grants.filterMap (examineGrant s.ident.address src inc l 1)) (by
    intro k
    refine Nat.le_trans (List.length_filterMap_le _ _) ?_
    simpa [State.tankOf, State.setGrants, State.putTank, look_put] using k)
  have k3 := setTankWaits_works k2 (s.tkm.waits.filterMap (examineWait s.ident.address src inc l))
    (fun k => Nat.le_trans (List.length_filterMap_le _ _) k) (examineWait_ordered _ src inc l)
  unfold recordTanks
  dsimp only
  split
  · exact scanQueue_works (examineRevoked_works k3 _ _ _)
  · exact examineRevoked_works k3 _ _ _

theorem peerTanks_works {r s : State} (h : Works r s) (a : Nat) : Works r (peerTanks a s) :=
  setMemory_works (subTankWaits_works (dropGrants_works h _) List.filter_sublist) _
    fun k => Nat.le_trans (List.length_filter_le _ _) k

/-! ## Automatic fill -/

theorem askFill_works {r s : State} (h : Works r s) (t i : Nat) (src : Source) (v : Nat) : Works r (askFill t i src v s) := by
  unfold askFill
  dsimp only
  split <;> exact putTank_works (createClaim_works h _) _ _ id

theorem attemptFill_works {r s : State} (h : Works r s) (t : Nat) : Works r (attemptFill t s) := by
  have k : Works r (s.putTank t { s.tankOf t with retry := 50 }) := putTank_works h _ _ id
  unfold attemptFill
  dsimp only
  repeat' split
  · exact putTank_works k _ _ id
  · exact askFill_works k _ _ _ _
  · exact putTank_works k _ _ id
  · exact h

theorem fillEvent_works {r s : State} (h : Works r s) (t : Nat) (a b : WindowState) : Works r (fillEvent t a b s) := by
  unfold fillEvent
  repeat' split
  · exact putTank_works h _ _ id
  · exact attemptFill_works h _
  · exact h

theorem setLate_works {r s : State} (h : Works r s) (e : Option LevelEvent) : Works r (s.setLate e) :=
  h.tkm _ (fun _ b => b) id id id

theorem fillLate_works {r s : State} (h : Works r s) : Works r (fillLate s) := by
  unfold fillLate
  split
  · exact fillEvent_works (setLate_works h _) _ _ _
  · exact h

theorem levelEvent_works {r s : State} (h : Works r s) (t : Nat) (run : Bool) (a b : WindowState) :
    Works r (levelEvent t run a b s) := by
  unfold levelEvent
  refine Works.ite (fun _ => ?_) (fun _ => h)
  have k : Works r (if run then revocationRun t s else s) := Works.ite (fun _ => revocationRun_works h _) (fun _ => h)
  exact Works.ite (fun _ => setLate_works k _) (fun _ => fillEvent_works (fillLate_works (scanQueue_works k)) _ _ _)

theorem levelReading_works {r s : State} (h : Works r s) (t : Nat) : Works r (levelReading t s) := by
  unfold levelReading
  dsimp only
  repeat' split
  · exact levelEvent_works (completeLevel_works h _ _) _ _ _ _
  · exact h
  · exact h

theorem swapTank_works {r s : State} (h : Works r s) (t : Nat) : Works r (swapTank t s) := by
  unfold swapTank
  dsimp only
  repeat' split
  · exact revocationRun_works (reclassify_works h _) _
  · exact reclassify_works h _
  · exact h

theorem swapFill_works {r s : State} (h : Works r s) (t : Nat) (w : WindowState) : Works r (swapFill t w s) := by
  unfold swapFill
  split
  · exact fillEvent_works h _ _ _
  · exact h

theorem planSwapped_works {r s : State} (h : Works r s) : Works r (planSwapped s) :=
  swapFill_works (swapFill_works (scanQueue_works (swapTank_works (swapTank_works h _) _)) _ _) _ _

theorem boundaryTanks_works {r s : State} (h : Works r s) : Works r (boundaryTanks s) := by
  have k0 : Works r (s.putTank 0 (tankTimers (s.tankOf 0))) := putTank_works h _ _ id
  have k1 := putTank_works k0 1 (tankTimers ((s.putTank 0 (tankTimers (s.tankOf 0))).tankOf 1)) id
  unfold boundaryTanks
  dsimp only
  refine setTankWaits_works (setMemory_works k1 _ ?_) _ ?_ ?_
  · exact fun k => Nat.le_trans (Nat.le_of_eq (List.length_map _)) k
  · exact fun k => Nat.le_trans (Nat.le_of_eq (List.length_map _)) k
  · exact fun o => o.map _ fun _ _ k => k.imp id fun e => ⟨e.1, .inl rfl⟩

theorem fillOutcome_works {r s : State} (h : Works r s) (t : Nat) (e : EndReason) : Works r (fillOutcome t e s) := by
  unfold fillOutcome
  dsimp only
  split <;> exact putTank_works h _ _ id

/-! ## Train: states and outcomes -/

theorem changeTrain_works {r s : State} (h : Works r s) (a : TrainState) (b : DivertCause) (c : FaultCause) (d : StopCause) :
    Works r (changeTrain a b c d s) := h.trs _

theorem tellTrain_works {r s : State} (h : Works r s) (a : TrainState) : Works r (tellTrain a s) := report_works h _

theorem enterTrain_works {r s : State} (h : Works r s) (a : TrainState) (b : DivertCause) (c : FaultCause) (d : StopCause) :
    Works r (enterTrain a b c d s) := report_works (h.trs _) _

theorem toDiverting_works {r s : State} (h : Works r s) (c : DivertCause) : Works r (toDiverting c s) :=
  enterTrain_works h _ _ _ _

theorem tryStopped_works {r s : State} (h : Works r s) : Works r (tryStopped s) := by
  unfold tryStopped
  split
  · exact enterTrain_works (mapTrs_works h _) _ _ _ _
  · exact h

theorem stopFirst_works {r s : State} (h : Works r s) : Works r (stopFirst s).1 := closeRole_works (closeRole_works h _) _

theorem askFlush_works {r s : State} (h : Works r s) (c : StopCause) : Works r (askFlush c s) := by
  unfold askFlush
  dsimp only
  repeat' split
  all_goals first
    | exact mapTrs_works h _
    | exact mapTrs_works (createClaim_works h _) _

theorem stopLast_works {r s : State} (h : Works r s) (c : StopCause) : Works r (stopLast c s) :=
  tryStopped_works (mapTrs_works (askFlush_works (closeRole_works h _) _) _)

theorem retryWait_works {r s : State} (h : Works r s) (k : Bool) : Works r (retryWait k s) := mapTrs_works h _

theorem failOnce_works {r s : State} (h : Works r s) : Works r (failOnce s) := mapTrs_works h _

theorem nextDest_works {r s : State} (h : Works r s) : Works r (nextDest s) := mapTrs_works h _

theorem askNext_works (fuel : Nat) {r s : State} (h : Works r s) : Works r (askNext fuel s) := by
  induction fuel generalizing s with
  | zero => exact h
  | succ n ih =>
    unfold askNext
    dsimp only
    repeat' split
    · exact mapTrs_works (createClaim_works h _) _
    · exact retryWait_works (failOnce_works (createClaim_works h _)) _
    · exact ih (nextDest_works (failOnce_works (createClaim_works h _)))
    · exact h
    · exact h

theorem stopRevoked_works {r s : State} (h : Works r s) : Works r (stopRevoked s) :=
  stopLast_works (stopFirst_works (enterTrain_works h _ _ _ _)) _

theorem divertAndAsk_works {r s : State} (h : Works r s) : Works r (divertAndAsk s) :=
  tellTrain_works (askNext_works _ (changeTrain_works h _ _ _ _)) _

theorem failedDest_works {r s : State} (h : Works r s) (e : EndReason) : Works r (failedDest e s) :=
  Works.ite (fun _ => failOnce_works h)
    (fun _ => Works.ite (fun _ => retryWait_works (failOnce_works h) _)
      (fun _ => askNext_works _ (nextDest_works (failOnce_works h))))

theorem inflowEffect_works {r s : State} (h : Works r s) (e : EndReason) : Works r (inflowEffect e s) := by
  unfold inflowEffect
  repeat' split
  all_goals first
    | exact h
    | exact askNext_works _ (mapTrs_works h _)
    | exact retryWait_works h _
    | exact failedDest_works h _

theorem runningOutcome_works {r s : State} (h : Works r s) (e : EndReason) : Works r (runningOutcome e s) := by
  have k : Works r (if leavesProducing e s then
      tellTrain .producing (inflowEffect e (changeTrain .diverting .noDestination .none .none s)) else inflowEffect e s) :=
    Works.ite (fun _ => tellTrain_works (inflowEffect_works (changeTrain_works h _ _ _ _) _) _)
      (fun _ => inflowEffect_works h _)
  exact Works.ite (fun _ => stopRevoked_works k) (fun _ => k)

theorem inflowOutcome_works {r s : State} (h : Works r s) (e : EndReason) : Works r (inflowOutcome e s) := by
  unfold inflowOutcome
  dsimp only
  split
  · exact mapTrs_works h _
  · exact runningOutcome_works (mapTrs_works h _) _
  · exact runningOutcome_works (mapTrs_works h _) _
  · exact mapTrs_works (mapTrs_works h _) _

theorem flushOutcome_works {r s : State} (h : Works r s) (e : EndReason) : Works r (flushOutcome e s) := by
  unfold flushOutcome
  dsimp only
  split
  · exact tryStopped_works (mapTrs_works (mapTrs_works h _) _)
  · exact mapTrs_works h _

theorem trainOutcome_works {r s : State} (h : Works r s) (q : Nat) (g : Target) (e : EndReason) :
    Works r (trainOutcome q g e s) := by
  unfold trainOutcome
  repeat' split
  all_goals first
    | exact h
    | exact inflowOutcome_works h _
    | exact flushOutcome_works h _

theorem handOutcome_works {r s : State} (h : Works r s) (c : Claim) (e : EndReason) : Works r (handOutcome c e s) := by
  unfold handOutcome
  split
  · exact h
  · exact fillOutcome_works h _ _
  · exact h
  · exact trainOutcome_works h _ _ _

/-! ## Claims: how they end -/

theorem freeSegs_works {r s : State} (h : Works r s) (q : Nat) (l : List SegId) : Works r (freeSegs q l s) :=
  Works.fold (fun s _ => send_works (Works.refl s) _ _) _ h

theorem finalMessages_works {r s : State} (h : Works r s) (c : Claim) : Works r (finalMessages c s) := by
  unfold finalMessages
  dsimp only
  repeat' split
  · exact freeSegs_works h _ _
  · exact freeSegs_works (freeSegs_works h _ _) _ _
  · exact freeSegs_works h _ _
  · exact freeSegs_works (send_works h _ _) _ _
  · exact freeSegs_works (send_works h _ _) _ _

theorem leaveList_works {r s : State} (h : Works r s) (c : Claim) : Works r (leaveList c s) :=
  handOutcome_works (dropClaim_works (report_works (finalMessages_works h _) _) _) _ _

theorem toClosing_works {r s : State} (h : Works r s) (c : Claim) (e : EndReason) : Works r (toClosing c e s) := by
  unfold toClosing
  dsimp only
  split
  · exact leaveList_works (closeRole_works (putClaim_works h _) _) _
  · exact closeRole_works (putClaim_works h _) _

theorem endClaim_works {r s : State} (h : Works r s) (c : Claim) (e : EndReason) (o : Option OwnerReason) :
    Works r (endClaim c e o s) := by
  unfold endClaim
  split
  · exact toClosing_works h _ _
  · exact h
  · exact leaveList_works h _

theorem endSeq_works {r s : State} (h : Works r s) (e : EndReason) (q : Nat) : Works r (endSeq e s q) := by
  unfold endSeq
  split
  · exact endClaim_works h _ _ _
  · exact h

theorem endWhere_works {r s : State} (h : Works r s) (p : Claim → Bool) (e : EndReason) : Works r (endWhere p e s) :=
  Works.fold (fun s q => endSeq_works (Works.refl s) e q) _ h

theorem stopAll_works {r s : State} (h : Works r s) : Works r (stopAll s) := endWhere_works h _ _

theorem peerClaims_works {r s : State} (h : Works r s) (a : Nat) : Works r (peerClaims a s) := endWhere_works h _ _

theorem recordClaims_works {r s : State} (h : Works r s) (a : Nat) (l : List SegItem) : Works r (recordClaims a l s) :=
  endWhere_works h _ _

theorem overflowClaims_works {r s : State} (h : Works r s) (t : Nat) : Works r (overflowClaims t s) := endWhere_works h _ _

theorem claimNotice_works {r s : State} (h : Works r s) (c : Claim) (k : NoticeKind) : Works r (claimNotice c k s) := by
  unfold claimNotice
  split
  all_goals first
    | exact h
    | exact toClosing_works h _ _
    | exact putClaim_works h _
    | exact leaveList_works h _

theorem cleNotice_works {r s : State} (h : Works r s) (n : Notice) : Works r (cleNotice n s) := by
  unfold cleNotice
  split
  · exact claimNotice_works h _ _
  · exact h

theorem cleNotices_works {r s : State} (h : Works r s) (l : List Notice) : Works r (cleNotices l s) :=
  Works.fold (fun s n => cleNotice_works (Works.refl s) n) _ h

theorem takeHoldGiven_works {r s : State} (h : Works r s) (src q i : Nat) : Works r (takeHoldGiven src q i s) := by
  unfold takeHoldGiven
  dsimp only
  repeat' split
  all_goals first
    | exact h
    | exact offerRequest_works h _
    | exact send_works h _ _

theorem takeHoldRefused_works {r s : State} (h : Works r s) (src q i : Nat) (e : HoldReason) :
    Works r (takeHoldRefused src q i e s) := by
  unfold takeHoldRefused
  repeat' split
  · exact endClaim_works h _ _ _
  · exact h
  · exact h

theorem takeRefuse_works {r s : State} (h : Works r s) (src q : Nat) (e : RefuseReason) : Works r (takeRefuse src q e s) := by
  unfold takeRefuse
  repeat' split
  · exact endClaim_works h _ _ _
  · exact h
  · exact h

theorem takeRevoke_works {r s : State} (h : Works r s) (src q : Nat) : Works r (takeRevoke src q s) := by
  unfold takeRevoke
  repeat' split
  · exact toClosing_works h _ _
  · exact h
  · exact h

theorem productPulse_works {r s : State} (h : Works r s) (c : Claim) (w : Nat) : Works r (productPulse c w s) := by
  unfold productPulse
  split
  · exact mapTrs_works h _
  · exact h

theorem takePulse_works {r s : State} (h : Works r s) (m : Nat) : Works r (takePulse m s) := by
  unfold takePulse
  dsimp only
  repeat' split
  · exact toClosing_works (productPulse_works (putClaim_works h _) _ _) _ _
  · exact productPulse_works (putClaim_works h _) _ _
  · exact h

theorem timeoutClaim_works {r s : State} (h : Works r s) (q : Nat) : Works r (timeoutClaim q s) := by
  unfold timeoutClaim
  repeat' split
  · exact endClaim_works h _ _ _
  · exact h
  · exact h

theorem stallClaim_works {r s : State} (h : Works r s) (q : Nat) : Works r (stallClaim q s) := by
  unfold stallClaim
  repeat' split
  · exact toClosing_works h _ _
  · exact h
  · exact h

/-! ## Train: stops, faults, starts and timed events -/

theorem stopInflow_works {r s : State} (h : Works r s) : Works r (stopInflow s) := by
  unfold stopInflow
  split
  · exact endSeq_works (mapTrs_works h _) _ _
  · exact h

theorem stopFlush_works {r s : State} (h : Works r s) : Works r (stopFlush s) := by
  unfold stopFlush
  split
  · exact endSeq_works h _ _
  · exact h

theorem stopTrain_works {r s : State} (h : Works r s) (c : StopCause) : Works r (stopTrain c s) := by
  unfold stopTrain
  dsimp only
  split
  · exact stopLast_works (stopInflow_works (cleNotices_works (stopFirst_works (enterTrain_works h _ _ _ _)) _)) _
  · exact h

theorem faultTrain_works {r s : State} (h : Works r s) (c : FaultCause) : Works r (faultTrain c s) := by
  unfold faultTrain
  dsimp only
  split
  · exact h
  · exact stopFlush_works (stopInflow_works (cleNotices_works (closeRole_works (closeRole_works (closeRole_works
      (mapTrs_works (enterTrain_works h _ _ _ _) _) _) _) _) _))

theorem divertLost_works {r s : State} (h : Works r s) : Works r (divertLost s) := by
  unfold divertLost
  split
  · exact toDiverting_works h _
  · exact h

theorem trsNotice_works {r s : State} (h : Works r s) (n : Notice) : Works r (trsNotice n s) := by
  unfold trsNotice
  split
  all_goals first
    | exact h
    | exact faultTrain_works h _
    | exact divertLost_works h
    | exact tryStopped_works h

theorem divertNotice_works {r s : State} (h : Works r s) (n : Notice) : Works r (divertNotice s n) :=
  Works.ite (fun _ => trsNotice_works (cleNotice_works h _) _) (fun _ => cleNotice_works (trsNotice_works h _) _)

theorem divertNotices_works {r s : State} (h : Works r s) (l : List Notice) : Works r (divertNotices l s) :=
  Works.fold (fun s n => divertNotice_works (Works.refl s) n) _ h

theorem closeDivert_works {r s : State} (h : Works r s) : Works r (closeDivert s) :=
  divertNotices_works (closeRole_works h _) _

theorem openDivert_works {r s : State} (h : Works r s) : Works r (openDivert s) :=
  divertNotices_works (openRole_works h _) _

theorem startPriming_works {r s : State} (h : Works r s) : Works r (startPriming s) :=
  closeDivert_works (openRole_works (mapTrs_works (enterTrain_works h _ _ _ _) _) _)

theorem toPending_works {r s : State} (h : Works r s) : Works r (toPending s) := enterTrain_works h _ _ _ _

theorem tryPending_works {r s : State} (h : Works r s) : Works r (tryPending s) := by
  unfold tryPending
  split
  · exact toPending_works h
  · exact h

theorem feedChange_works {r s : State} (h : Works r s) (b : Bool) : Works r (feedChange b s) := by
  unfold feedChange
  repeat' split
  all_goals first
    | exact h
    | exact tryPending_works h
    | exact faultTrain_works h _

theorem toRamping_works {r s : State} (h : Works r s) : Works r (toRamping s) :=
  closeDivert_works (openRole_works (mapTrs_works (enterTrain_works (mapTrs_works h _) _ _ _ _) _) _)

theorem budgetTest_works {r s : State} (h : Works r s) : Works r (budgetTest s) := by
  unfold budgetTest
  split
  · exact toRamping_works h
  · exact h

theorem noFeed_works {r s : State} (h : Works r s) : Works r (noFeed s) := by
  unfold noFeed
  split
  · exact faultTrain_works h _
  · exact h

theorem rampComplete_works {r s : State} (h : Works r s) : Works r (rampComplete s) := by
  unfold rampComplete
  split
  · exact mapTrs_works (enterTrain_works h _ _ _ _) _
  · exact h

theorem holdTimeout_works {r s : State} (h : Works r s) : Works r (holdTimeout s) := by
  unfold holdTimeout
  split
  · exact faultTrain_works h _
  · exact h

theorem settleComplete_works {r s : State} (h : Works r s) : Works r (settleComplete s) := by
  unfold settleComplete
  split
  · exact divertAndAsk_works h
  · exact h

theorem settleLimit_works {r s : State} (h : Works r s) : Works r (settleLimit s) := by
  unfold settleLimit
  split
  · exact faultTrain_works h _
  · exact h

theorem excursion_works {r s : State} (h : Works r s) : Works r (excursion s) :=
  mapTrs_works (closeDivert_works (toDiverting_works h _)) _

theorem marginalTimeout_works {r s : State} (h : Works r s) : Works r (marginalTimeout s) := by
  unfold marginalTimeout
  split
  · exact excursion_works h
  · exact h

theorem diversionLimit_works {r s : State} (h : Works r s) : Works r (diversionLimit s) := by
  unfold diversionLimit
  split
  · exact stopInflow_works h
  · exact h

theorem goodResume_works {r s : State} (h : Works r s) : Works r (goodResume s) := by
  unfold goodResume
  repeat' split
  · exact openDivert_works (enterTrain_works h _ _ _ _)
  · exact divertAndAsk_works h
  · exact h

theorem sensorTimeout_works {r s : State} (h : Works r s) : Works r (sensorTimeout s) := by
  unfold sensorTimeout
  split
  · exact faultTrain_works h _
  · exact h

theorem permitTimeout_works {r s : State} (h : Works r s) : Works r (permitTimeout s) := by
  unfold permitTimeout
  split
  · exact stopTrain_works h _
  · exact h

theorem retryEnd_works {r s : State} (h : Works r s) : Works r (retryEnd s) := by
  unfold retryEnd
  split
  · exact askNext_works _ (mapTrs_works h _)
  · exact h

theorem rateEnd_works {r s : State} (h : Works r s) : Works r (rateEnd s) := by
  unfold rateEnd
  split
  · exact mapTrs_works h _
  · exact h

theorem qualityEvent_works {r s : State} (h : Works r s) (a b : WindowState) : Works r (qualityEvent a b s) := by
  unfold qualityEvent
  dsimp only
  split
  · exact excursion_works (mapTrs_works h _)
  · exact mapTrs_works h _

theorem qualityReading_works {r s : State} (h : Works r s) : Works r (qualityReading s) := by
  unfold qualityReading
  dsimp only
  repeat' split
  · exact qualityEvent_works (completeQuality_works h _) _ _
  · exact h
  · exact h

theorem phaseTick_works {r s : State} (h : Works r s) : Works r (phaseTick s) := by
  unfold phaseTick
  dsimp only
  repeat' split
  all_goals first
    | exact h
    | exact mapTrs_works h _
    | exact tryPending_works (openRole_works (mapTrs_works h _) _)
    | exact tryPending_works (mapTrs_works h _)
    | exact mapTrs_works (openRole_works h _) _
    | exact openRole_works h _

theorem clearTrain_works {r s : State} (h : Works r s) : Works r (clearTrain s) :=
  mapTrs_works (enterTrain_works h _ _ _ _) _

/-! ## Field -/

theorem dispatch_works {r s : State} (h : Works r s) (n : Notice) : Works r (dispatch s n) := by
  unfold dispatch
  split
  all_goals first
    | exact cleNotice_works h _
    | exact segNotice_works h _ _
    | exact divertNotice_works h _
    | exact trsNotice_works h _

theorem notify_works {r : State} {x : State × List Notice} (h : Works r x.1) : Works r (notify x) :=
  Works.fold (fun s n => dispatch_works (Works.refl s) n) _ h

theorem flowingNotice_works {r s : State} (h : Works r s) (c : Claim) : Works r (flowingNotice c s) := by
  unfold flowingNotice
  repeat' split
  all_goals first
    | exact h
    | exact closeDivert_works h
    | exact enterTrain_works h _ _ _ _

theorem startFlow_works {r s : State} (h : Works r s) (c : Claim) : Works r (startFlow c s) := by
  unfold startFlow
  dsimp only
  repeat' split
  · exact flowingNotice_works (notify_works (openRole_works (putClaim_works h _) _)) _
  · exact notify_works (openRole_works (putClaim_works h _) _)
  · exact notify_works (openRole_works (putClaim_works h _) _)

theorem takeGrant_works {r s : State} (h : Works r s) (src q : Nat) : Works r (takeGrant src q s) := by
  unfold takeGrant
  dsimp only
  repeat' split
  all_goals first
    | exact h
    | exact startFlow_works h _
    | exact send_works h _ _

theorem revokeOverflow_works {r s : State} (h : Works r s) (t : Nat) : Works r (revokeOverflow t s) :=
  Works.fold (fun s g => takeBack_works (Works.refl s) _ g) _ h

theorem overflowChange_works {r s : State} (h : Works r s) (t : Nat) (b : Bool) : Works r (overflowChange t b s) := by
  unfold overflowChange
  split
  · exact overflowClaims_works (notify_works (closeRole_works (revokeOverflow_works h _) _)) _
  · exact h

theorem contactEvent_works {r s : State} (h : Works r s) (x : ContactRole) (b : Bool) : Works r (contactEvent x b s) := by
  unfold contactEvent
  split
  all_goals first
    | exact notify_works (openLimitChange_works h _ _)
    | exact notify_works (closedLimitChange_works h _ _)
    | exact feedChange_works h _
    | exact overflowChange_works h _ _
    | exact h

theorem dropAll_works {r s : State} (h : Works r s) : Works r (dropAll s) :=
  Works.fold (fun s a => notify_works (dropActuator_works (Works.refl s) a)) _ h

theorem travelTimeEnd_works {r s : State} (h : Works r s) (a : Nat) : Works r (travelTimeEnd a s) := by
  unfold travelTimeEnd
  split
  · rename_i u e
    split
    · exact notify_works (endTravel_works h _ _ (by rw [e]; rfl))
    · exact h
  · exact h

theorem stuckAround_works {r s : State} (h : Works r s) (a : Nat) {f : State → State} (hf : ∀ u, Works r u → Works r (f u)) :
    Works r (stuckAround a f s) := by
  unfold stuckAround
  split
  · rename_i u e
    exact Works.ite (fun _ => notify_works (hf _ (becomeStuck_works h a u .travel (by rw [e]; rfl)))) (fun _ => hf _ h)
  · exact hf _ h

theorem travelStuck_works {r s : State} (h : Works r s) (a : Nat) : Works r (travelStuck a s) :=
  stuckAround_works h a fun _ k => k

theorem restartActuators_works {r s : State} (h : Works r s) : Works r (restartActuators s) :=
  Works.fold (fun s a => notify_works (safeAfresh_works (Works.refl s) a)) _ h

theorem withdrawActuator_works {r s : State} (h : Works r s) (a : Nat) : Works r (withdrawActuator s a) := by
  unfold withdrawActuator
  split
  · exact h
  · exact notify_works (closeReq_works h _)

/-- Every message that is handed on is a working operation (R6, Table 1-3). -/
theorem takeMessage_works {r s : State} (h : Works r s) (src inc : Nat) (b : MsgBody) : Works r (takeMessage src inc b s) := by
  unfold takeMessage
  split
  · split
    all_goals first
      | exact takeHoldReq_works h _ _ _
      | exact takeHoldFree_works h _ _
      | exact takeHoldGiven_works h _ _ _
      | exact takeHoldRefused_works h _ _ _ _
      | exact takeClaim_works h _ _ _ _ _
      | exact takeGrant_works h _ _
      | exact takeRefuse_works h _ _ _
      | exact takeRevoke_works h _ _
      | exact endGrant_works h _
  · exact h

theorem takeMessages_works {r s : State} (h : Works r s) (src inc : Nat) (l : List Message) :
    Works r (takeMessages src inc l s) :=
  Works.fold (fun s _ => Works.ite (fun _ => takeMessage_works (Works.refl s) _ _ _) (fun _ => Works.refl s)) _ h

theorem passRecord_works {r s : State} (h : Works r s) (a inc : Nat) (x : StatusRecord) : Works r (passRecord a inc x s) :=
  sweepSegments_works (recordTanks_works (recordClaims_works h _ _) _ _ _) _ _ _

theorem reportPeer_works {r s : State} (h : Works r s) (a : Nat) (n : PeerNews) : Works r (reportPeer a n s) := by
  unfold reportPeer
  split
  · exact report_works h _
  · exact h

theorem peerGone_works {r s : State} (h : Works r s) (a : Nat) : Works r (peerGone a s) :=
  peerSegments_works (peerTanks_works (peerClaims_works h _) _) _

end Sys2Proof.Machine
end

