-- ==== Sys2Proof/Laws/Commands.lean ====
section
/-!
SUPPORT. What a command does in a ready state, and what an event of the station's own does when it is next due; the bits of time.
-/

namespace Sys2Proof.Machine

/-! ## Ready states -/

/-- The end of the grace comes last: what is due beside it is taken in its order, and then the end of the grace. -/
theorem expiryLast_of_not_mem {l : List Due} (h : .graceExpiry ∉ l) : expiryLast l = l := by
  have n : ∀ e ∈ l, e ≠ .graceExpiry := fun e m k => h (k ▸ m)
  unfold expiryLast
  rw [List.filter_eq_self.2 (by simpa using n), List.filter_eq_nil_iff.2 (by simpa using n), List.append_nil]

theorem expiryLast_cons_expiry {l : List Due} (h : .graceExpiry ∉ l) : expiryLast (.graceExpiry :: l) = l ++ [.graceExpiry] := by
  have n : ∀ e ∈ l, e ≠ .graceExpiry := fun e m k => h (k ▸ m)
  unfold expiryLast
  rw [List.filter_cons_of_neg (by simp), List.filter_cons_of_pos (by simp), List.filter_eq_self.2 (by simpa using n),
    List.filter_eq_nil_iff.2 (by simpa using n)]

@[simp] theorem mem_expiryLast {e : Due} {l : List Due} : e ∈ expiryLast l ↔ e ∈ l := by
  unfold expiryLast
  by_cases h : e = .graceExpiry <;> simp [h]

/-- What is due is taken one event after the other, where the end of the grace is not among it. -/
theorem settle_of_not_mem {s : State} (h : .graceExpiry ∉ s.due) : settle s = s.due.foldl perform (s.setDue []) := by
  unfold settle
  rw [expiryLast_of_not_mem h]

/-- A grace that ends in the millisecond of the command ends after all that the command made due. -/
theorem settle_expiry {s : State} {l : List Due} (d : s.due = .graceExpiry :: l) (h : .graceExpiry ∉ l) :
    settle s = graceExpiry (l.foldl perform (s.setDue [])) := by
  unfold settle
  rw [d, expiryLast_cons_expiry h, List.foldl_append]
  rfl

theorem frameEnded_stays {s : State} (h : s.bc.dormantNext = false) : frameEnded s = s := by
  unfold frameEnded
  rw [if_neg (by simp [h])]

theorem frameEnded_dormant {s : State} (h : s.bc.dormantNext = true) : frameEnded s = enterDormant (settle s) := by
  unfold frameEnded
  rw [if_pos h]

theorem settle_none {s : State} (h : s.due = []) : settle s = s := by
  cases s; simp only at h; subst h; rfl

theorem act_ready {s : State} (h : s.ready) (f : State → State) : act f s = f s := by
  unfold act State.held
  rw [h.1, settle_none h.2]
  rfl

theorem act_held {s : State} (h : s.ident.resetLow = true) (f : State → State) : act f s = s := by
  unfold act State.held
  rw [h]
  rfl

theorem takeDue_next {s : State} {e : Due} {rest : List Due} (h : s.due = e :: rest) :
    takeDue e s = perform (s.setDue rest) e := by
  unfold takeDue
  rw [h]
  simp [takenWith, leftBy]

theorem ownEvent_next {s : State} {e : Due} {rest : List Due} (h : s.dueNext e rest) :
    ownEvent e s = perform (s.setDue rest) e := by
  unfold ownEvent State.held
  rw [h.1, takeDue_next h.2]
  rfl

theorem ownEvent_held {s : State} (h : s.ident.resetLow = true) (e : Due) : ownEvent e s = s := by
  unfold ownEvent State.held
  rw [h]
  rfl

/-! ## Requests -/

/-- A request taken: the state its answer leaves, and the answer at the port. -/
theorem takeRequest_answered (r : Request) (s : State) :
    takeRequest r s = (answer r s).1.answered (answer r s).2 (r == .restart) (takesReport r s) := rfl

theorem answer_allowed {r : Request} {s : State} (h : allowedIn (classOf r) s.bc.busState = true) : answer r s = doRequest r s := by
  unfold answer
  rw [if_pos h]

theorem answer_out_of_state {r : Request} {s : State} (h : allowedIn (classOf r) s.bc.busState = false) :
    answer r s = (s, [4]) := by
  unfold answer
  rw [if_neg (by simp [h])]
  rfl

/-! ## Time -/

/-- Time passing changes the clock, the supply timer and the events due, and nothing else. -/
structure OnlyTime (s t : State) : Prop where
  same : t = { s with bc := { s.bc with clock := t.bc.clock }, port := { s.port with supplyTimer := t.port.supplyTimer },
                      due := t.due }
  rest : s.port.phase = .normal → t.port = s.port ∧ t.due = s.due

/-- Time passes, and the grace ends with it where it ends before the time is over. -/
theorem passSupply_time (ms : Nat) (s : State) :
    ∃ u, OnlyTime s u ∧ (passSupply ms s = u ∨ passSupply ms s = graceExpiry u) := by
  unfold passSupply
  dsimp only
  split
  · rename_i h
    split
    · exact ⟨_, ⟨rfl, fun k => by simp [k] at h⟩, .inr rfl⟩
    · refine ⟨_, ⟨?_, fun k => by simp [k] at h⟩, .inl rfl⟩
      unfold dueIf addDue
      split <;> rfl
  · exact ⟨_, ⟨rfl, fun _ => ⟨rfl, rfl⟩⟩, .inl rfl⟩

theorem timeTo_time (ms : Nat) (s : State) : ∃ u, OnlyTime s u ∧ (timeTo ms s = u ∨ timeTo ms s = graceExpiry u) := by
  unfold timeTo
  split
  · rename_i c hc
    obtain ⟨u, h, e⟩ := passSupply_time (ms - c) (s.setBc { s.bc with clock := some (max c ms) })
    exact ⟨u, ⟨h.same, h.rest⟩, e⟩
  · exact ⟨s, ⟨rfl, fun _ => ⟨rfl, rfl⟩⟩, .inl rfl⟩

/-- Time that ends no grace before it is over passes, and the bus controller stands. -/
theorem passSupply_only {s : State} {ms : Nat}
    (g : s.port.phase = .grace → s.port.supplyTimer < 2000 → s.port.supplyTimer + ms ≤ 2000) :
    OnlyTime s (passSupply ms s) ∧ (passSupply ms s).bc = s.bc := by
  unfold passSupply
  dsimp only
  split
  · rename_i h
    simp only [Bool.and_eq_true, decide_eq_true_eq] at h
    have n := g h.1 h.2
    rw [if_neg (by omega)]
    refine ⟨⟨?_, fun k => by simp [k] at h⟩, ?_⟩
    all_goals unfold dueIf addDue; split <;> rfl
  · exact ⟨⟨rfl, fun _ => ⟨rfl, rfl⟩⟩, rfl⟩

/-- Where the grace does not end before the instant, only time passes, and the clock moves on. -/
theorem timeTo_some {s : State} {c : Nat} (h : s.bc.clock = some c) {ms : Nat} (g : s.graceEnds ms = false) :
    OnlyTime s (timeTo ms s) ∧ (timeTo ms s).bc = { s.bc with clock := some (max c ms) } := by
  have q := passSupply_only (s := s.setBc { s.bc with clock := some (max c ms) }) (ms := ms - c) (fun a b => by
    simp only [State.setBc_port] at a b ⊢
    simpa [State.graceEnds, State.elapsed, h, a, b] using g)
  unfold timeTo
  rw [h]
  exact ⟨⟨q.1.same, q.1.rest⟩, q.2⟩

theorem timeTo_only {s : State} {ms : Nat} (g : s.graceEnds ms = false) : OnlyTime s (timeTo ms s) := by
  cases h : s.bc.clock with
  | none =>
    unfold timeTo
    rw [h]
    exact ⟨rfl, fun _ => ⟨rfl, rfl⟩⟩
  | some c => exact (timeTo_some h g).1

/-- Time that ends no grace before it is over makes at most the end of the grace due. -/
theorem passSupply_due {s : State} {ms : Nat}
    (g : s.port.phase = .grace → s.port.supplyTimer < 2000 → s.port.supplyTimer + ms ≤ 2000) :
    (passSupply ms s).due = s.due ∨ (passSupply ms s).due = s.due ++ [.graceExpiry] := by
  unfold passSupply
  dsimp only
  split
  · rename_i h
    simp only [Bool.and_eq_true, decide_eq_true_eq] at h
    have n := g h.1 h.2
    rw [if_neg (by omega)]
    unfold dueIf addDue
    split
    · exact .inr rfl
    · exact .inl rfl
  · exact .inl rfl

theorem timeTo_due {s : State} {ms : Nat} (g : s.graceEnds ms = false) :
    (timeTo ms s).due = s.due ∨ (timeTo ms s).due = s.due ++ [.graceExpiry] := by
  unfold timeTo
  split
  · rename_i c h
    exact passSupply_due (s := s.setBc { s.bc with clock := some (max c ms) }) (ms := ms - c) (fun a b => by
      simp only [State.setBc_port] at a b ⊢
      simpa [State.graceEnds, State.elapsed, h, a, b] using g)
  · exact .inl rfl

theorem timeTo_bc {s : State} {c : Nat} (h : s.bc.clock = some c) (ms : Nat) (g : s.graceEnds ms = false) :
    (timeTo ms s).bc = { s.bc with clock := some (max c ms) } := (timeTo_some h g).2

/-- A grace that is not running ends at no instant. -/
theorem graceEnds_normal {s : State} (n : s.port.phase = .normal) (ms : Nat) : s.graceEnds ms = false := by
  simp [State.graceEnds, n]

theorem timeTo_normal {s : State} {c : Nat} (h : s.bc.clock = some c) (n : s.port.phase = .normal) (ms : Nat) :
    timeTo ms s = s.setBc { s.bc with clock := some (max c ms) } := by
  unfold timeTo passSupply
  rw [h]
  simp [n]

end Sys2Proof.Machine
end

