-- ==== Sys2Proof/Laws/Stable.lean ====
section
/-!
SUPPORT. Properties of a state that most of the station's operations keep. A `Stable` property is kept by working operations and by changes of the
parts that no law speaks of; a `Plain` one also by changes of the roster, the NWT and the bus state. Each operation that is not a
working one has one lemma here for such properties.
-/

namespace Sys2Proof.Machine

/-- An event of channels, actuators, claims, automatic fill and the train is a working operation. -/
theorem perform_works {r s : State} (h : Works r s) (e : Due) (a : ∀ c, e ≠ .alarmRepeat c) (p : e ≠ .planExchange)
    (g : e ≠ .graceExpiry) : Works r (perform s e) := by
  unfold perform
  split
  case h_3 => exact absurd rfl (a _)
  case h_23 => exact absurd rfl p
  case h_24 => exact absurd rfl g
  · exact levelReading_works h _
  · exact qualityReading_works h
  · exact travelTimeEnd_works h _
  · exact travelStuck_works h _
  · exact repeatRequest_works h _
  · exact timeoutClaim_works h _
  · exact stallClaim_works h _
  · exact attemptFill_works h _
  · exact noFeed_works h
  · exact budgetTest_works h
  · exact rampComplete_works h
  · exact holdTimeout_works h
  · exact settleComplete_works h
  · exact settleLimit_works h
  · exact marginalTimeout_works h
  · exact diversionLimit_works h
  · exact goodResume_works h
  · exact sensorTimeout_works h
  · exact permitTimeout_works h
  · exact retryEnd_works h
  · exact rateEnd_works h

/-- A property kept by working operations and by changes of scanner, cells, plans, pins, events due, and the port and the bus
controller where their queues, the bus state and the failure count stand. -/
structure Stable (P : State → Prop) : Prop where
  works : ∀ {s t}, Works s t → P s → P t
  due : ∀ {s} l, P s → P (s.setDue l)
  fsc : ∀ {s} x, P s → P (s.setFsc x)
  ila : ∀ {s} x, P s → P (s.setIla x)
  pls : ∀ {s} x, P s → P (s.setPls x)
  pins : ∀ {s} x, P s → P (s.setPins x)
  bc : ∀ {s} (x : BusCtl), x.busState = s.bc.busState → x.queue <:+ s.bc.queue →
    (x.failures = s.bc.failures ∨ x.failures ≤ 8) → P s → P (s.setBc x)
  port : ∀ {s} (x : Port), x.ring <:+ s.port.ring → P s → P (s.setPort x)

/-- A property that changes of the roster, the NWT, the bus state and the hold of RESET keep too. -/
structure Plain (P : State → Prop) : Prop extends Stable P where
  roster : ∀ {s} x, P s → P (s.setRoster x)
  nwt : ∀ {s} x, P s → P (s.setNwt x)
  busState : ∀ {s} b, P s → P (s.setBc { s.bc with busState := b })
  warm : ∀ {s}, P s → P (s.setIdent { s.ident with incarnation := nextIncarnation s.ident.incarnation })
  hold : ∀ {s} a b, P s → P (s.setIdent { s.ident with resetLow := a, cold := b })

namespace Stable

variable {P : State → Prop} (k : Stable P)
include k

theorem addDue {s : State} (e : Due) (h : P s) : P (addDue e s) := k.due _ h

theorem dueIf {s : State} (c : Bool) (e : Due) (h : P s) : P (dueIf c e s) := by
  unfold Sys2Proof.Machine.dueIf
  split
  · exact k.due _ h
  · exact h

omit k in
theorem foldl {α : Type} {f : State → α → State} (hf : ∀ s a, P s → P (f s a)) (l : List α) {s : State} (h : P s) :
    P (l.foldl f s) := by
  induction l generalizing s with
  | nil => exact h
  | cons a l ih => exact ih (hf s a h)

theorem sampleTick {s : State} (a b q : Nat) (h : P s) : P (sampleTick a b q s) :=
  k.dueIf _ _ (k.dueIf _ _ (k.dueIf _ _ (k.works (Works.mch (Works.refl s) _) h)))

theorem sampleContact {s : State} (c : Nat) (b : Bool) (h : P s) : P (sampleContact c b s).1 := by
  unfold Sys2Proof.Machine.sampleContact
  dsimp only
  repeat' split
  · exact h
  · exact k.works (report_works (Works.refl _) _) (k.fsc _ h)
  · exact k.fsc _ h

theorem contactStep {s : State} (b : Bool) (c : Nat) (h : P s) : P (contactStep b c s) := by
  unfold Sys2Proof.Machine.contactStep
  dsimp only
  split
  · exact k.works (contactEvent_works (Works.refl _) _ _) (k.sampleContact _ _ h)
  · exact k.sampleContact _ _ h

theorem sampleGroup {s : State} (g : Nat) (x : Byte) (h : P s) : P (sampleGroup g x s) := by
  have q : P ((List.range 8).foldl (fun s r => Sys2Proof.Machine.contactStep (x.getLsbD r) (8 * g + r) s) s) :=
    Stable.foldl (fun _ _ h => k.contactStep _ _ h) _ h
  unfold Sys2Proof.Machine.sampleGroup
  dsimp only
  split
  · exact k.works (scanQueue_works (Works.refl _)) q
  · exact q

theorem scanAlarms {s : State} (h : P s) : P (scanAlarms s) := by
  refine Stable.foldl (fun s c h => ?_) _ h
  unfold alarmScan
  dsimp only
  split
  · exact k.dueIf _ _ (k.fsc _ h)
  · exact h

theorem scanActuators {s : State} (h : P s) : P (scanActuators s) := by
  refine Stable.foldl (fun s a h => ?_) _ h
  unfold travelScan
  dsimp only
  split
  · rename_i e
    simp only [Bool.and_eq_true] at e
    have w := k.works (putAct_works (Works.refl s) a { s.actOf a with timer := (s.actOf a).timer + 1 } e.1) h
    split
    · exact k.due _ w
    · exact k.dueIf _ _ w
  · exact h

theorem scanComplete {s : State} (p : Bool) (h : P s) : P (scanComplete p s) :=
  k.works (dropAll_works (Works.refl _)) (k.ila _ (k.scanActuators (k.scanAlarms h)))

theorem repeatAlarm {s : State} (c : Nat) (h : P s) : P (repeatAlarm c s) := by
  unfold Sys2Proof.Machine.repeatAlarm
  dsimp only
  split
  · exact k.fsc _ (k.works (report_works (Works.refl s) _) h)
  · exact h

theorem planExchange {s : State} (h : P s) : P (planExchange s) := by
  unfold Sys2Proof.Machine.planExchange
  dsimp only
  split
  · exact k.works (planSwapped_works (report_works (Works.refl _) _)) (k.pls _ h)
  · exact h

/-- An event of the station's own, the end of the grace apart. -/
theorem perform {s : State} (e : Due) (n : e ≠ .graceExpiry) (h : P s) : P (perform s e) := by
  by_cases a : ∀ c, e ≠ .alarmRepeat c
  · by_cases p : e = .planExchange
    · subst p; exact k.planExchange h
    · exact k.works (perform_works (Works.refl s) e a p n) h
  · obtain ⟨c, rfl⟩ := Classical.not_forall_not.mp a
    exact k.repeatAlarm c h

/-! ## The boundary's blocks -/

theorem boundaryClaims {s : State} (h : P s) : P (boundaryClaims s) := by
  unfold Sys2Proof.Machine.boundaryClaims
  dsimp only
  exact k.due _ (k.works (setClaims_works (Works.refl s) _ (by simp)) h)

theorem fillDue {s : State} (t : Nat) (h : P s) : P (fillDue t s) := k.dueIf _ _ h

theorem boundaryTrain {s : State} (p : Bool) (h : P s) : P (boundaryTrain p s) := by
  unfold Sys2Proof.Machine.boundaryTrain
  dsimp only
  exact k.due _ (k.works (phaseTick_works (mapTrs_works (Works.refl s) _)) h)

theorem boundaryBlocks {s : State} (p : Bool) (h : P s) : P (boundaryBlocks p s) :=
  k.boundaryTrain _ (k.fillDue _ (k.fillDue _ (k.boundaryClaims (k.works
    (boundarySegments_works (boundaryTanks_works (Works.refl _))) (k.dueIf _ _ h)))))

theorem takeover {s : State} (h : P s) : P (takeover s) :=
  k.works (report_works (Works.refl _) _) (k.bc _ rfl (List.suffix_refl _) (.inl rfl) h)

theorem testTakeover {s : State} (src : BoundarySource) (h : P s) : P (testTakeover src s) := by
  unfold Sys2Proof.Machine.testTakeover
  repeat' split
  all_goals first
    | exact h
    | exact k.takeover h

theorem yieldMark {s : State} (src : BoundarySource) (h : P s) : P (yieldMark src s) := by
  unfold Sys2Proof.Machine.yieldMark
  repeat' split
  all_goals first
    | exact h
    | exact k.bc _ rfl (List.suffix_refl _) (.inl rfl) h

theorem openRound {s : State} (src : BoundarySource) (h : P s) : P (openRound src s) := by
  unfold Sys2Proof.Machine.openRound
  split <;> exact k.bc _ rfl (List.suffix_refl _) (.inl rfl) h

theorem openSlots {s : State} (now : Nat) (h : P s) : P (openSlots now s) := k.bc _ rfl (List.suffix_refl _) (.inl rfl) h

theorem reportPeer {s : State} (a : Nat) (n : PeerNews) (h : P s) : P (reportPeer a n s) :=
  k.works (reportPeer_works (Works.refl s) a n) h

theorem peerGone {s : State} (a : Nat) (h : P s) : P (peerGone a s) := k.works (peerGone_works (Works.refl s) a) h

theorem scanQueue {s : State} (h : P s) : P (scanQueue s) := k.works (scanQueue_works (Works.refl s)) h

theorem passRecord {s : State} (a inc : Nat) (r : StatusRecord) (h : P s) : P (passRecord a inc r s) :=
  k.works (passRecord_works (Works.refl s) a inc r) h

theorem takeMessages {s : State} (a inc : Nat) (l : List Message) (h : P s) : P (takeMessages a inc l s) :=
  k.works (takeMessages_works (Works.refl s) a inc l) h

theorem sendMark {s : State} (h : P s) : P (sendMark s) := by
  unfold Sys2Proof.Machine.sendMark
  dsimp only
  split <;> exact k.bc _ rfl (List.suffix_refl _) (.inl rfl) h

/-! ## The local port -/

theorem selFalls {s : State} (h : P s) : P (selFalls s) := by
  unfold Sys2Proof.Machine.selFalls
  split
  · exact k.port _ (List.suffix_refl _) h
  · exact h

theorem reportTaken {s : State} (h : P s) : P (reportTaken s) := by
  unfold Sys2Proof.Machine.reportTaken
  split
  · exact k.port _ (List.tail_suffix _) h
  · exact h

/-- A request that is neither SETUP-WRITE nor RUN. -/
theorem answer {s : State} (r : Request) (h : P s) (n : ∀ i j c, r ≠ .setupWrite i j c) (m : r ≠ .run) : P (answer r s).1 := by
  unfold Sys2Proof.Machine.answer
  split
  · unfold doRequest
    split
    all_goals first
      | exact absurd rfl (n _ _ _)
      | exact absurd rfl m
      | exact h
      | skip
    · exact k.works (createClaim_works (Works.refl s) _) h
    · exact k.works (createClaim_works (Works.refl s) _) h
    · unfold askStop
      split
      · exact k.works (endSeq_works (Works.refl s) _ _) h
      · exact h
    · unfold askStart
      dsimp only
      repeat' split
      all_goals first
        | exact k.works (startPriming_works (Works.refl _)) (k.pins _ h)
        | exact k.pins _ h
    · unfold askTrainStop
      split
      · exact h
      · exact k.works (stopTrain_works (Works.refl s) _) h
    · unfold askClear
      repeat' split
      · exact h
      · exact k.works (clearTrain_works (Works.refl s)) h
      · exact h
    · unfold askPlanWrite
      repeat' split
      all_goals first
        | exact h
        | exact k.pls _ h
    · unfold askSwap
      repeat' split
      all_goals first
        | exact h
        | exact k.pls _ h
    · exact k.port _ (List.suffix_refl _) h
  · exact h

end Stable

end Sys2Proof.Machine
end

