-- ==== Sys2Proof/Laws/Plain.lean ====
section
/-!
SUPPORT. Plain properties (Laws/Stable.lean) through resets, withdrawals, the roster, boundaries and own frames, and through every command that
leaves the setup and the address alone.
-/

namespace Sys2Proof.Machine

namespace Plain

variable {P : State → Prop} (k : Plain P)
include k

theorem putRoster {s : State} (a : Nat) (e : RosterEntry) (h : P s) : P (s.putRoster a e) := by
  unfold State.putRoster
  split
  · exact h
  · exact k.roster _ h

theorem putNwt {s : State} (a : Nat) (e : Option NwtEntry) (h : P s) : P (s.putNwt a e) := by
  unfold State.putNwt
  split
  · exact h
  · exact k.nwt _ h

theorem dropOwn {s : State} (h : P s) : P (dropOwn s) := k.putNwt _ _ (k.putRoster _ _ h)

theorem dropSwap {s : State} (h : P s) : P (dropSwap s) := k.pls _ h

theorem forgetPeers {s : State} (h : P s) : P (forgetPeers s) := k.nwt _ (k.roster _ h)

/-- The bus controller with another bus state, its queue and its failure count kept or reset. -/
theorem bcAny {s : State} (x : BusCtl) (q : x.queue <:+ s.bc.queue) (f : x.failures = s.bc.failures ∨ x.failures ≤ 8)
    (h : P s) : P (s.setBc x) :=
  k.bc (s := s.setBc { s.bc with busState := x.busState }) x rfl q f (k.busState x.busState h)

theorem empty {s : State} (g : Segments) (hg : g.waits = []) (h : P s) :
    P (((s.setClaims []).setTkm Tanks.initial).setSga g) := by
  refine k.works (Works.sga (Works.tkm (setClaims_works (Works.refl s) [] (by simp)) Tanks.initial ?_ ?_ ?_ ?_) g (by simp [hg])
    (by simp [hg])) h
  · intro t _
    have : look Tanks.initial.tank TankState.initial t = TankState.initial := by
      unfold look Tanks.initial
      match t with
      | 0 => rfl
      | 1 => rfl
      | _ + 2 => rfl
    rw [this]
    simp [TankState.initial]
  iterate 3 simp [Tanks.initial]

theorem mchTrs {s : State} (t : Train) (m : Channels) (h : P s) : P ((s.setTrs t).setMch m) :=
  k.works (Works.mch (Works.trs (Works.refl s) t) m) h

theorem withdrawAll {s : State} (h : P s) : P ((List.range 12).foldl withdrawActuator s) :=
  k.works (Works.fold (fun s a => withdrawActuator_works (Works.refl s) a) _ (Works.refl s)) h

theorem silentPort {s : State} (h : P s) : P ((Sys2Proof.Machine.dropSwap s).setPort s.port.silent) :=
  k.port _ (List.suffix_refl _) (k.dropSwap h)

theorem enterSilent {s : State} (c : BusNews) (h : P s) : P (enterSilent c s) := by
  unfold Sys2Proof.Machine.enterSilent
  dsimp only
  apply k.works (report_works (Works.refl _) _)
  apply k.silentPort
  apply k.withdrawAll
  apply k.mchTrs
  apply k.empty _ rfl
  apply k.dropOwn
  exact k.bcAny _ List.nil_suffix (.inl rfl) h

theorem dormantActuators {s : State} (h : P s) : P (dormantActuators s) := by
  refine Stable.foldl (fun s a h => ?_) _ h
  split
  · rename_i e
    exact k.works (putAct_works (Works.refl s) _ _ e) h
  · exact h

theorem enterDormant {s : State} (h : P s) : P (enterDormant s) := by
  unfold Sys2Proof.Machine.enterDormant
  dsimp only
  apply k.due
  apply k.port _ List.nil_suffix
  apply k.dropSwap
  apply k.ila
  apply k.fsc
  apply k.dormantActuators
  apply k.mchTrs
  apply k.empty _ rfl
  apply k.forgetPeers
  exact k.bcAny _ List.nil_suffix (.inl rfl) h

theorem enterHolding {s : State} (b : Bool) (h : P s) : P (enterHolding b s) := by
  have q : P (markLeaving ((s.setBc { s.bc with busState := .holding }).setPort
      { s.port with phase := .grace, supplyTimer := 0 })) :=
    k.putRoster _ _ (k.port _ (List.suffix_refl _) (k.busState _ h))
  unfold Sys2Proof.Machine.enterHolding
  dsimp only
  split
  · exact k.works (stopAll_works (stopTrain_works (Works.refl _) _)) q
  · exact k.works (stopTrain_works (stopAll_works (Works.refl _)) _) q

theorem leaveHolding {s : State} (h : P s) : P (leaveHolding s) := k.port _ (List.suffix_refl _) (k.busState _ h)

theorem graceExpiry {s : State} (h : P s) : P (graceExpiry s) := by
  unfold Sys2Proof.Machine.graceExpiry
  dsimp only
  repeat' split
  · exact k.bc _ rfl (List.suffix_refl _) (.inl rfl) h
  · exact k.enterDormant h
  · exact h

theorem restOfGrace {s : State} (h : P s) : P (restOfGrace s) := by
  unfold Sys2Proof.Machine.restOfGrace
  split
  · exact k.port _ (List.suffix_refl _) h
  · exact h

theorem passSupply {s : State} (ms : Nat) (h : P s) : P (passSupply ms s) := by
  have q : P (s.setPort { s.port with supplyTimer := min 2000 (s.port.supplyTimer + ms) }) :=
    k.port _ (List.suffix_refl _) h
  unfold Sys2Proof.Machine.passSupply
  dsimp only
  repeat' split
  · exact k.graceExpiry q
  · exact k.dueIf _ _ q
  · exact h

theorem timeTo {s : State} (ms : Nat) (h : P s) : P (timeTo ms s) := by
  unfold Sys2Proof.Machine.timeTo
  split
  · exact k.passSupply _ (k.bc _ rfl (List.suffix_refl _) (.inl rfl) h)
  · exact h

theorem perform {s : State} (e : Due) (h : P s) : P (perform s e) := by
  by_cases n : e = .graceExpiry
  · subst n; exact k.graceExpiry h
  · exact k.toStable.perform e n h

theorem settle {s : State} (h : P s) : P (settle s) := Stable.foldl (fun _ e h => k.perform e h) _ (k.due _ h)

theorem act {s : State} {f : State → State} (hf : ∀ s, P s → P (f s)) (h : P s) : P (act f s) := by
  unfold Sys2Proof.Machine.act
  split
  · exact h
  · exact hf _ (k.settle h)

theorem beforeStuck {s : State} (a : Nat) {f : State → State} (hf : ∀ r u, Works r u → Works r (f u)) (h : P s) :
    P (beforeStuck a f s) := by
  unfold Sys2Proof.Machine.beforeStuck
  split
  · exact k.works (stuckAround_works (Works.refl _) a (hf _)) (k.settle (k.due _ h))
  · exact k.works (hf _ _ (Works.refl _)) (k.settle h)

theorem ownEvent {s : State} (e : Due) (h : P s) : P (ownEvent e s) := by
  unfold Sys2Proof.Machine.ownEvent
  split
  · exact h
  · unfold takeDue
    split
    · exact Stable.foldl (fun _ e h => k.perform e h) _ (k.due _ h)
    · exact h

theorem restartActuators {s : State} (h : P s) : P (restartActuators s) := k.works (restartActuators_works (Works.refl s)) h

theorem warmReset {s : State} (h : P s) : P (warmReset s) := by
  unfold Sys2Proof.Machine.warmReset
  dsimp only
  split
  · apply k.restartActuators
    apply k.due
    apply k.port _ List.nil_suffix
    apply k.dropSwap
    apply k.ila
    apply k.works (Works.trs (Works.refl _) _)
    apply k.empty _ rfl
    apply k.fsc
    apply k.works (Works.mch (Works.refl _) _)
    apply k.forgetPeers
    exact k.bcAny _ List.nil_suffix (.inr (Nat.zero_le _)) (k.warm h)
  · apply k.due
    apply k.port _ List.nil_suffix
    apply k.dropSwap
    apply k.ila
    apply k.works (Works.trs (Works.refl _) _)
    apply k.empty _ rfl
    apply k.fsc
    apply k.works (Works.mch (Works.refl _) _)
    apply k.forgetPeers
    exact k.bcAny _ List.nil_suffix (.inr (Nat.zero_le _)) (k.warm h)

/-! ## Roster, NWT and frames heard -/

theorem takeHeader {s : State} (a inc : Nat) (b : Bool) (h : P s) : P (takeHeader a inc b s) := by
  have q : P (s.putRoster a ⟨.present, inc, s.bc.round, 0, b⟩) := k.putRoster _ _ h
  unfold Sys2Proof.Machine.takeHeader
  dsimp only
  repeat' split
  · exact k.reportPeer _ _ q
  · exact q
  · exact k.scanQueue (k.peerGone _ (k.reportPeer _ _ q))

theorem takeRecord {s : State} (a inc : Nat) (r : Word) (x : StatusRecord) (h : P s) : P (takeRecord a inc r x s) :=
  k.passRecord _ _ _ (k.putNwt _ _ h)

theorem takeFrame {s : State} (f : StationFrame) (h : P s) : P (takeFrame f s) :=
  k.takeMessages _ _ _ (k.takeRecord _ _ _ _ (k.takeHeader _ _ _ (k.bc _ rfl (List.suffix_refl _) (.inl rfl) h)))

theorem clash {s : State} (h : P s) : P (clash s) := by
  unfold Sys2Proof.Machine.clash
  repeat' split
  · exact h
  · exact k.works (report_works (Works.refl _) _) (k.bc _ rfl (List.suffix_refl _) (.inl rfl) h)
  · exact k.enterSilent _ (k.works (report_works (Works.refl s) _) h)
  · exact k.enterSilent _ (k.works (report_works (Works.refl s) _) h)
  · exact h

theorem frameHeard {s : State} (f : StationFrame) (a b : Nat) (h : P s) : P (frameHeard f a b s) := by
  unfold Sys2Proof.Machine.frameHeard
  dsimp only
  repeat' split
  · exact k.clash (k.timeTo _ h)
  · exact k.clash h
  · exact k.takeFrame _ (k.timeTo _ h)
  · exact k.timeTo _ h
  · exact h

theorem missSlot {s : State} (ran a : Nat) (h : P s) : P (missSlot ran s a) := by
  unfold Sys2Proof.Machine.missSlot
  dsimp only
  repeat' split
  · exact h
  · exact h
  · exact k.putNwt _ _ (k.putRoster _ _ h)
  · exact k.putRoster _ _ h
  · exact k.peerGone _ (k.reportPeer _ _ (k.putNwt _ _ (k.putRoster _ _ h)))

theorem missedSlots {s : State} (ran : Nat) (h : P s) : P (missedSlots ran s) := by
  have q : P (addresses.foldl (Sys2Proof.Machine.missSlot ran) s) := Stable.foldl (fun _ a h => k.missSlot ran a h) _ h
  unfold Sys2Proof.Machine.missedSlots
  dsimp only
  split
  · exact k.scanQueue q
  · exact q

theorem join {s : State} (h : P s) : P (join s) := by
  unfold Sys2Proof.Machine.join
  dsimp only
  split
  · apply k.enterHolding
    apply k.takeRecord
    apply k.putRoster
    exact k.busState _ h
  · apply k.takeRecord
    apply k.putRoster
    exact k.busState _ h

theorem countListen {s : State} (h : P s) : P (countListen s) := by
  have q : P (s.setBc { s.bc with listenCount := s.bc.listenCount - 1 }) :=
    k.bc _ rfl (List.suffix_refl _) (.inl rfl) h
  unfold Sys2Proof.Machine.countListen
  dsimp only
  repeat' split
  · exact k.join q
  · exact q
  · exact h

theorem boundary {s : State} (src : BoundarySource) (ran now : Nat) (p : Bool) (h : P s) : P (boundary src ran now p s) := by
  have q := k.openRound src (k.pins { s.pins with permit := p } h)
  unfold Sys2Proof.Machine.boundary
  dsimp only
  refine k.boundaryBlocks _ (k.testTakeover _ ?_)
  split
  · exact k.countListen (k.openSlots _ (k.yieldMark _ (k.missedSlots _ q)))
  · exact k.openSlots _ (k.yieldMark _ q)

/-! ## Own frames -/

omit k in
theorem takeQueue_suffix (n room : Nat) (l : List Message) : (takeQueue n room l).1 ++ (takeQueue n room l).2 = l := by
  induction n generalizing room l with
  | zero => rfl
  | succ n ih =>
    cases l with
    | nil => rfl
    | cons m l =>
      unfold takeQueue
      dsimp only
      split
      · simp [ih]
      · rfl

theorem startSlot {s : State} (h : P s) : P (startSlot s) := by
  unfold Sys2Proof.Machine.startSlot
  dsimp only
  refine k.takeRecord _ _ _ _ (k.putRoster _ _ (k.bc _ rfl ?_ (.inl rfl) h))
  exact ⟨_, takeQueue_suffix _ _ _⟩

theorem frameEnded {s : State} (h : P s) : P (frameEnded s) := by
  unfold Sys2Proof.Machine.frameEnded
  split
  · exact k.enterDormant (k.settle h)
  · exact h

theorem frameFailed {s : State} (h : P s) : P (frameFailed s) := by
  have q : P (s.setBc { s.bc with failures := min 8 (s.bc.failures + 1), line := none }) :=
    k.bc _ rfl (List.suffix_refl _) (.inr (Nat.min_le_left _ _)) h
  have r : P (if 8 ≤ s.bc.failures + 1 then
      Sys2Proof.Machine.enterSilent .silentReadback (s.setBc { s.bc with failures := min 8 (s.bc.failures + 1), line := none })
      else s.setBc { s.bc with failures := min 8 (s.bc.failures + 1), line := none }) := by
    split
    · exact k.enterSilent _ q
    · exact q
  unfold Sys2Proof.Machine.frameFailed
  dsimp only
  split
  · exact k.enterDormant r
  · exact r

theorem mismatch {s : State} (h : P s) : P (mismatch s) := by
  unfold Sys2Proof.Machine.mismatch
  split
  · exact k.frameFailed h
  · exact k.frameEnded (k.bc _ rfl (List.suffix_refl _) (.inl rfl) h)
  · exact h

theorem frameGood {s : State} (h : P s) : P (frameGood s) := by
  have q : P (s.setBc { s.bc with failures := 0, line := none }) :=
    k.bc _ rfl (List.suffix_refl _) (.inr (Nat.zero_le _)) h
  unfold Sys2Proof.Machine.frameGood
  dsimp only
  repeat' split
  · exact k.enterDormant q
  · exact k.takeMessages _ _ _ q
  · exact h

/-! ## Commands -/

theorem ownSlot {s : State} (h : P s) : P (ownSlot s) := by
  unfold Sys2Proof.Machine.ownSlot
  dsimp only
  repeat' split
  · exact k.startSlot (k.timeTo _ h)
  · exact k.timeTo _ h
  · exact h

theorem markNow {s : State} (h : P s) : P (markNow s) := by
  unfold Sys2Proof.Machine.markNow
  dsimp only
  repeat' split
  · exact k.sendMark (k.timeTo _ h)
  · exact k.timeTo _ h
  · exact h

theorem markHeard {s : State} (r : Word) (a ms : Nat) (p : Bool) (h : P s) : P (markHeard r a ms p s) := by
  unfold Sys2Proof.Machine.markHeard
  repeat' split
  · exact k.frameEnded (k.boundary _ _ _ _ (k.bc _ rfl (List.suffix_refl _) (.inl rfl) h))
  · exact k.clash h
  · exact k.boundary _ _ _ _ h

/-- Time passes to an instant, where the station hears the bus. -/
theorem hearTo {s : State} (ms : Nat) (h : P s) : P (if s.hearing then Sys2Proof.Machine.timeTo ms s else s) := by
  split
  · exact k.timeTo _ h
  · exact h

theorem takeMark {s : State} (l : List Byte) (ms : Nat) (p : Bool) (h : P s) : P (takeMark l ms p s) := by
  have q := k.hearTo ms h
  unfold Sys2Proof.Machine.takeMark
  dsimp only
  split
  · generalize (if s.hearing then Sys2Proof.Machine.timeTo ms s else s) = v at q ⊢
    split
    · exact k.markHeard _ _ _ _ q
    · exact q
  · exact h

theorem roundTimer {s : State} (p : Bool) (h : P s) : P (roundTimer p s) := by
  have q := k.hearTo 104 h
  unfold Sys2Proof.Machine.roundTimer
  dsimp only
  generalize (if s.hearing then Sys2Proof.Machine.timeTo 104 s else s) = v at q ⊢
  split
  · exact k.boundary _ _ _ _ q
  · exact q

theorem takeStation {s : State} (l : List Byte) (a b : Nat) (h : P s) : P (takeStation l a b s) := by
  unfold Sys2Proof.Machine.takeStation
  repeat' split
  · exact k.frameHeard _ _ _ h
  · exact h
  · exact h

theorem recordAlone {s : State} (a inc : Nat) (r : Word) (x : StatusRecord) (h : P s) : P (recordAlone a inc r x s) := by
  unfold Sys2Proof.Machine.recordAlone
  split
  · exact k.takeRecord _ _ _ _ h
  · exact h

theorem groupSampling {s : State} (x : Byte) (p f : Bool) (h : P s) : P (groupSampling x p f s) := by
  have q : P (nextGroup (s.setPins { s.pins with permit := p })) := k.fsc _ (k.pins _ h)
  unfold Sys2Proof.Machine.groupSampling
  dsimp only
  repeat' split
  · exact k.sampleGroup _ _ q
  · exact k.fsc _ (k.sampleGroup _ _ (k.settle (k.scanComplete _ q)))
  · exact k.fsc _ (k.scanComplete _ (k.sampleGroup _ _ q))

omit k in
theorem clockOut_ring (p : Port) : p.clockOut.ring <:+ p.ring := by
  unfold Port.clockOut
  dsimp only
  repeat' split
  · exact List.tail_suffix _
  · exact List.suffix_refl _
  · exact List.suffix_refl _

theorem resetFalls {s : State} (h : P s) : P (resetFalls s) := k.hold _ _ (k.warmReset h)

theorem selRises {s : State} (h : P s) : P (selRises s) := by
  unfold Sys2Proof.Machine.selRises
  dsimp only
  split
  · exact k.warmReset (k.port _ (List.suffix_refl _) h)
  · exact k.port _ (List.suffix_refl _) h

theorem supplyFails {s : State} (b : Bool) (h : P s) : P (supplyFails b s) := by
  unfold Sys2Proof.Machine.supplyFails
  split
  · exact k.enterHolding _ h
  · exact h

theorem supplyReturns {s : State} (h : P s) : P (supplyReturns s) := by
  unfold Sys2Proof.Machine.supplyReturns
  split
  · exact k.leaveHolding h
  · exact h

theorem takeRequest {s : State} (r : Request) (h : P (answer r s).1) : P (takeRequest r s) :=
  k.port _ (List.suffix_refl _) h

/-- Every command but those of power, of RESET's cold half and rise, of SETUP-WRITE and RUN, and the clocked byte. -/
theorem exec {s : State} (c : Instr) (h : P s) (w : writesSetup c = false) (b : ∀ x, c ≠ .resetRise x) :
    ∃ t, Sys2Proof.Machine.exec c s = .next t ∧ P t := by
  cases c
  case powerOn | coldReset | setupWrite | run | portByteClocked => simp [writesSetup] at w
  case resetRise x => exact absurd rfl (b x)
  case ownSlotStart f =>
    refine ⟨_, rfl, ?_⟩
    split
    · exact k.ownSlot h
    · exact k.act (fun _ h => k.ownSlot h) h
  case holdFree src inc seq index =>
    refine ⟨_, rfl, ?_⟩
    split
    · split
      · exact h
      · exact k.beforeStuck _ (fun _ _ w => takeMessage_works w _ _ _) h
    · exact k.act (fun s h => k.works (takeMessage_works (Works.refl s) _ _ _) h) h
  case supplyLowAsserted f => exact ⟨_, rfl, k.act (fun _ h => k.supplyFails _ h) (k.pins _ h)⟩
  case supplyLowReleased => exact ⟨_, rfl, k.pins _ (k.act (fun _ h => k.supplyReturns h) h)⟩
  case sampleClockTick =>
    refine ⟨_, rfl, k.act (fun _ h => ?_) h⟩
    split
    · exact k.sampleTick _ _ _ h
    · exact h
  case groupSample =>
    refine ⟨_, rfl, k.act (fun _ h => ?_) h⟩
    split
    · exact k.groupSampling _ _ _ h
    · exact h
  all_goals first
    | exact ⟨_, rfl, k.ownEvent _ h⟩
    | refine ⟨_, rfl, k.act (fun s h => ?_) h⟩
  all_goals first
    | exact k.works (takeMessage_works (Works.refl s) _ _ _) h
    | exact k.takeRequest _ (k.answer _ h (by intros; exact nofun) (by exact nofun))
    | exact k.resetFalls h
    | exact k.graceExpiry (k.restOfGrace h)
    | exact k.markNow h
    | exact k.mismatch h
    | exact k.frameGood h
    | exact k.takeMark _ _ _ h
    | exact k.roundTimer _ h
    | exact k.takeStation _ _ _ h
    | exact k.recordAlone _ _ _ _ h
    | exact k.works (takePulse_works (Works.refl s) _) h
    | exact k.selFalls h
    | exact k.selRises h
    | exact k.reportTaken h

theorem idle {s : State} (h : P s) : P (idle s) := by
  unfold Sys2Proof.Machine.idle
  split
  · exact h
  · unfold tickMs
    repeat' split
    · exact k.timeTo _ (k.settle h)
    · exact k.passSupply _ (k.settle h)
    · exact k.passSupply _ (k.settle h)

/-! ## Commands that change the setup, for a property that does not speak of it -/

theorem startStation (u : ∀ {s} x, P s → P (s.setSetup x)) {s : State} (h : P s) : P (startStation s) := by
  unfold Sys2Proof.Machine.startStation
  dsimp only
  apply k.restartActuators
  apply k.works (Works.trs (Works.refl _) _)
  apply k.works (Works.sga (Works.refl _) _ (by simp [Segments.initial]) (by simp [Segments.initial]))
  apply k.fsc
  apply k.pls
  exact k.bcAny _ (List.suffix_refl _) (.inl rfl) (u _ h)

theorem answerAny (u : ∀ {s} x, P s → P (s.setSetup x)) {s : State} (r : Request) (h : P s) : P (answer r s).1 := by
  by_cases n : ∃ i j c, r = .setupWrite i j c
  · obtain ⟨i, j, c, rfl⟩ := n
    unfold Sys2Proof.Machine.answer
    split
    · unfold doRequest askSetup
      dsimp only
      split
      · exact u _ h
      · exact h
    · exact h
  · by_cases m : r = .run
    · subst m
      unfold Sys2Proof.Machine.answer
      split
      · unfold doRequest askRun
        dsimp only
        split
        · exact h
        · simp only
          exact k.startStation u h
      · exact h
    · exact k.answer r h (fun i j c e => n ⟨i, j, c, e⟩) m

theorem takeAny (u : ∀ {s} x, P s → P (s.setSetup x)) {s : State} (r : Request) (h : P s) :
    P (Sys2Proof.Machine.takeRequest r s) :=
  k.takeRequest _ (k.answerAny u _ h)

theorem clockByte (u : ∀ {s} x, P s → P (s.setSetup x)) {s : State} (x : Byte) (p : Bool) (h : P s) :
    P (Sys2Proof.Machine.clockByte x p s) := by
  unfold Sys2Proof.Machine.clockByte
  split
  · exact h
  · exact k.port _ (List.suffix_refl _) h
  · have g : P (s.setPort { s.port with txn := .arguments, length := x, sdo := 255 }) := k.port _ (List.suffix_refl _) h
    generalize s.setPort { s.port with txn := .arguments, length := x, sdo := 255 } = v at g ⊢
    dsimp only
    split
    · exact k.takeAny u _ g
    · exact g
  · have g : P (s.setPort { s.port with args := s.port.args ++ [x], sdo := 255 }) := k.port _ (List.suffix_refl _) h
    generalize s.setPort { s.port with args := s.port.args ++ [x], sdo := 255 } = v at g ⊢
    dsimp only
    split
    · exact k.takeAny u _ g
    · exact g
  · split
    · exact k.port _ (List.suffix_refl _) h
    · exact k.port _ (List.suffix_refl _) h
  · exact k.port _ (clockOut_ring _) h

/-- Every command but POWER_ON, COLD_RESET and RESET_RISE, for a property that does not speak of the setup. -/
theorem execAny (u : ∀ {s} x, P s → P (s.setSetup x)) {s : State} (c : Instr) (h : P s) (p : ∀ x, c ≠ .powerOn x)
    (q : c ≠ .coldReset) (b : ∀ x, c ≠ .resetRise x) : ∃ t, Sys2Proof.Machine.exec c s = .next t ∧ P t := by
  by_cases w : writesSetup c = false
  · exact k.exec c h w b
  · cases c
    case powerOn x => exact absurd rfl (p x)
    case coldReset => exact absurd rfl q
    case setupWrite i j l =>
      exact ⟨Sys2Proof.Machine.act (Sys2Proof.Machine.takeRequest (setupRequest i j l)) s, rfl,
        k.act (fun _ h => k.takeRequest _ (k.answerAny u _ h)) h⟩
    case run =>
      exact ⟨Sys2Proof.Machine.act (Sys2Proof.Machine.takeRequest .run) s, rfl,
        k.act (fun _ h => k.takeRequest _ (k.answerAny u _ h)) h⟩
    case portByteClocked x y =>
      exact ⟨Sys2Proof.Machine.act (Sys2Proof.Machine.clockByte x y) s, rfl, k.act (fun _ h => k.clockByte u _ _ h) h⟩
    all_goals exact absurd rfl w

end Plain

end Sys2Proof.Machine
end

