-- ==== Sys2Proof/Laws/Roster.lean ====
section
/-!
SUPPORT. Law 12 through the operations that change roster, NWT, bus state or address: what replacing an entry does, and one lemma for each
such operation.
-/

namespace Sys2Proof.Machine

/-! ## Entries -/

theorem look_replicate {α : Type} (n : Nat) (x : α) (i : Nat) : look (Vector.replicate n x) x i = x := by
  unfold look
  by_cases h : i < n <;> simp [List.getD, h]

theorem rosterOf_putRoster (s : State) (a b : Nat) (e : RosterEntry) :
    (s.putRoster a e).rosterOf b = if a = b ∧ validAddr a = true then e else s.rosterOf b := by
  unfold State.putRoster State.rosterOf validAddr
  by_cases ha : a = 0
  · subst ha; simp
  · by_cases hb : b = 0
    · subst hb; simp [ha]
    · rw [if_neg ha, if_neg hb, if_neg hb]
      simp only [State.setRoster_roster, look_put]
      by_cases h : a = b
      · subst h
        by_cases k : a ≤ 24
        · rw [if_pos (by omega), if_pos (by simp; omega)]
        · rw [if_neg (by omega), if_neg (by simp; omega)]
      · rw [if_neg (by omega), if_neg (by simp [h])]

theorem nwtOf_putNwt (s : State) (a b : Nat) (e : Option NwtEntry) :
    (s.putNwt a e).nwtOf b = if a = b ∧ validAddr a = true then e else s.nwtOf b := by
  unfold State.putNwt State.nwtOf validAddr
  by_cases ha : a = 0
  · subst ha; simp
  · by_cases hb : b = 0
    · subst hb; simp [ha]
    · rw [if_neg ha, if_neg hb, if_neg hb]
      simp only [State.setNwt_nwt, look_put]
      by_cases h : a = b
      · subst h
        by_cases k : a ≤ 24
        · rw [if_pos (by omega), if_pos (by simp; omega)]
        · rw [if_neg (by omega), if_neg (by simp; omega)]
      · rw [if_neg (by omega), if_neg (by simp [h])]

/-- Replacing a roster entry leaves everything but the roster. -/
theorem putRoster_eq (s : State) (a : Nat) (e : RosterEntry) : s.putRoster a e = s.setRoster (s.putRoster a e).roster := by
  unfold State.putRoster
  split <;> rfl

/-- Replacing an NWT entry leaves everything but the NWT. -/
theorem putNwt_eq (s : State) (a : Nat) (e : Option NwtEntry) : s.putNwt a e = s.setNwt (s.putNwt a e).nwt := by
  unfold State.putNwt
  split <;> rfl

@[simp] theorem putRoster_nwtOf (s : State) (a b : Nat) (e : RosterEntry) : (s.putRoster a e).nwtOf b = s.nwtOf b := by
  rw [putRoster_eq]; rfl

@[simp] theorem putNwt_rosterOf (s : State) (a b : Nat) (e : Option NwtEntry) : (s.putNwt a e).rosterOf b = s.rosterOf b := by
  rw [putNwt_eq]; rfl

@[simp] theorem putRoster_ident (s : State) (a : Nat) (e : RosterEntry) : (s.putRoster a e).ident = s.ident := by
  rw [putRoster_eq]; rfl

@[simp] theorem putNwt_ident (s : State) (a : Nat) (e : Option NwtEntry) : (s.putNwt a e).ident = s.ident := by
  rw [putNwt_eq]; rfl

@[simp] theorem putRoster_setup (s : State) (a : Nat) (e : RosterEntry) : (s.putRoster a e).setup = s.setup := by
  rw [putRoster_eq]; rfl

@[simp] theorem putNwt_setup (s : State) (a : Nat) (e : Option NwtEntry) : (s.putNwt a e).setup = s.setup := by
  rw [putNwt_eq]; rfl

@[simp] theorem putRoster_bc (s : State) (a : Nat) (e : RosterEntry) : (s.putRoster a e).bc = s.bc := by
  rw [putRoster_eq]; rfl

@[simp] theorem putNwt_bc (s : State) (a : Nat) (e : Option NwtEntry) : (s.putNwt a e).bc = s.bc := by
  rw [putNwt_eq]; rfl

/-! ## Law 12 -/

/-- Law 12 speaks of roster and NWT, bus state, identity and the lock of the setup only. -/
theorem rosterSound_congr {s t : State} (h : s.rosterSound) (r : t.roster = s.roster) (n : t.nwt = s.nwt)
    (b : t.bc.busState = s.bc.busState) (i : t.ident = s.ident) (l : t.setup.locked = s.setup.locked) : t.rosterSound := by
  have e : t.serving = s.serving := by unfold State.serving; rw [b]
  have ro : ∀ a, t.rosterOf a = s.rosterOf a := fun a => by unfold State.rosterOf; rw [r]
  have nw : ∀ a, t.nwtOf a = s.nwtOf a := fun a => by unfold State.nwtOf; rw [n]
  refine ⟨fun a => by rw [nw, ro]; exact h.1 a, fun k => by rw [i, ro]; exact h.2.1 (e ▸ k), fun k => ?_, fun k => ?_⟩
  · rw [e, b, l] at k; rw [i]; exact h.2.2.1 k
  · rw [i] at k ⊢; rw [b, l]; exact h.2.2.2 k

/-- Two states alike in all that Law 12 speaks of. -/
structure SameRoster (s t : State) : Prop where
  roster : t.roster = s.roster
  nwt : t.nwt = s.nwt
  busState : t.bc.busState = s.bc.busState
  ident : t.ident = s.ident
  setup : t.setup = s.setup

namespace SameRoster

theorem refl (s : State) : SameRoster s s := ⟨rfl, rfl, rfl, rfl, rfl⟩

theorem trans {s t u : State} (h : SameRoster s t) (k : SameRoster t u) : SameRoster s u :=
  ⟨k.roster.trans h.roster, k.nwt.trans h.nwt, k.busState.trans h.busState, k.ident.trans h.ident, k.setup.trans h.setup⟩

theorem works {r s t : State} (h : SameRoster r s) (w : Works s t) : SameRoster r t :=
  h.trans ⟨w.roster, w.nwt, w.busState, w.ident, w.setup⟩

theorem setClaims {r s : State} (h : SameRoster r s) (l : List Claim) : SameRoster r (s.setClaims l) := h.trans ⟨rfl, rfl, rfl, rfl, rfl⟩
theorem setTkm {r s : State} (h : SameRoster r s) (x : Tanks) : SameRoster r (s.setTkm x) := h.trans ⟨rfl, rfl, rfl, rfl, rfl⟩
theorem setSga {r s : State} (h : SameRoster r s) (x : Segments) : SameRoster r (s.setSga x) := h.trans ⟨rfl, rfl, rfl, rfl, rfl⟩
theorem setTrs {r s : State} (h : SameRoster r s) (x : Train) : SameRoster r (s.setTrs x) := h.trans ⟨rfl, rfl, rfl, rfl, rfl⟩
theorem setMch {r s : State} (h : SameRoster r s) (x : Channels) : SameRoster r (s.setMch x) := h.trans ⟨rfl, rfl, rfl, rfl, rfl⟩
theorem setFsc {r s : State} (h : SameRoster r s) (x : Scanner) : SameRoster r (s.setFsc x) := h.trans ⟨rfl, rfl, rfl, rfl, rfl⟩
theorem setIla {r s : State} (h : SameRoster r s) (x : Vector CellHistory 8) : SameRoster r (s.setIla x) :=
  h.trans ⟨rfl, rfl, rfl, rfl, rfl⟩
theorem setPls {r s : State} (h : SameRoster r s) (x : Plans) : SameRoster r (s.setPls x) := h.trans ⟨rfl, rfl, rfl, rfl, rfl⟩
theorem setPort {r s : State} (h : SameRoster r s) (x : Port) : SameRoster r (s.setPort x) := h.trans ⟨rfl, rfl, rfl, rfl, rfl⟩
theorem setDue {r s : State} (h : SameRoster r s) (x : List Due) : SameRoster r (s.setDue x) := h.trans ⟨rfl, rfl, rfl, rfl, rfl⟩

theorem sound {s t : State} (h : SameRoster s t) (p : s.rosterSound) : t.rosterSound :=
  rosterSound_congr p h.roster h.nwt h.busState h.ident (by rw [h.setup])

end SameRoster

theorem rosterSound_stable : Stable State.rosterSound where
  works h p := rosterSound_congr p h.roster h.nwt h.busState h.ident (by rw [h.setup])
  due _ p := rosterSound_congr p rfl rfl rfl rfl rfl
  fsc _ p := rosterSound_congr p rfl rfl rfl rfl rfl
  ila _ p := rosterSound_congr p rfl rfl rfl rfl rfl
  pls _ p := rosterSound_congr p rfl rfl rfl rfl rfl
  pins _ p := rosterSound_congr p rfl rfl rfl rfl rfl
  bc _ b _ _ p := rosterSound_congr p rfl rfl b rfl rfl
  port _ _ p := rosterSound_congr p rfl rfl rfl rfl rfl

/-- The entries of an address are both made. -/
theorem rosterSound_enter {s : State} (h : s.rosterSound) (a : Nat) (e : RosterEntry) (n : NwtEntry) (p : e.presence = .present) :
    ((s.putRoster a e).putNwt a (some n)).rosterSound := by
  refine ⟨fun b => ?_, fun k => ?_, fun k => ?_, fun k => ?_⟩
  · rw [nwtOf_putNwt, putNwt_rosterOf, putRoster_nwtOf, rosterOf_putRoster]
    by_cases q : a = b ∧ validAddr a = true
    · rw [if_pos q, if_pos q]; simp [p]
    · rw [if_neg q, if_neg q]; exact h.1 b
  · simp only [putNwt_rosterOf, putNwt_ident, putRoster_ident, rosterOf_putRoster]
    split
    · exact p
    · exact h.2.1 (by simpa [State.serving] using k)
  · simp only [State.serving, putNwt_ident, putRoster_ident, putNwt_bc, putRoster_bc, putNwt_setup, putRoster_setup] at k ⊢
    exact h.2.2.1 k
  · simp only [putNwt_ident, putRoster_ident, putNwt_bc, putRoster_bc, putNwt_setup, putRoster_setup] at k ⊢
    exact h.2.2.2 k

/-- The entry of an address changes within PRESENT and STALE, and its NWT entry stays an entry. -/
theorem rosterSound_keep {s : State} (h : s.rosterSound) (a : Nat) (e : RosterEntry) (o : Option NwtEntry)
    (p : e.presence ≠ .absent) (q : (s.rosterOf a).presence ≠ .absent) (n : o.isSome = (s.nwtOf a).isSome)
    (own : a ≠ s.ident.address ∨ e.presence = .present) : ((s.putRoster a e).putNwt a o).rosterSound := by
  refine ⟨fun b => ?_, fun k => ?_, fun k => ?_, fun k => ?_⟩
  · rw [nwtOf_putNwt, putNwt_rosterOf, putRoster_nwtOf, rosterOf_putRoster]
    by_cases r : a = b ∧ validAddr a = true
    · rw [if_pos r, if_pos r, n, (h.1 a)]; simp [p, q]
    · rw [if_neg r, if_neg r]; exact h.1 b
  · simp only [putNwt_rosterOf, putNwt_ident, putRoster_ident, rosterOf_putRoster]
    split
    · rename_i r
      exact own.resolve_left fun z => z r.1
    · exact h.2.1 (by simpa [State.serving] using k)
  · simp only [State.serving, putNwt_ident, putRoster_ident, putNwt_bc, putRoster_bc, putNwt_setup, putRoster_setup] at k ⊢
    exact h.2.2.1 k
  · simp only [putNwt_ident, putRoster_ident, putNwt_bc, putRoster_bc, putNwt_setup, putRoster_setup] at k ⊢
    exact h.2.2.2 k

/-- The roster entry of an address changes, its presence apart. -/
theorem rosterSound_presence {s : State} (h : s.rosterSound) (a : Nat) (e : RosterEntry)
    (p : e.presence = (s.rosterOf a).presence) : (s.putRoster a e).rosterSound := by
  have r : ∀ b, ((s.putRoster a e).rosterOf b).presence = (s.rosterOf b).presence := by
    intro b
    rw [rosterOf_putRoster]
    split
    · rename_i k; rw [p, k.1]
    · rfl
  refine ⟨fun b => by rw [putRoster_nwtOf, r]; exact h.1 b, fun k => ?_, fun k => ?_, fun k => ?_⟩
  · rw [putRoster_ident, r]; exact h.2.1 (by simpa [State.serving] using k)
  · simp only [State.serving, putRoster_ident, putRoster_bc, putRoster_setup] at k ⊢
    exact h.2.2.1 k
  · simp only [putRoster_ident, putRoster_bc, putRoster_setup] at k ⊢
    exact h.2.2.2 k

/-- Both entries of an address leave, where it is not the own one of a serving station. -/
theorem rosterSound_leave {s : State} (h : s.rosterSound) (a : Nat) (own : a ≠ s.ident.address ∨ s.serving = false) :
    ((s.putRoster a RosterEntry.absent).putNwt a none).rosterSound := by
  refine ⟨fun b => ?_, fun k => ?_, fun k => ?_, fun k => ?_⟩
  · rw [nwtOf_putNwt, putNwt_rosterOf, putRoster_nwtOf, rosterOf_putRoster]
    by_cases r : a = b ∧ validAddr a = true
    · rw [if_pos r, if_pos r]; simp [RosterEntry.absent]
    · rw [if_neg r, if_neg r]; exact h.1 b
  · simp only [putNwt_rosterOf, putNwt_ident, putRoster_ident, rosterOf_putRoster]
    have k : s.serving = true := by simpa [State.serving] using k
    rw [if_neg fun r => by
      rcases own with o | o
      · exact o r.1
      · rw [o] at k; cases k]
    exact h.2.1 k
  · simp only [State.serving, putNwt_ident, putRoster_ident, putNwt_bc, putRoster_bc, putNwt_setup, putRoster_setup] at k ⊢
    exact h.2.2.1 k
  · simp only [putNwt_ident, putRoster_ident, putNwt_bc, putRoster_bc, putNwt_setup, putRoster_setup] at k ⊢
    exact h.2.2.2 k

/-- A state whose roster and NWT are empty, away from LISTEN, JOINED and HOLDING or with a valid address. -/
theorem rosterSound_empty {s : State} (r : s.roster = State.reset.roster) (n : s.nwt = State.reset.nwt)
    (q : s.serving = false) (v : s.bc.busState = .listen ∨ s.setup.locked = true → validAddr s.ident.address = true)
    (c : s.ident.cold = true → s.ident.resetLow = true ∧ s.bc.busState = .offline ∧ s.setup.locked = false) : s.rosterSound := by
  refine ⟨fun a => ?_, fun k => absurd (q.symm.trans k) (by simp), fun k => v (k.resolve_left (by simp [q])), c⟩
  have e : s.rosterOf a = RosterEntry.absent := by
    unfold State.rosterOf
    rw [r]
    split
    · rfl
    · exact look_replicate _ _ _
  have f : s.nwtOf a = none := by
    unfold State.nwtOf
    rw [n]
    split
    · rfl
    · exact look_replicate _ _ _
  rw [e, f]
  simp [RosterEntry.absent]

/-! ## The operations on roster and NWT -/

theorem takeRecord_sound {s : State} (h : s.rosterSound) (a inc : Nat) (w : Word) (r : StatusRecord)
    (p : (s.rosterOf a).presence ≠ .absent) : (takeRecord a inc w r s).rosterSound := by
  refine rosterSound_stable.passRecord _ _ _ ⟨fun b => ?_, fun k => ?_, fun k => ?_, fun k => ?_⟩
  · rw [nwtOf_putNwt, putNwt_rosterOf]
    by_cases q : a = b ∧ validAddr a = true
    · rw [if_pos q]; have := q.1; subst this; simp [p]
    · rw [if_neg q]; exact h.1 b
  · simp only [putNwt_rosterOf, putNwt_ident]
    exact h.2.1 (by simpa [State.serving] using k)
  · simp only [State.serving, putNwt_ident, putNwt_bc, putNwt_setup] at k ⊢
    exact h.2.2.1 k
  · simp only [putNwt_ident, putNwt_bc, putNwt_setup] at k ⊢
    exact h.2.2.2 k

theorem reportPeer_roster (a : Nat) (n : PeerNews) (s : State) : (reportPeer a n s).roster = s.roster :=
  (reportPeer_works (Works.refl s) a n).roster

/-- What the header of a frame changes, apart from a working operation: the entry of its sender, to PRESENT. -/
theorem takeHeader_works (a inc : Nat) (l : Bool) (s : State) :
    Works (s.putRoster a ⟨.present, inc, s.bc.round, 0, l⟩) (takeHeader a inc l s) := by
  unfold takeHeader
  dsimp only
  repeat' split
  · exact reportPeer_works (Works.refl _) _ _
  · exact Works.refl _
  · exact scanQueue_works (peerGone_works (reportPeer_works (Works.refl _) _ _) _)

theorem takeFrame_sound {s : State} (h : s.rosterSound) (f : StationFrame) :
    (takeFrame f s).rosterSound := by
  have q := rosterSound_stable.bc (s := s) { s.bc with heard := f.source :: s.bc.heard } rfl (List.suffix_refl _) (.inl rfl) h
  unfold takeFrame
  dsimp only
  apply rosterSound_stable.takeMessages
  generalize s.setBc { s.bc with heard := f.source :: s.bc.heard } = u at q ⊢
  have w := takeHeader_works f.source f.incarnation f.leaving u
  generalize takeHeader f.source f.incarnation f.leaving u = t at w ⊢
  unfold takeRecord
  apply rosterSound_stable.passRecord
  have z := rosterSound_enter q f.source ⟨.present, f.incarnation, u.bc.round, 0, f.leaving⟩
    ⟨f.record, f.round, t.bc.round, false⟩ rfl
  refine rosterSound_congr z ?_ ?_ ?_ ?_ ?_
  · rw [putNwt_eq, putNwt_eq (u.putRoster _ _)]; exact w.roster
  · unfold State.putNwt
    split
    · exact w.nwt
    · show put t.nwt _ _ = put _ _ _
      rw [w.nwt]
  · rw [putNwt_bc, putNwt_bc]; exact w.busState
  · rw [putNwt_ident, putNwt_ident]; exact w.ident
  · rw [putNwt_setup, putNwt_setup, w.setup]

theorem missSlot_sound {s : State} (h : s.rosterSound) (ran a : Nat) : (missSlot ran s a).rosterSound := by
  unfold missSlot
  split
  · exact h
  · rename_i c
    have own : a ≠ s.ident.address := by
      intro e
      simp [e] at c
    dsimp only
    split
    · exact h
    · rename_i p
      exact rosterSound_keep h a _ _ (by simp) (by rw [p]; simp) (by simp) (.inl own)
    · rename_i p
      split
      · exact rosterSound_presence h a _ rfl
      · exact rosterSound_stable.peerGone _ (rosterSound_stable.reportPeer _ _ (rosterSound_leave h a (.inl own)))

theorem missedSlots_sound {s : State} (h : s.rosterSound) (ran : Nat) : (missedSlots ran s).rosterSound := by
  have q : (addresses.foldl (missSlot ran) s).rosterSound :=
    Stable.foldl (P := State.rosterSound) (f := missSlot ran) (fun _ a h => missSlot_sound h ran a) _ h
  unfold missedSlots
  dsimp only
  split
  · exact rosterSound_stable.scanQueue q
  · exact q

/-! ## Changes of the bus state -/

theorem dropOwn_sound {s : State} (h : s.rosterSound) (n : s.serving = false) : (dropOwn s).rosterSound :=
  rosterSound_leave h _ (.inr n)

/-- A change of the bus controller to a state other than LISTEN, JOINED and HOLDING. -/
theorem setBc_sound {s : State} (h : s.rosterSound) (x : BusCtl) (n : (s.setBc x).serving = false) (l : x.busState ≠ .listen)
    (c : s.ident.cold = false) : (s.setBc x).rosterSound := by
  refine ⟨h.1, fun k => absurd (n.symm.trans k) (by simp), fun k => ?_, fun k => ?_⟩
  · rcases k with k | k | k
    · rw [n] at k; cases k
    · exact absurd k l
    · exact h.2.2.1 (.inr (.inr k))
  · rw [State.setBc_ident, c] at k; cases k

theorem enterSilent_same (n : BusNews) (s : State) : SameRoster (dropOwn (s.setBc s.bc.silent)) (enterSilent n s) := by
  unfold enterSilent
  dsimp only
  refine SameRoster.works ?_ (report_works (Works.refl _) _)
  refine (SameRoster.setPls ?_ _).setPort _
  refine SameRoster.works ?_ (Works.fold (fun s a => withdrawActuator_works (Works.refl s) a) _ (Works.refl _))
  exact (((((SameRoster.refl _).setClaims _).setTkm _).setSga _).setTrs _).setMch _

theorem enterSilent_sound {s : State} (h : s.rosterSound) (c : s.ident.cold = false) (n : BusNews) :
    (enterSilent n s).rosterSound :=
  (enterSilent_same n s).sound (dropOwn_sound (setBc_sound h _ rfl (by simp [BusCtl.silent]) c) rfl)

theorem dormantActuators_works {r s : State} (h : Works r s) : Works r (dormantActuators s) := by
  refine Works.fold (fun s a => ?_) _ h
  split
  · rename_i e; exact putAct_works (Works.refl s) _ _ e
  · exact Works.refl s

theorem enterDormant_same (s : State) : SameRoster (forgetPeers (s.setBc s.bc.dormant)) (enterDormant s) := by
  unfold enterDormant
  dsimp only
  refine SameRoster.setDue (SameRoster.setPort (SameRoster.setPls (SameRoster.setIla (SameRoster.setFsc ?_ _) _) _) _) _
  refine SameRoster.works ?_ (dormantActuators_works (Works.refl _))
  exact (((((SameRoster.refl _).setClaims _).setTkm _).setSga _).setTrs _).setMch _

/-- Roster and NWT emptied, the bus state away from JOINED and HOLDING. -/
theorem forgetPeers_sound {s : State} (h : s.rosterSound) (x : BusCtl) (q : (s.setBc x).serving = false)
    (l : x.busState = .listen → s.setup.locked = true) (c : s.ident.cold = false) : (forgetPeers (s.setBc x)).rosterSound := by
  refine rosterSound_empty rfl rfl q (fun k => ?_) (fun k => ?_)
  · refine h.2.2.1 (.inr (.inr ?_))
    rcases k with k | k
    · exact l k
    · exact k
  · have k : s.ident.cold = true := k
    rw [c] at k; cases k

theorem enterDormant_sound {s : State} (h : s.rosterSound) (c : s.ident.cold = false) : (enterDormant s).rosterSound :=
  (enterDormant_same s).sound (forgetPeers_sound h _ rfl (by simp [BusCtl.dormant]) c)

/-- A warm reset is, for Law 12, the emptied roster with the bus controller after it and the next incarnation. -/
theorem warmReset_same (s : State) :
    SameRoster ((forgetPeers (s.setBc (s.bc.warm s.setup.locked))).setIdent
      { s.ident with incarnation := nextIncarnation s.ident.incarnation }) (warmReset s) := by
  have q : ∀ (x : Ident) (l : Bool) (b : BusCtl) (t : Train) (p : Port),
      SameRoster ((forgetPeers (s.setBc b)).setIdent x)
        (((dropSwap (((((((((forgetPeers ((s.setIdent x).setBc b)).setMch Channels.initial).setFsc Scanner.initial).setClaims
          []).setTkm Tanks.initial).setSga Segments.initial).setTrs t).setIla State.reset.ila))).setPort p).setDue []) := by
    intro x l b t p
    refine SameRoster.setDue (SameRoster.setPort (SameRoster.setPls (SameRoster.setIla (SameRoster.setTrs (SameRoster.setSga
      (SameRoster.setTkm (SameRoster.setClaims (SameRoster.setFsc (SameRoster.setMch ?_ _) _) _) _) _) _) _) _) _) _
    exact ⟨rfl, rfl, rfl, rfl, rfl⟩
  unfold warmReset
  dsimp only
  split
  · exact (q _ true _ _ _).works (restartActuators_works (Works.refl _))
  · exact q _ true _ _ _

theorem warmReset_sound {s : State} (h : s.rosterSound) (c : s.ident.cold = false) : (warmReset s).rosterSound := by
  refine (warmReset_same s).sound ?_
  have q := forgetPeers_sound h (s.bc.warm s.setup.locked) (by unfold State.serving BusCtl.warm; cases s.setup.locked <;> rfl)
    (by unfold BusCtl.warm; cases s.setup.locked <;> simp) c
  exact ⟨q.1, q.2.1, q.2.2.1, q.2.2.2⟩

/-! ## Law 12 in a station that is not in a cold reset -/

/-- Law 12, and no cold reset. -/
def State.awake (s : State) : Prop := s.rosterSound ∧ s.ident.cold = false

theorem awake_stable : Stable State.awake where
  works h p := ⟨rosterSound_stable.works h p.1, (congrArg Ident.cold h.ident).trans p.2⟩
  due _ p := p
  fsc _ p := p
  ila _ p := p
  pls _ p := p
  pins _ p := p
  bc x b q f p := ⟨rosterSound_stable.bc x b q f p.1, p.2⟩
  port _ _ p := p

theorem SameRoster.awake {s t : State} (h : SameRoster s t) (p : s.awake) : t.awake :=
  ⟨h.sound p.1, (congrArg Ident.cold h.ident).trans p.2⟩

theorem enterSilent_awake {s : State} (h : s.awake) (n : BusNews) : (enterSilent n s).awake :=
  ⟨enterSilent_sound h.1 h.2 n, by rw [(enterSilent_same n s).ident]; unfold dropOwn; rw [putNwt_ident, putRoster_ident]; exact h.2⟩

theorem enterDormant_awake {s : State} (h : s.awake) : (enterDormant s).awake :=
  ⟨enterDormant_sound h.1 h.2, by rw [(enterDormant_same s).ident]; exact h.2⟩

theorem warmReset_awake {s : State} (h : s.awake) : (warmReset s).awake :=
  ⟨warmReset_sound h.1 h.2, by rw [(warmReset_same s).ident]; exact h.2⟩

/-- A change of the bus state alone, out of JOINED or HOLDING. -/
theorem serving_awake {s : State} (h : s.awake) (q : s.serving = true) (b : BusState) :
    (s.setBc { s.bc with busState := b }).awake := by
  refine ⟨⟨h.1.1, fun _ => h.1.2.1 q, fun _ => h.1.2.2.1 (.inl q), fun c => ?_⟩, h.2⟩
  have c : s.ident.cold = true := c
  rw [h.2] at c; cases c

theorem markLeaving_awake {s : State} (h : s.awake) : (markLeaving s).awake :=
  ⟨rosterSound_presence h.1 _ _ rfl, by unfold markLeaving; rw [putRoster_ident]; exact h.2⟩

theorem enterHolding_awake {s : State} (h : s.awake) (q : s.serving = true) (b : Bool) : (enterHolding b s).awake := by
  have k := markLeaving_awake (awake_stable.port (s := s.setBc { s.bc with busState := .holding })
    { s.port with phase := .grace, supplyTimer := 0 } (List.suffix_refl _) (serving_awake h q .holding))
  unfold enterHolding
  dsimp only
  split
  · exact awake_stable.works (stopAll_works (stopTrain_works (Works.refl _) _)) k
  · exact awake_stable.works (stopTrain_works (stopAll_works (Works.refl _)) _) k

theorem leaveHolding_awake {s : State} (h : s.awake) (q : s.serving = true) : (leaveHolding s).awake :=
  serving_awake (s := s) h q .joined

theorem graceExpiry_awake {s : State} (h : s.awake) : (graceExpiry s).awake := by
  unfold graceExpiry
  dsimp only
  repeat' split
  · exact awake_stable.bc _ rfl (List.suffix_refl _) (.inl rfl) h
  · exact enterDormant_awake h
  · exact h

theorem restOfGrace_awake {s : State} (h : s.awake) : (restOfGrace s).awake := by
  unfold restOfGrace
  split
  · exact awake_stable.port _ (List.suffix_refl _) h
  · exact h

theorem passSupply_awake {s : State} (h : s.awake) (ms : Nat) : (passSupply ms s).awake := by
  have q : (s.setPort { s.port with supplyTimer := min 2000 (s.port.supplyTimer + ms) }).awake := h
  unfold passSupply
  dsimp only
  generalize s.setPort { s.port with supplyTimer := min 2000 (s.port.supplyTimer + ms) } = u at q ⊢
  split
  · split
    · exact graceExpiry_awake q
    · exact awake_stable.dueIf _ _ q
  · exact h

theorem timeTo_awake {s : State} (h : s.awake) (ms : Nat) : (timeTo ms s).awake := by
  unfold timeTo
  split
  · rename_i c _
    have q := awake_stable.bc { s.bc with clock := some (max c ms) } rfl (List.suffix_refl _) (.inl rfl) h
    exact passSupply_awake q _
  · exact h

theorem perform_awake {s : State} (h : s.awake) (e : Due) : (perform s e).awake := by
  by_cases n : e = .graceExpiry
  · subst n; exact graceExpiry_awake h
  · exact awake_stable.perform e n h

theorem settle_awake {s : State} (h : s.awake) : (settle s).awake :=
  Stable.foldl (P := State.awake) (f := perform) (fun _ e h => perform_awake h e) _ (awake_stable.due _ h)

theorem missedSlots_awake {s : State} (h : s.awake) (ran : Nat) : (missedSlots ran s).awake := by
  have i : ∀ (l : List Nat) (s : State), (l.foldl (missSlot ran) s).ident = s.ident := by
    intro l
    induction l with
    | nil => intro s; rfl
    | cons a l ih =>
      intro s
      rw [List.foldl_cons, ih]
      unfold missSlot
      dsimp only
      repeat' split
      · rfl
      · rfl
      · rw [putNwt_ident, putRoster_ident]
      · rw [putRoster_ident]
      · rw [(peerGone_works (reportPeer_works (Works.refl _) _ _) _).ident, putNwt_ident, putRoster_ident]
  refine ⟨missedSlots_sound h.1 ran, ?_⟩
  unfold missedSlots
  dsimp only
  split
  · rw [(scanQueue_works (Works.refl _)).ident, i]; exact h.2
  · rw [i]; exact h.2

theorem join_awake {s : State} (h : s.awake) (q : s.bc.busState = .listen) : (join s).awake := by
  have v : validAddr s.ident.address = true := h.1.2.2.1 (.inr (.inl q))
  have u : ∀ (e : RosterEntry) (n : NwtEntry), e.presence = .present →
      (((s.setBc { s.bc with busState := .joined }).putRoster s.ident.address e).putNwt s.ident.address (some n)).awake := by
    intro e n p
    refine ⟨⟨fun b => ?_, fun _ => ?_, fun _ => ?_, fun c => ?_⟩, ?_⟩
    · rw [nwtOf_putNwt, putNwt_rosterOf, putRoster_nwtOf, rosterOf_putRoster]
      by_cases q : s.ident.address = b ∧ validAddr s.ident.address = true
      · rw [if_pos q, if_pos q]; simp [p]
      · rw [if_neg q, if_neg q]; exact h.1.1 b
    · rw [putNwt_rosterOf, putNwt_ident, putRoster_ident, rosterOf_putRoster, State.setBc_ident, if_pos ⟨rfl, v⟩]; exact p
    · rw [putNwt_ident, putRoster_ident]; exact v
    · rw [putNwt_ident, putRoster_ident] at c
      have c : s.ident.cold = true := c
      rw [h.2] at c; cases c
    · rw [putNwt_ident, putRoster_ident]; exact h.2
  have w : ∀ (e : RosterEntry) (inc : Nat) (n : Word) (r : StatusRecord), e.presence = .present →
      (takeRecord s.ident.address inc n r ((s.setBc { s.bc with busState := .joined }).putRoster s.ident.address e)).awake := by
    intro e inc n r p
    exact awake_stable.passRecord _ _ _ (u e _ p)
  have sv : ∀ (e : RosterEntry) (inc : Nat) (n : Word) (r : StatusRecord),
      (takeRecord s.ident.address inc n r
        ((s.setBc { s.bc with busState := .joined }).putRoster s.ident.address e)).serving = true := by
    intro e inc n r
    unfold takeRecord
    rw [(passRecord_works (Works.refl _) _ _ _).serving]
    unfold State.serving
    rw [putNwt_bc, putRoster_bc]; rfl
  unfold join
  dsimp only
  split
  · exact enterHolding_awake (w _ _ _ _ rfl) (sv _ _ _ _) _
  · exact w _ _ _ _ rfl

theorem countListen_awake {s : State} (h : s.awake) : (countListen s).awake := by
  unfold countListen
  dsimp only
  split
  · rename_i l
    have q := awake_stable.bc { s.bc with listenCount := s.bc.listenCount - 1 } rfl (List.suffix_refl _) (.inl rfl) h
    split
    · exact join_awake q l
    · exact q
  · exact h

theorem boundary_awake {s : State} (h : s.awake) (src : BoundarySource) (ran now : Nat) (p : Bool) :
    (boundary src ran now p s).awake := by
  have k := awake_stable
  have q := k.openRound src (k.pins { s.pins with permit := p } h)
  unfold boundary
  dsimp only
  refine k.boundaryBlocks _ (k.testTakeover _ ?_)
  split
  · exact countListen_awake (k.openSlots _ (k.yieldMark _ (missedSlots_awake q ran)))
  · exact k.openSlots _ (k.yieldMark _ q)

/-- The own slot: the own entry changes within PRESENT. -/
theorem startSlot_awake {s : State} (h : s.awake) (q : s.serving = true) : (startSlot s).awake := by
  have p : (s.rosterOf s.ident.address).presence = .present := h.1.2.1 q
  have c : (compose s).1.source = s.ident.address := rfl
  have u : ∀ (b : BusCtl) (e : RosterEntry) (n : NwtEntry), b.busState = s.bc.busState → e.presence = .present →
      (((s.setBc b).putRoster s.ident.address e).putNwt s.ident.address (some n)).awake := by
    intro b e n g k
    refine ⟨rosterSound_keep (s := s.setBc b) (rosterSound_congr h.1 rfl rfl g rfl rfl) _ e _ (by rw [k]; simp)
      (by show (s.rosterOf _).presence ≠ _; rw [p]; simp) ?_ (.inr k), ?_⟩
    · have := (h.1.1 s.ident.address).2 (by rw [p]; simp)
      exact this.symm
    · rw [putNwt_ident, putRoster_ident]; exact h.2
  unfold startSlot
  dsimp only
  rw [c]
  unfold takeRecord
  refine awake_stable.passRecord _ _ _ (u _ _ _ rfl ?_)
  exact p

theorem takeFrame_awake {s : State} (h : s.awake) (f : StationFrame) : (takeFrame f s).awake := by
  refine ⟨takeFrame_sound h.1 f, ?_⟩
  unfold takeFrame
  dsimp only
  rw [(takeMessages_works (Works.refl _) _ _ _).ident]
  unfold takeRecord
  rw [(passRecord_works (Works.refl _) _ _ _).ident, putNwt_ident, (takeHeader_works _ _ _ _).ident, putRoster_ident]
  exact h.2

theorem frameEnded_awake {s : State} (h : s.awake) : (frameEnded s).awake := by
  unfold frameEnded
  split
  · exact enterDormant_awake (settle_awake h)
  · exact h

theorem frameFailed_awake {s : State} (h : s.awake) : (frameFailed s).awake := by
  have q : (s.setBc { s.bc with failures := min 8 (s.bc.failures + 1), line := none }).awake :=
    awake_stable.bc _ rfl (List.suffix_refl _) (.inr (Nat.min_le_left _ _)) h
  have r : (if 8 ≤ s.bc.failures + 1 then
      enterSilent .silentReadback (s.setBc { s.bc with failures := min 8 (s.bc.failures + 1), line := none })
      else s.setBc { s.bc with failures := min 8 (s.bc.failures + 1), line := none }).awake := by
    split
    · exact enterSilent_awake q _
    · exact q
  unfold frameFailed
  dsimp only
  split
  · exact enterDormant_awake r
  · exact r

theorem clash_awake {s : State} (h : s.awake) : (clash s).awake := by
  have k := awake_stable
  unfold clash
  repeat' split
  · exact h
  · exact k.works (report_works (Works.refl _) _) (k.bc _ rfl (List.suffix_refl _) (.inl rfl) h)
  · exact enterSilent_awake (k.works (report_works (Works.refl _) _) h) _
  · exact enterSilent_awake (k.works (report_works (Works.refl _) _) h) _
  · exact h

end Sys2Proof.Machine
end

