-- ==== Sys2Proof/Laws/Boundary.lean ====
section
/-!
SUPPORT. What a boundary in JOINED and HOLDING leaves as it was, and what it makes due: the exchange of a pending swap first, then the events
of claims, automatic fill and train. What taking the events due does to the plans, where the exchange is the first of them.
-/

namespace Sys2Proof.Machine

/-- The plans and the station's standing on bus and supply are as they were. -/
structure Stands (s t : State) : Prop where
  pls : t.pls = s.pls
  ident : t.ident = s.ident
  supplyLow : t.pins.supplyLow = s.pins.supplyLow
  busState : t.bc.busState = s.bc.busState
  line : t.bc.line = s.bc.line
  dormantNext : t.bc.dormantNext = s.bc.dormantNext
  phase : t.port.phase = s.port.phase
  supplyTimer : t.port.supplyTimer = s.port.supplyTimer

theorem Stands.refl (s : State) : Stands s s := ⟨rfl, rfl, rfl, rfl, rfl, rfl, rfl, rfl⟩

theorem Stands.trans {s t u : State} (h : Stands s t) (k : Stands t u) : Stands s u :=
  ⟨k.pls.trans h.pls, k.ident.trans h.ident, k.supplyLow.trans h.supplyLow, k.busState.trans h.busState, k.line.trans h.line,
   k.dormantNext.trans h.dormantNext, k.phase.trans h.phase, k.supplyTimer.trans h.supplyTimer⟩

theorem Works.stands {s t : State} (h : Works s t) : Stands s t :=
  ⟨h.pls, h.ident, by rw [h.pins], by rw [h.bc], by rw [h.bc], by rw [h.bc], by rw [h.port], by rw [h.port]⟩

theorem Stands.serving {s t : State} (h : Stands s t) : t.serving = s.serving := by
  unfold State.serving
  rw [h.busState]

theorem Stands.failing {s t : State} (h : Stands s t) : t.failing = s.failing := by
  unfold State.failing
  rw [h.busState, h.phase, h.supplyLow]

/-- The same, and nothing more is due. -/
def StandsStill (s t : State) : Prop := Stands s t ∧ t.due = s.due

namespace StandsStill

theorem refl (s : State) : StandsStill s s := ⟨Stands.refl s, rfl⟩

theorem trans {s t u : State} (h : StandsStill s t) (k : StandsStill t u) : StandsStill s u := ⟨h.1.trans k.1, k.2.trans h.2⟩

theorem of_works {s t : State} (h : Works s t) : StandsStill s t := ⟨h.stands, h.due⟩

theorem bc {s : State} (x : BusCtl) (b : x.busState = s.bc.busState) (l : x.line = s.bc.line)
    (d : x.dormantNext = s.bc.dormantNext) : StandsStill s (s.setBc x) :=
  ⟨⟨rfl, rfl, rfl, b, l, d, rfl, rfl⟩, rfl⟩

theorem pins {s : State} (x : Pins) (h : x.supplyLow = s.pins.supplyLow) : StandsStill s (s.setPins x) :=
  ⟨⟨rfl, rfl, h, rfl, rfl, rfl, rfl, rfl⟩, rfl⟩

theorem roster {s : State} (a : Nat) (e : RosterEntry) : StandsStill s (s.putRoster a e) := by
  rw [putRoster_eq]
  exact ⟨⟨rfl, rfl, rfl, rfl, rfl, rfl, rfl, rfl⟩, rfl⟩

theorem nwt {s : State} (a : Nat) (e : Option NwtEntry) : StandsStill s (s.putNwt a e) := by
  rw [putNwt_eq]
  exact ⟨⟨rfl, rfl, rfl, rfl, rfl, rfl, rfl, rfl⟩, rfl⟩

theorem missSlot (ran : Nat) (s : State) (a : Nat) : StandsStill s (missSlot ran s a) := by
  unfold Sys2Proof.Machine.missSlot
  dsimp only
  repeat' split
  · exact refl s
  · exact refl s
  · exact (roster a _).trans (nwt a _)
  · exact roster a _
  · exact ((roster a _).trans (nwt a _)).trans (of_works (peerGone_works (reportPeer_works (Works.refl _) _ _) _))

theorem missedSlots (ran : Nat) (s : State) : StandsStill s (missedSlots ran s) := by
  have f : StandsStill s (addresses.foldl (Sys2Proof.Machine.missSlot ran) s) :=
    Stable.foldl (P := StandsStill s) (fun t a h => h.trans (StandsStill.missSlot ran t a)) _ (refl s)
  unfold Sys2Proof.Machine.missedSlots
  dsimp only
  split
  · exact f.trans (of_works (scanQueue_works (Works.refl _)))
  · exact f

theorem openRound (src : BoundarySource) (s : State) : StandsStill s (openRound src s) := by
  unfold Sys2Proof.Machine.openRound
  split <;> exact bc _ rfl rfl rfl

theorem yieldMark (src : BoundarySource) (s : State) : StandsStill s (yieldMark src s) := by
  unfold Sys2Proof.Machine.yieldMark
  repeat' split
  all_goals first
    | exact refl s
    | exact bc _ rfl rfl rfl

theorem testTakeover (src : BoundarySource) (s : State) : StandsStill s (testTakeover src s) := by
  have t : StandsStill s (takeover s) :=
    (bc { s.bc with markHolder := true } rfl rfl rfl).trans (of_works (report_works (Works.refl _) _))
  unfold Sys2Proof.Machine.testTakeover
  repeat' split
  all_goals first
    | exact refl s
    | exact t

/-- Only a station in LISTEN counts its listen count. -/
theorem countListen {s : State} (h : s.serving = true) : countListen s = s := by
  have n : s.bc.busState ≠ .listen := fun k => by simp [State.serving, k] at h
  unfold Sys2Proof.Machine.countListen
  rw [if_neg n]

end StandsStill

/-! ## What a boundary makes due -/

/-- An event of claims, automatic fill or train. -/
def Due.ofBlock (e : Due) : Prop := e ≠ .planExchange ∧ e ≠ .graceExpiry

theorem claimDue_ofBlock {c : Claim} {e : Due} (h : claimDue c = some e) : e.ofBlock := by
  unfold claimDue at h
  repeat' split at h
  all_goals first
    | cases h; exact ⟨nofun, nofun⟩
    | cases h

theorem trainDue_ofBlock (d0 : Nat) (s : State) : ∀ e ∈ trainDue d0 s, e.ofBlock := by
  have w : ∀ (c : Bool) (e x : Due), x ∈ (if c then [e] else []) → x = e := by
    intro c e x h
    cases c <;> simp_all
  intro e h
  unfold trainDue at h
  simp only [List.flatten_cons, List.flatten_nil, List.append_nil, List.mem_append] at h
  repeat' rcases h with h | h
  all_goals rw [w _ _ _ h]; exact ⟨nofun, nofun⟩

theorem dueIf_stands (c : Bool) (e : Due) (s : State) : Stands s (dueIf c e s) ∧ (dueIf c e s).due = s.due ++ if c then [e] else [] := by
  unfold dueIf addDue
  cases c
  · exact ⟨Stands.refl s, by simp⟩
  · exact ⟨⟨rfl, rfl, rfl, rfl, rfl, rfl, rfl, rfl⟩, rfl⟩

theorem boundaryClaims_stands (s : State) :
    Stands s (boundaryClaims s) ∧ ∃ l, (boundaryClaims s).due = s.due ++ l ∧ ∀ e ∈ l, e.ofBlock := by
  refine ⟨⟨rfl, rfl, rfl, rfl, rfl, rfl, rfl, rfl⟩, _, rfl, fun e h => ?_⟩
  obtain ⟨c, -, k⟩ := List.mem_filterMap.1 h
  exact claimDue_ofBlock k

theorem fillDue_stands (t : Nat) (s : State) :
    Stands s (fillDue t s) ∧ ∃ l, (fillDue t s).due = s.due ++ l ∧ ∀ e ∈ l, e.ofBlock := by
  unfold fillDue
  obtain ⟨h, d⟩ := dueIf_stands (decide ((s.tankOf t).retry = 0) && s.mayFill t) (.fillRetry t) s
  refine ⟨h, _, d, fun e k => ?_⟩
  split at k
  · rw [List.mem_singleton.1 k]; exact ⟨nofun, nofun⟩
  · cases k

theorem boundaryTrain_stands (p : Bool) (s : State) :
    Stands s (boundaryTrain p s) ∧ ∃ l, (boundaryTrain p s).due = s.due ++ l ∧ ∀ e ∈ l, e.ofBlock := by
  unfold boundaryTrain
  dsimp only
  have w := phaseTick_works (mapTrs_works (Works.refl s) fun t => sensorTick (productTicks s.mch.quality.window (permitTick p t)))
  generalize phaseTick (s.mapTrs fun t => sensorTick (productTicks s.mch.quality.window (permitTick p t))) = u at w ⊢
  exact ⟨w.stands.trans ⟨rfl, rfl, rfl, rfl, rfl, rfl, rfl, rfl⟩, trainDue s.trs.diversion u, by rw [State.setDue_due, w.due],
    trainDue_ofBlock _ _⟩

/-- The blocks at a boundary: the exchange of a pending swap is due first, then events of claims, fill and train. -/
theorem boundaryBlocks_stands {s : State} (p : Bool) (h : s.serving = true) :
    Stands s (boundaryBlocks p s) ∧ ∃ l, (boundaryBlocks p s).due = s.due ++ (if s.pls.pending then [.planExchange] else []) ++ l ∧
      ∀ e ∈ l, e.ofBlock := by
  unfold boundaryBlocks
  dsimp only
  obtain ⟨a, da⟩ := dueIf_stands s.swapsNow .planExchange s
  generalize dueIf s.swapsNow .planExchange s = u at a da ⊢
  have w := boundarySegments_works (boundaryTanks_works (Works.refl u))
  generalize boundarySegments (boundaryTanks u) = v at w ⊢
  obtain ⟨c, lc, dc, bc⟩ := boundaryClaims_stands v
  generalize boundaryClaims v = x at c dc ⊢
  obtain ⟨f, lf, df, bf⟩ := fillDue_stands 0 x
  generalize fillDue 0 x = y at f df ⊢
  obtain ⟨g, lg, dg, bg⟩ := fillDue_stands 1 y
  generalize fillDue 1 y = z at g dg ⊢
  obtain ⟨t, lt, dt, bt⟩ := boundaryTrain_stands p z
  refine ⟨((((a.trans w.stands).trans c).trans f).trans g).trans t, lc ++ lf ++ lg ++ lt, ?_, ?_⟩
  · rw [dt, dg, df, dc, w.due, da]
    simp [State.swapsNow, h]
  · intro e k
    simp only [List.mem_append] at k
    rcases k with ((k | k) | k) | k
    exacts [bc e k, bf e k, bg e k, bt e k]

/-- A boundary in JOINED and HOLDING leaves the plans and the station's standing, and makes the exchange of a pending swap due (R185). -/
theorem boundary_stands {s : State} (src : BoundarySource) (ran now : Nat) (p : Bool) (h : s.serving = true) :
    Stands s (boundary src ran now p s) ∧
      ∃ l, (boundary src ran now p s).due = s.due ++ (if s.pls.pending then [.planExchange] else []) ++ l ∧ ∀ e ∈ l, e.ofBlock := by
  unfold boundary
  dsimp only
  have q : StandsStill s (openRound src (s.setPins { s.pins with permit := p })) :=
    StandsStill.trans (.pins { s.pins with permit := p } rfl) (.openRound src _)
  generalize openRound src (s.setPins { s.pins with permit := p }) = u at q ⊢
  have m : StandsStill s (if s.bc.clock.isSome = true then missedSlots ran u else u) := by
    split
    · exact q.trans (.missedSlots ran u)
    · exact q
  generalize (if s.bc.clock.isSome = true then missedSlots ran u else u) = v at m ⊢
  have o : StandsStill s (openSlots now (yieldMark src v)) := (m.trans (.yieldMark src v)).trans (.bc _ rfl rfl rfl)
  generalize openSlots now (yieldMark src v) = w at o ⊢
  rw [StandsStill.countListen (o.1.serving.trans h), ite_self]
  have t := o.trans (.testTakeover src w)
  generalize testTakeover src w = x at t ⊢
  obtain ⟨b, l, d, n⟩ := boundaryBlocks_stands p (t.1.serving.trans h)
  exact ⟨t.1.trans b, l, by rw [d, t.2, t.1.pls], n⟩

/-! ## Taking what is due -/

/-- The plans after the exchange (R185); `exchange` as a record. -/
theorem exchange_eq (x : Plans) :
    exchange x = { x with active := otherBank x.active, generation := x.generation + 1, pending := false } := rfl

theorem planExchange_pending {s : State} (h : s.serving = true) (p : s.pls.pending = true) :
    StandsStill (s.setPls (exchange s.pls)) (planExchange s) := by
  unfold planExchange
  rw [if_pos (by simp [h, p])]
  exact .of_works (planSwapped_works (report_works (Works.refl _) _))

/-- An event of a block, and an alarm's repeat, leave the plans and the station's standing. -/
theorem perform_stands (s : State) {e : Due} (h : e.ofBlock) : Stands s (perform s e) := by
  by_cases a : ∀ c, e ≠ .alarmRepeat c
  · exact (perform_works (Works.refl s) e a h.1 h.2).stands
  · obtain ⟨c, rfl⟩ := Classical.not_forall_not.mp a
    change Stands s (repeatAlarm c s)
    unfold repeatAlarm
    dsimp only
    split
    · exact (report_works (Works.refl s) _).stands.trans ⟨rfl, rfl, rfl, rfl, rfl, rfl, rfl, rfl⟩
    · exact Stands.refl s

theorem perform_list_stands {l : List Due} (h : ∀ e ∈ l, e.ofBlock) (s : State) : Stands s (l.foldl perform s) := by
  induction l generalizing s with
  | nil => exact Stands.refl s
  | cons e l ih => exact (perform_stands s (h e (by simp))).trans (ih (fun x k => h x (by simp [k])) _)

/-- The events of a boundary with a swap pending: the banks exchange. -/
theorem perform_exchange {l : List Due} (h : ∀ e ∈ l, e.ofBlock) {s : State} (v : s.serving = true) (p : s.pls.pending = true) :
    Stands (s.setPls (exchange s.pls)) ((.planExchange :: l).foldl perform s) :=
  (planExchange_pending v p).1.trans (perform_list_stands h _)

/-- Entry to DORMANT keeps the banks, the active bank and the generation, and drops a pending swap (R188). -/
theorem enterDormant_plans (s : State) :
    (enterDormant s).bc.busState = .dormant ∧ (enterDormant s).pls = { s.pls with pending := false } := by
  have w (u : State) : Works u (dormantActuators u) := dormantActuators_works (Works.refl u)
  unfold enterDormant
  dsimp only
  simp only [dropSwap, State.setDue_bc, State.setPort_bc, State.setPls_bc, State.setIla_bc, State.setFsc_bc, State.setDue_pls,
    State.setPort_pls, State.setPls_pls, State.setIla_pls, State.setFsc_pls]
  rw [(w _).bc, (w _).pls]
  exact ⟨rfl, rfl⟩

end Sys2Proof.Machine
end

