-- ==== Sys2Proof/Laws/Frames.lean ====
section
/-!
SUPPORT. Each field of the layouts of Chapter 12 read back from the bytes it is written in, whatever follows it.
-/

namespace Sys2Proof.Machine

theorem byteOf_toNat {n : Nat} (h : inByte n = true) : (byteOf n).toNat = n := by
  unfold inByte at h
  unfold byteOf
  simp at h ⊢
  omega

theorem r1_b1 {n : Nat} (h : inByte n = true) (l : List Byte) : r1 (b1 n ++ l) = some (n, l) := by
  unfold b1 r1
  simp [byteOf_toNat h]

theorem wordOf_bytes (w : Word) : wordOf (hiByte w) (loByte w) = w := by
  unfold wordOf hiByte loByte
  apply BitVec.eq_of_getLsbD_eq
  intro i hi
  rw [BitVec.getLsbD_append]
  by_cases h : i < 8
  · simp [h]
  · simp [h, show i - 8 < 8 by omega, show 8 + (i - 8) = i by omega]

theorem rw_bw (w : Word) (l : List Byte) : rw (bw w ++ l) = some (w, l) := by
  unfold bw rw
  simp [wordOf_bytes]

theorem r2_b2 {n : Nat} (h : inWord n = true) (l : List Byte) : r2 (b2 n ++ l) = some (n, l) := by
  unfold inWord at h
  simp at h
  unfold b2 bw r2
  simp [wordOf_bytes]
  omega

theorem rByte_cons (x : Byte) (l : List Byte) : rByte ([x] ++ l) = some (x, l) := rfl

/-- A code that its list has, read back. -/
theorem rCode_b1 {α : Type} {all : List α} {code : α → Nat} {a : α} (h : inByte (code a) = true)
    (k : byCode all code (code a) = some a) (l : List Byte) : rCode all code (b1 (code a) ++ l) = some (a, l) := by
  unfold b1 rCode
  simp [byteOf_toNat h, k]

theorem rKind (k : ClaimKind) (l : List Byte) : rCode allKinds kindCode (b1 (kindCode k) ++ l) = some (k, l) := by
  cases k <;> exact rCode_b1 (by decide) (by decide) l

theorem rClaimState (k : ClaimState) (l : List Byte) :
    rCode allClaimStates claimStateCode (b1 (claimStateCode k) ++ l) = some (k, l) := by
  cases k <;> exact rCode_b1 (by decide) (by decide) l

theorem rWindow (k : WindowState) (l : List Byte) : rCode allWindows windowCode (b1 (windowCode k) ++ l) = some (k, l) := by
  cases k <;> exact rCode_b1 (by decide) (by decide) l

theorem rFillState (k : FillState) (l : List Byte) : rCode allFills fillCode (b1 (fillCode k) ++ l) = some (k, l) := by
  cases k <;> exact rCode_b1 (by decide) (by decide) l

theorem rSeg (k : SegState) (l : List Byte) : rCode allSegs segCode (b1 (segCode k) ++ l) = some (k, l) := by
  cases k <;> exact rCode_b1 (by decide) (by decide) l

theorem rTrainState (k : TrainState) (l : List Byte) : rCode allTrains trainCode (b1 (trainCode k) ++ l) = some (k, l) := by
  cases k <;> exact rCode_b1 (by decide) (by decide) l

theorem rHoldReason (k : HoldReason) (l : List Byte) :
    rCode allHoldReasons holdReasonCode (b1 (holdReasonCode k) ++ l) = some (k, l) := by
  cases k <;> exact rCode_b1 (by decide) (by decide) l

theorem rRefuse (k : RefuseReason) (l : List Byte) : rCode allRefuses refuseCode (b1 (refuseCode k) ++ l) = some (k, l) := by
  cases k <;> exact rCode_b1 (by decide) (by decide) l

theorem rEnd (k : EndReason) (l : List Byte) : rCode allEnds endCode (b1 (endCode k) ++ l) = some (k, l) := by
  cases k <;> exact rCode_b1 (by decide) (by decide) l

theorem rBank (k : Bank) (l : List Byte) : rCode allBanks bankCode (b1 (bankCode k) ++ l) = some (k, l) := by
  cases k <;> exact rCode_b1 (by decide) (by decide) l

/-! ## Items -/

theorem rTank_bTank {t : TankId} (h : t.wf = true) (l : List Byte) : rTank (bTank t ++ l) = some (t, l) := by
  simp only [TankId.wf, Bool.and_eq_true] at h
  simp only [rTank, bTank, List.append_assoc, r1_b1, h, Option.bind_eq_bind, Option.bind_some]

theorem decTank_encTank {i : TankItem} (h : i.wf = true) (l : List Byte) : decTank (encTank i ++ l) = some (i, l) := by
  simp only [TankItem.wf, PerClass.wf, Bool.and_eq_true] at h
  simp only [decTank, encTank, List.append_assoc, r1_b1, r2_b2, rWindow, rFillState, h, Option.bind_eq_bind, Option.bind_some]

theorem decTrain_encTrain {g : TrainGroup} (h : g.wf = true) (l : List Byte) : decTrain (encTrain g ++ l) = some (g, l) := by
  simp only [TrainGroup.wf, Bool.and_eq_true] at h
  obtain ⟨st, rate, d, q, u, p⟩ := g
  have e : ∀ n : Nat, rByte (b1 n ++ l) = some (byteOf n, l) := fun n => rfl
  simp only at h
  cases u <;> cases p <;>
    (simp only [decTrain, encTrain, List.append_assoc, r2_b2, rTank_bTank, rTrainState, rWindow, h, e, Option.bind_eq_bind, Option.bind_some]; rfl)

theorem decSeg_encSeg {i : SegItem} (h : i.wf = true) (l : List Byte) : decSeg (encSeg i ++ l) = some (i, l) := by
  obtain ⟨n, st⟩ := i
  cases st with
  | free =>
    simp only [SegItem.wf, Bool.and_true] at h
    simp only [decSeg, encSeg, List.append_assoc, r1_b1, rSeg, h, Option.bind_eq_bind, Option.bind_some]
  | fault =>
    simp only [SegItem.wf, Bool.and_true] at h
    simp only [decSeg, encSeg, List.append_assoc, r1_b1, rSeg, h, Option.bind_eq_bind, Option.bind_some]
  | held c =>
    simp only [SegItem.wf, ClaimId.wf, Bool.and_eq_true] at h
    simp only [decSeg, encSeg, List.append_assoc, r1_b1, rSeg, h, Option.bind_eq_bind, Option.bind_some]

theorem decClaim_encClaim {i : ClaimItem} (h : i.wf = true) (l : List Byte) : decClaim (encClaim i ++ l) = some (i, l) := by
  obtain ⟨q, k, st, c, t⟩ := i
  cases st <;>
    (simp only [ClaimItem.wf, Bool.and_eq_true] at h
     simp only [decClaim, encClaim, List.append_assoc, r1_b1, r2_b2, rKind, rClaimState, rTank_bTank, h, Option.bind_eq_bind, Option.bind_some])

/-! ## Lists -/

theorem rMany_flatMap {α : Type} {r : Reader α} {f : α → List Byte} {p : α → Bool}
    (hr : ∀ a, p a = true → ∀ l, r (f a ++ l) = some (a, l)) (as : List α) (h : as.all p = true) (l : List Byte) :
    rMany r as.length (as.flatMap f ++ l) = some (as, l) := by
  induction as with
  | nil => rfl
  | cons a as ih =>
    simp only [List.all_cons, Bool.and_eq_true] at h
    simp [rMany, List.append_assoc, hr a h.1, ih h.2]

theorem rList_encList {α : Type} {r : Reader α} {f : α → List Byte} {p : α → Bool} {limit : Nat} (b : limit ≤ 255)
    (hr : ∀ a, p a = true → ∀ l, r (f a ++ l) = some (a, l)) (as : List α) (n : as.length ≤ limit) (h : as.all p = true)
    (l : List Byte) : rList limit r (encList f as ++ l) = some (as, l) := by
  have k : inByte as.length = true := by unfold inByte; simp; omega
  simp [rList, encList, List.append_assoc, r1_b1 k, n, rMany_flatMap hr as h]

/-! ## Record and messages -/

theorem decPresence_none (l : List Byte) : decPresence (b1 0 ++ l) = some (none, l) := rfl

theorem decPresence_some {g : TrainGroup} (h : g.wf = true) (l : List Byte) :
    decPresence (b1 1 ++ (encTrain g ++ l)) = some (some g, l) := by
  have w : ∀ m, r1 (b1 1 ++ m) = some (1, m) := r1_b1 (by decide)
  simp only [decPresence, w, decTrain_encTrain h, Option.bind_eq_bind, Option.bind_some]

theorem decRecord_encRecord {r : StatusRecord} (h : r.wf = true) (l : List Byte) : decRecord (encRecord r ++ l) = some (r, l) := by
  obtain ⟨bank, gen, flags, tanks, train, segs, claims⟩ := r
  simp only [StatusRecord.wf, Bool.and_eq_true, decide_eq_true_eq] at h
  obtain ⟨⟨⟨⟨⟨⟨h1, h2⟩, h3⟩, h4⟩, h5⟩, h6⟩, h7⟩ := h
  have t := rList_encList (limit := 2) (by omega) (fun a k m => decTank_encTank (i := a) k m) tanks h1 h2
  have s := rList_encList (limit := 4) (by omega) (fun a k m => decSeg_encSeg (i := a) k m) segs h4 h5
  have c := rList_encList (limit := 8) (by omega) (fun a k m => decClaim_encClaim (i := a) k m) claims h6 h7
  have e : ∀ m, rByte (flags :: m) = some (flags, m) := fun m => rfl
  unfold decRecord encRecord
  cases train with
  | none =>
    simp only [List.append_assoc, List.cons_append, List.nil_append, rBank, rw_bw, e, t, s, c, decPresence_none,
      Option.bind_eq_bind, Option.bind_some]
  | some g =>
    have g' : g.wf = true := by simpa using h3
    simp only [List.append_assoc, List.cons_append, List.nil_append, rBank, rw_bw, e, t, s, c, decPresence_some g',
      Option.bind_eq_bind, Option.bind_some]

/-- The code byte of a message and its fields. -/
theorem decMessage_of {d n : Nat} {b : MsgBody} {x l : List Byte} (hd : inByte d = true) (hn : inByte n = true)
    (hb : decBody n x = some (b, l)) : decMessage (b1 d ++ (b1 n ++ x)) = some (⟨d, b⟩, l) := by
  simp only [decMessage, r1_b1 hd, r1_b1 hn, hb, Option.bind_eq_bind, Option.bind_some]

theorem decMessage_encMessage {m : Message} (h : m.wf = true) (l : List Byte) : decMessage (encMessage m ++ l) = some (m, l) := by
  obtain ⟨d, b⟩ := m
  cases b <;>
    (simp only [Message.wf, MsgBody.wf, Bool.and_eq_true] at h
     simp only [encMessage, List.append_assoc]
     refine decMessage_of (by simp [h]) (by decide) ?_
     simp only [decBody, r1_b1, r2_b2, rKind, rHoldReason, rRefuse, rEnd, h, Option.bind_eq_bind, Option.bind_some])

end Sys2Proof.Machine
end

