-- ==== Sys2Proof/Laws/Quiet.lean ====
section
/-!
SUPPORT. Law 11 split by the bus state: `busy` in JOINED and HOLDING, `hush` elsewhere. A busy station stays busy through every stable
operation; the operations that a hushed station can meet keep it hushed, most of them because they find nothing to do.
-/

namespace Sys2Proof.Machine

/-- Law 11 in JOINED and HOLDING. -/
def State.busy (s : State) : Prop :=
  s.serving = true ∧ (∀ a, s.actSetup a = none → (s.actOf a).command = .safe) ∧ s.setup.locked = true

/-- Law 11 elsewhere. -/
def State.hush (s : State) : Prop := s.serving = false ∧ s.quiet ∧ (s.bc.busState = .listen → s.setup.locked = true)

theorem lawEleven_iff (s : State) : s.lawEleven ↔ s.busy ∨ s.hush := by
  constructor
  · intro h
    cases e : s.serving
    · exact .inr ⟨e, h.1 e, fun l => h.2.2 (.inr l)⟩
    · exact .inl ⟨e, h.2.1, h.2.2 (.inl e)⟩
  · rintro (h | h)
    · exact ⟨fun k => absurd (h.1.symm.trans k) (by simp), h.2.1, fun _ => h.2.2⟩
    · exact ⟨fun _ => h.2.1, fun a _ => h.2.1.1.2.2.2.2.2 a, fun k => h.2.2 (k.resolve_left (by simp [h.1]))⟩

theorem busy_stable : Stable State.busy where
  works h p := ⟨h.serving.trans p.1, fun a e => by
    have e' : _ := e
    rw [State.actSetup, h.setup] at e'
    rw [h.unset a e']; exact p.2.1 a e', by rw [h.setup]; exact p.2.2⟩
  due _ p := p
  fsc _ p := p
  ila _ p := p
  pls _ p := p
  pins _ p := p
  bc {s} x b _ _ p := by
    refine ⟨?_, p.2⟩
    have q := p.1
    unfold State.serving at q ⊢
    rw [State.setBc_bc, b]; exact q
  port _ _ p := p

/-! ## What a hushed station holds -/

theorem hush_mk {s t : State} (h : s.hush) (b : t.bc.busState = s.bc.busState) (u : t.setup.locked = s.setup.locked)
    (q : t.quiet) : t.hush := by
  refine ⟨?_, q, fun l => ?_⟩
  · have e := h.1
    unfold State.serving at e ⊢
    rw [b]; exact e
  · rw [u]; exact h.2.2 (b ▸ l)

/-- A working operation keeps hush when it keeps quiet. -/
theorem hush_works {s t : State} (h : s.hush) (w : Works s t) (q : t.quiet) : t.hush :=
  hush_mk h w.busState (by rw [w.setup]) q

theorem quiet_congr {s t : State} (h : s.quiet) (c : t.cle.list = s.cle.list) (k : t.tkm = s.tkm) (g : t.sga = s.sga)
    (a : t.act = s.act) (r : t.trs.state = s.trs.state) : t.quiet := by
  obtain ⟨⟨h1, h2, h3, h4, h5, h6⟩, h7⟩ := h
  refine ⟨⟨c.trans h1, fun n => ?_, by rw [k]; exact h3, by rw [g]; exact h4, fun n => ?_, fun n => ?_⟩, by rw [r]; exact h7⟩
  · unfold State.tankOf at h2 ⊢; rw [k]; exact h2 n
  · unfold State.segOf at h5 ⊢; rw [g]; exact h5 n
  · unfold State.actOf at h6 ⊢; rw [a]; exact h6 n

namespace State.hush

variable {s : State} (h : s.hush)
include h

theorem noClaims : s.cle.list = [] := h.2.1.1.1
theorem noGrants (t : Nat) : (s.tankOf t).grants = [] := h.2.1.1.2.1 t
theorem noTankWaits : s.tkm.waits = [] := h.2.1.1.2.2.1
theorem noHoldWaits : s.sga.waits = [] := h.2.1.1.2.2.2.1
theorem noHolder (i : Nat) : (s.segOf i).holder = none := h.2.1.1.2.2.2.2.1 i
theorem safe (a : Nat) : (s.actOf a).command = .safe := h.2.1.1.2.2.2.2.2 a
theorem train : s.trs.state = .stopped ∨ s.trs.state = .fault := h.2.1.2
theorem noClaim (q : Nat) : s.claimOf q = none := by unfold State.claimOf; rw [h.noClaims]; rfl
theorem notJoined : s.bc.busState ≠ .joined := fun e => by
  have k := h.1
  unfold State.serving at k
  rw [e] at k; cases k

theorem setDue (l : List Due) : (s.setDue l).hush := h
theorem setFsc (x : Scanner) : (s.setFsc x).hush := h
theorem setIla (x : Vector CellHistory 8) : (s.setIla x).hush := h
theorem setPls (x : Plans) : (s.setPls x).hush := h
theorem setPins (x : Pins) : (s.setPins x).hush := h
theorem setPort (x : Port) : (s.setPort x).hush := h
theorem setMch (x : Channels) : (s.setMch x).hush := h
theorem setBc (x : BusCtl) (b : x.busState = s.bc.busState) : (s.setBc x).hush := hush_mk h b rfl h.2.1

theorem setTrs (x : Train) (k : x.state = .stopped ∨ x.state = .fault) : (s.setTrs x).hush :=
  hush_mk h rfl rfl ⟨h.2.1.1, k⟩

theorem mapTrs (f : Train → Train) (k : (f s.trs).state = s.trs.state) : (s.mapTrs f).hush :=
  h.setTrs _ (by rw [k]; exact h.train)

theorem putAct (a : Nat) (x : Actuator) (k : x.command = .safe) : (s.putAct a x).hush := by
  obtain ⟨h1, ⟨⟨q1, q2, q3, q4, q5, q6⟩, q7⟩, h3⟩ := h
  refine ⟨h1, ⟨⟨q1, q2, q3, q4, q5, fun b => ?_⟩, q7⟩, h3⟩
  unfold State.actOf State.putAct State.setAct
  simp only [look_put]
  split
  · exact k
  · exact q6 b

theorem putSeg (i : Nat) (x : Segment) (k : x.holder = none) : (s.putSeg i x).hush := by
  obtain ⟨h1, ⟨⟨q1, q2, q3, q4, q5, q6⟩, q7⟩, h3⟩ := h
  refine ⟨h1, ⟨⟨q1, q2, q3, q4, fun b => ?_, q6⟩, q7⟩, h3⟩
  unfold State.segOf State.putSeg State.setSga
  simp only [look_put]
  split
  · exact k
  · exact q5 b

theorem putTank (t : Nat) (x : TankState) (k : x.grants = []) : (s.putTank t x).hush := by
  obtain ⟨h1, ⟨⟨q1, q2, q3, q4, q5, q6⟩, q7⟩, h3⟩ := h
  refine ⟨h1, ⟨⟨q1, fun b => ?_, q3, q4, q5, q6⟩, q7⟩, h3⟩
  unfold State.tankOf State.putTank State.setTkm
  simp only [look_put]
  split
  · exact k
  · exact q2 b

theorem setHoldWaits (l : List HoldWait) (k : l = []) : (s.setHoldWaits l).hush := by
  obtain ⟨h1, ⟨⟨q1, q2, q3, q4, q5, q6⟩, q7⟩, h3⟩ := h
  exact ⟨h1, ⟨⟨q1, q2, q3, k, q5, q6⟩, q7⟩, h3⟩

theorem setTankWaits (l : List TankWait) (k : l = []) : (s.setTankWaits l).hush := by
  obtain ⟨h1, ⟨⟨q1, q2, q3, q4, q5, q6⟩, q7⟩, h3⟩ := h
  exact ⟨h1, ⟨⟨q1, q2, k, q4, q5, q6⟩, q7⟩, h3⟩

theorem setMemory (l : List Revoked) : (s.setMemory l).hush := by
  obtain ⟨h1, ⟨⟨q1, q2, q3, q4, q5, q6⟩, q7⟩, h3⟩ := h
  exact ⟨h1, ⟨⟨q1, q2, q3, q4, q5, q6⟩, q7⟩, h3⟩

theorem setClaims (l : List Claim) (k : l = []) : (s.setClaims l).hush := by
  obtain ⟨h1, ⟨⟨q1, q2, q3, q4, q5, q6⟩, q7⟩, h3⟩ := h
  exact ⟨h1, ⟨⟨k, q2, q3, q4, q5, q6⟩, q7⟩, h3⟩

omit h in
theorem foldl {α : Type} {f : State → α → State} (hf : ∀ s a, State.hush s → (f s a).hush) (l : List α) {s : State}
    (h : s.hush) : (l.foldl f s).hush := Stable.foldl (P := State.hush) (f := f) hf l h

/-! ## Shared operations and channels -/

theorem report (b : ReportBody) : (report b s).hush := by
  unfold Sys2Proof.Machine.report
  split <;> exact h

theorem send (d : Nat) (b : MsgBody) : send d b s = s := by
  unfold Sys2Proof.Machine.send offer
  rw [h.1]; rfl

theorem dueIf (c : Bool) (e : Due) : (dueIf c e s).hush := by
  unfold Sys2Proof.Machine.dueIf addDue
  split <;> exact h

theorem graceExpiry : graceExpiry s = s := by
  have f : s.failing = false := by
    have k := h.1
    unfold State.serving at k
    simp at k
    simp [State.failing, k.2]
  unfold Sys2Proof.Machine.graceExpiry
  rw [f]; rfl

omit h in
/-- A state that time alone, or the end of a grace after it, leaves hushed. -/
theorem passed {s t : State} (h : s.hush) (p : ∃ u, OnlyTime s u ∧ (t = u ∨ t = Sys2Proof.Machine.graceExpiry u)) : t.hush := by
  obtain ⟨u, o, e⟩ := p
  have q : u.hush := by rw [o.same]; exact h
  rcases e with e | e
  · rw [e]; exact q
  · rw [e, q.graceExpiry]; exact q

theorem timeTo (ms : Nat) : (timeTo ms s).hush := h.passed (timeTo_time ms s)

theorem passSupply (ms : Nat) : (passSupply ms s).hush := h.passed (passSupply_time ms s)

theorem reportLevel (t : Nat) (w : WindowState) (c : WindowCause) : (reportLevel t w c s).hush := by
  unfold Sys2Proof.Machine.reportLevel
  dsimp only
  split
  · exact h
  · exact h.report _

theorem reportQuality (w : WindowState) (c : WindowCause) : (reportQuality w c s).hush := by
  unfold Sys2Proof.Machine.reportQuality
  dsimp only
  split
  · exact h
  · exact h.report _

theorem sampleTick (a b q : Nat) : (sampleTick a b q s).hush := by
  unfold Sys2Proof.Machine.sampleTick
  dsimp only
  exact hush.dueIf (hush.dueIf (hush.dueIf (h.setMch _) _ _) _ _) _ _

theorem stopQuality (u : ActuatorSetup) : (stopQuality u s).hush := by
  unfold Sys2Proof.Machine.stopQuality qualityOff
  dsimp only
  repeat' split
  · exact h.setMch _
  · exact hush.setTrs (hush.reportQuality (h.setMch _) _ _) _ h.train
  · exact h

/-! ## Actuators -/

theorem startTravel (a : Nat) (u : ActuatorSetup) (o : Bool) : (startTravel a u o s).1.hush := by
  unfold Sys2Proof.Machine.startTravel
  dsimp only
  split <;> exact h.putAct _ _ (h.safe a)

theorem closeReq (a : Nat) : (closeReq a s).1.hush := by
  unfold Sys2Proof.Machine.closeReq
  split
  · exact h
  · dsimp only
    rw [if_pos (h.safe a)]
    split
    · exact h
    · exact h.startTravel _ _ _

theorem closeRole (r : Role) : (closeRole r s).1.hush := by
  unfold Sys2Proof.Machine.closeRole
  split
  · exact h.closeReq _
  · exact h

theorem becomeStuck (a : Nat) (u : ActuatorSetup) (c : StuckCause) : (becomeStuck a u c s).1.hush := by
  unfold Sys2Proof.Machine.becomeStuck
  dsimp only
  rw [if_pos (h.safe a)]
  exact hush.report (h.putAct _ _ rfl) _

theorem endTravel (a : Nat) (u : ActuatorSetup) : (endTravel a u s).1.hush := h.putAct _ _ (h.safe a)

theorem openLimitChange (a : Nat) (b : Bool) : (openLimitChange a b s).1.hush := by
  unfold Sys2Proof.Machine.openLimitChange
  dsimp only
  repeat' split
  · exact h
  · exact h.endTravel _ _
  · exact h.endTravel _ _
  · exact h.becomeStuck _ _ _
  · exact h

theorem closedLimitChange (a : Nat) (b : Bool) : (closedLimitChange a b s).1.hush := by
  unfold Sys2Proof.Machine.closedLimitChange
  dsimp only
  repeat' split
  · exact h
  · exact h
  · exact h.endTravel _ _
  · exact h.becomeStuck _ _ _
  · exact h

theorem dropActuator (a : Nat) : dropActuator a s = (s, []) := by
  unfold Sys2Proof.Machine.dropActuator
  split
  · rfl
  · dsimp only
    rw [if_neg (by simp [h.safe a])]

theorem safeAfresh (a : Nat) : (safeAfresh a s).1.hush := by
  unfold Sys2Proof.Machine.safeAfresh
  split
  · exact h
  · exact hush.startTravel (h.putAct _ _ rfl) _ _ _

/-! ## Claims -/

theorem endWhere (p : Claim → Bool) (r : EndReason) : endWhere p r s = s := by
  unfold Sys2Proof.Machine.endWhere State.seqsWhere
  rw [h.noClaims]; rfl

theorem endSeq (r : EndReason) (q : Nat) : endSeq r s q = s := by
  unfold Sys2Proof.Machine.endSeq
  rw [h.noClaim]

theorem cleNotice (n : Notice) : cleNotice n s = s := by
  unfold Sys2Proof.Machine.cleNotice
  rw [h.noClaims]; rfl

theorem cleNotices (l : List Notice) : cleNotices l s = s := by
  unfold Sys2Proof.Machine.cleNotices
  induction l with
  | nil => rfl
  | cons n l ih => rw [List.foldl_cons, h.cleNotice, ih]

theorem takePulse (m : Nat) : takePulse m s = s := by
  unfold Sys2Proof.Machine.takePulse
  have k : s.counted m = none := by
    unfold State.counted
    rw [List.findSome?_eq_none_iff]
    intro g _
    unfold State.counting
    rw [h.noClaims]; rfl
  rw [k]

theorem createClaim (n : NewClaim) : (createClaim n s).1 = s := by
  unfold Sys2Proof.Machine.createClaim createRefusal
  rw [if_pos h.notJoined]

/-! ## Segments -/

theorem refuseWaiters (i : Nat) : (refuseWaiters i s).hush := by
  unfold Sys2Proof.Machine.refuseWaiters
  rw [h.noHoldWaits]
  exact h.setHoldWaits _ rfl

theorem clearFault (i : Nat) : (clearFault i s).hush := by
  unfold Sys2Proof.Machine.clearFault
  dsimp only
  repeat' split
  all_goals first
    | exact h
    | exact h.putSeg i { s.segOf i with state := .free } (h.noHolder i)

theorem segNotice (i : Nat) (k : NoticeKind) : (segNotice i k s).hush := by
  have f : ∀ {s : State}, s.hush → (faultSeg i s).hush := fun {s} h =>
    hush.refuseWaiters (h.putSeg i { s.segOf i with state := .fault } (h.noHolder i)) i
  unfold Sys2Proof.Machine.segNotice
  split
  · exact f h
  · exact f (h.closeRole _)
  · exact f h
  · exact h.clearFault _
  · exact h

theorem sweepSegments (src inc : Nat) (l : List ClaimItem) : (sweepSegments src inc l s).hush := by
  unfold Sys2Proof.Machine.sweepSegments
  refine hush.foldl (fun s i h => ?_) _ ?_
  · unfold sweepHold
    dsimp only
    rw [h.noHolder]
    exact h
  · rw [h.noHoldWaits]
    exact h.setHoldWaits _ rfl

theorem peerSegments (a : Nat) : (peerSegments a s).hush := by
  unfold Sys2Proof.Machine.peerSegments
  refine hush.foldl (fun s i h => ?_) _ ?_
  · unfold dropHold
    rw [h.noHolder]
    exact h
  · rw [h.noHoldWaits]
    exact h.setHoldWaits _ rfl

theorem boundarySegments : (boundarySegments s).hush := by
  unfold Sys2Proof.Machine.boundarySegments
  rw [h.noHoldWaits]
  exact h.setHoldWaits _ rfl

/-! ## Tanks -/

theorem scanQueue : scanQueue s = s := by
  unfold Sys2Proof.Machine.scanQueue
  rw [h.noTankWaits]; rfl

theorem mayFill (t : Nat) : s.mayFill t = false := by
  unfold State.mayFill
  have : (s.bc.busState == .joined) = false := by simp [h.notJoined]
  rw [this]; simp

theorem attemptFill (t : Nat) : attemptFill t s = s := by
  unfold Sys2Proof.Machine.attemptFill
  rw [h.mayFill]; rfl

theorem levelReading (t : Nat) : (levelReading t s).hush := by
  unfold Sys2Proof.Machine.levelReading
  dsimp only
  repeat' split
  · have q : (completeLevel t (by assumption) s).hush := hush.reportLevel (h.setMch _) _ _ _
    unfold levelEvent
    rw [if_neg (by rw [q.1]; simp)]
    exact q
  · exact h
  · exact h

theorem recordTanks (src inc : Nat) (l : List ClaimItem) : (recordTanks src inc l s).hush := by
  have f : ∀ (m : List Revoked) {s : State}, s.hush → (examineEntries src inc l m s).1.hush := by
    intro m
    induction m with
    | nil => exact fun h => h
    | cons x m ih =>
      intro s h
      refine ih ?_
      unfold examineMemory
      have o : ∀ m, (offer m s).1 = s := fun m => by unfold offer; rw [h.1]; rfl
      dsimp only
      repeat' split
      all_goals first
        | exact h
        | (rw [o]; exact h)
  have q : (((s.setGrants 0 ((s.tankOf 0).grants.filterMap (examineGrant s.ident.address src inc l 0))).setGrants 1
      ((s.tankOf 1).grants.filterMap (examineGrant s.ident.address src inc l 1))).setTankWaits
        (s.tkm.waits.filterMap (examineWait s.ident.address src inc l))).hush := by
    rw [h.noGrants, h.noGrants, h.noTankWaits]
    exact hush.setTankWaits (hush.putTank (h.putTank _ _ rfl) _ _ rfl) _ rfl
  have r := f (((s.setGrants 0 ((s.tankOf 0).grants.filterMap (examineGrant s.ident.address src inc l 0))).setGrants 1
      ((s.tankOf 1).grants.filterMap (examineGrant s.ident.address src inc l 1))).setTankWaits
        (s.tkm.waits.filterMap (examineWait s.ident.address src inc l))).tkm.memory q
  unfold Sys2Proof.Machine.recordTanks examineRevoked
  dsimp only
  split
  · rw [(r.setMemory _).scanQueue]; exact r.setMemory _
  · exact r.setMemory _

theorem peerTanks (a : Nat) : (peerTanks a s).hush := by
  unfold Sys2Proof.Machine.peerTanks dropGrants
  dsimp only
  have q : (s.setGrants 0 ((s.tankOf 0).grants.filter fun g => !(g.id.address == a))).hush := by
    rw [h.noGrants]; exact h.putTank _ _ rfl
  generalize s.setGrants 0 ((s.tankOf 0).grants.filter fun g => !(g.id.address == a)) = u at q ⊢
  have r : (u.setGrants 1 ((u.tankOf 1).grants.filter fun g => !(g.id.address == a))).hush := by
    rw [q.noGrants]; exact q.putTank _ _ rfl
  generalize u.setGrants 1 ((u.tankOf 1).grants.filter fun g => !(g.id.address == a)) = v at r ⊢
  have x : (v.setTankWaits (v.tkm.waits.filter (·.id.address != a))).hush := by
    rw [r.noTankWaits]; exact r.setTankWaits _ rfl
  exact x.setMemory _

theorem boundaryTanks : (boundaryTanks s).hush := by
  unfold Sys2Proof.Machine.boundaryTanks
  dsimp only
  have q : (s.putTank 0 (tankTimers (s.tankOf 0))).hush := h.putTank _ _ (h.noGrants 0)
  generalize s.putTank 0 (tankTimers (s.tankOf 0)) = u at q ⊢
  have r : (u.putTank 1 (tankTimers (u.tankOf 1))).hush := q.putTank _ _ (q.noGrants 1)
  generalize u.putTank 1 (tankTimers (u.tankOf 1)) = v at r ⊢
  have x := r.setMemory (v.tkm.memory.map fun m => { m with timer := m.timer - 1 })
  generalize v.setMemory (v.tkm.memory.map fun m => { m with timer := m.timer - 1 }) = w at x ⊢
  rw [x.noTankWaits]
  exact x.setTankWaits _ rfl

theorem planExchange : planExchange s = s := by
  unfold Sys2Proof.Machine.planExchange
  rw [h.1]; simp

/-! ## The train -/

theorem enterFault (c : FaultCause) : (enterTrain .fault .none c .none s).hush := by
  unfold enterTrain tellTrain changeTrain
  exact hush.report (h.setTrs _ (.inr rfl)) _

theorem faultTrain (c : FaultCause) : (faultTrain c s).hush := by
  have inflow : ∀ {s : State}, s.hush → (stopInflow s).hush := by
    intro s h
    unfold stopInflow
    split
    · have q : (s.mapTrs fun t => { t with ownStop := true }).hush := h.mapTrs _ rfl
      rw [q.endSeq]; exact q
    · exact h
  have flush : ∀ {s : State}, s.hush → (stopFlush s).hush := by
    intro s h
    unfold stopFlush
    split
    · rw [h.endSeq]; exact h
    · exact h
  unfold Sys2Proof.Machine.faultTrain
  split
  · exact h
  · dsimp only
    have q := hush.mapTrs (h.enterFault c) (fun t => { stillTimers t with flushResult := .none, ownStop := true }) rfl
    generalize (enterTrain .fault .none c .none s).mapTrs (fun t => { stillTimers t with flushResult := .none, ownStop := true }) = u at q ⊢
    have r := hush.closeRole (q.closeRole .highpress) .feed
    generalize (Sys2Proof.Machine.closeRole .feed (Sys2Proof.Machine.closeRole .highpress u).1).1 = v at r ⊢
    have x := r.closeRole .divert
    rw [x.cleNotices]
    exact flush (inflow x)

theorem tryStopped : tryStopped s = s := by
  unfold Sys2Proof.Machine.tryStopped
  rw [if_neg]
  rcases h.train with e | e <;> simp [e]

theorem trsNotice (n : Notice) : (trsNotice n s).hush := by
  have d : divertLost s = s := by
    unfold divertLost
    rw [if_neg]
    rcases h.train with e | e <;> simp [e]
  unfold Sys2Proof.Machine.trsNotice
  split
  · exact h.faultTrain _
  · rw [d]; exact h
  · rw [d]; exact h
  · exact h
  · exact h.faultTrain _
  · exact h.faultTrain _
  · exact h
  · rw [h.tryStopped]; exact h
  · exact h

theorem watching : s.watching = false := by
  unfold State.watching watched
  rcases h.train with e | e <;> simp [e]

theorem diverted : s.diverted = false := by
  unfold State.diverted
  rcases h.train with e | e <;> simp [e]

omit h in
theorem qualityTimers (a b : WindowState) (t : Train) : (qualityTimers a b t).state = t.state := by
  unfold Sys2Proof.Machine.qualityTimers
  dsimp only
  repeat' split
  all_goals rfl

theorem qualityReading : (qualityReading s).hush := by
  unfold Sys2Proof.Machine.qualityReading
  dsimp only
  repeat' split
  · have q : (completeQuality (by assumption) s).hush := hush.reportQuality (h.setMch _) _ _
    generalize completeQuality (by assumption) s = u at q ⊢
    unfold qualityEvent
    dsimp only
    have r := q.mapTrs (Sys2Proof.Machine.qualityTimers s.mch.quality.window u.mch.quality.window) (State.hush.qualityTimers _ _ _)
    rw [if_neg (by rw [r.watching]; simp)]
    exact r
  · exact h
  · exact h

theorem askNext (n : Nat) : askNext n s = s := by
  have k : s.mayAsk = false := by
    unfold State.mayAsk
    rcases h.train with e | e <;> simp [e]
  unfold Sys2Proof.Machine.askNext
  split
  · rfl
  · rw [k]; rfl

theorem feedChange (b : Bool) : (feedChange b s).hush := by
  unfold Sys2Proof.Machine.feedChange tryPending
  rcases h.train with e | e <;> simp [e, h]

theorem boundaryTrain (p : Bool) : (boundaryTrain p s).hush := by
  have tk : ∀ (b : Bool) (w : WindowState) (t : Train), (sensorTick (productTicks w (permitTick b t))).state = t.state := by
    intro b w t
    unfold sensorTick productTicks permitTick
    repeat' split
    all_goals rfl
  have q := h.mapTrs (fun t => sensorTick (productTicks s.mch.quality.window (permitTick p t))) (tk _ _ _)
  unfold Sys2Proof.Machine.boundaryTrain
  dsimp only
  generalize s.mapTrs (fun t => sensorTick (productTicks s.mch.quality.window (permitTick p t))) = u at q ⊢
  have e : phaseTick u = u := by
    unfold phaseTick
    rcases q.train with e | e <;> rw [e]
  rw [e]
  exact q

/-! ## Notices, contacts, scans -/

theorem dispatch (n : Notice) : (dispatch s n).hush := by
  unfold Sys2Proof.Machine.dispatch
  split
  · rw [h.cleNotice]; exact h
  · rw [h.cleNotice]; exact h
  · rw [h.cleNotice]; exact h
  · exact h.segNotice _ _
  · unfold divertNotice
    rw [h.cleNotice, (h.trsNotice n).cleNotice, ite_self]; exact h.trsNotice n
  · exact h.trsNotice _

omit h in
theorem notify {x : State × List Notice} (h : x.1.hush) : (notify x).hush := hush.foldl (fun _ n h => h.dispatch n) _ h

theorem overflowChange (t : Nat) (b : Bool) : (overflowChange t b s).hush := by
  unfold Sys2Proof.Machine.overflowChange
  split
  · have r : revokeOverflow t s = s := by
      unfold revokeOverflow
      rw [h.noGrants]; rfl
    rw [r]
    have q : (Sys2Proof.Machine.notify (Sys2Proof.Machine.closeRole (.fill t) s)).hush := hush.notify (h.closeRole _)
    unfold overflowClaims
    rw [q.endWhere]
    exact q
  · exact h

theorem contactEvent (r : ContactRole) (b : Bool) : (contactEvent r b s).hush := by
  unfold Sys2Proof.Machine.contactEvent
  split
  · exact hush.notify (h.openLimitChange _ _)
  · exact hush.notify (h.closedLimitChange _ _)
  · exact h.feedChange _
  · exact h.overflowChange _ _
  · exact h

theorem sampleContact (c : Nat) (b : Bool) : (sampleContact c b s).1.hush := by
  unfold Sys2Proof.Machine.sampleContact
  dsimp only
  repeat' split
  · exact h
  · exact hush.report (h.setFsc _) _
  · exact h.setFsc _

theorem contactStep (b : Bool) (c : Nat) : (contactStep b c s).hush := by
  unfold Sys2Proof.Machine.contactStep
  dsimp only
  split
  · exact hush.contactEvent (h.sampleContact _ _) _ _
  · exact h.sampleContact _ _

theorem sampleGroup (g : Nat) (x : Byte) : (sampleGroup g x s).hush := by
  have q : ((List.range 8).foldl (fun s r => Sys2Proof.Machine.contactStep (x.getLsbD r) (8 * g + r) s) s).hush :=
    hush.foldl (fun _ _ h => h.contactStep _ _) _ h
  unfold Sys2Proof.Machine.sampleGroup
  dsimp only
  rw [q.scanQueue, ite_self]
  exact q

theorem scanComplete (p : Bool) : (scanComplete p s).hush := by
  have a : (scanAlarms s).hush := by
    refine hush.foldl (fun s c h => ?_) _ h
    unfold alarmScan
    dsimp only
    split
    · exact hush.dueIf (h.setFsc _) _ _
    · exact h
  have b : ∀ {s : State}, s.hush → (scanActuators s).hush := by
    intro s h
    refine hush.foldl (fun s x h => ?_) _ h
    unfold travelScan
    dsimp only
    split
    · have w := h.putAct x { s.actOf x with timer := (s.actOf x).timer + 1 } (h.safe x)
      split
      · exact w.setDue _
      · exact w.dueIf _ _
    · exact h
  have c : ∀ {s : State}, s.hush → (dropAll s).hush := by
    intro s h
    refine hush.foldl (fun s x h => ?_) _ h
    rw [h.dropActuator]
    exact h
  exact c (hush.setIla (b a) _)

theorem repeatAlarm (c : Nat) : (repeatAlarm c s).hush := by
  unfold Sys2Proof.Machine.repeatAlarm
  dsimp only
  split
  · exact hush.setFsc (h.report _) _
  · exact h

theorem travelTimeEnd (a : Nat) : (travelTimeEnd a s).hush := by
  unfold Sys2Proof.Machine.travelTimeEnd
  repeat' split
  · exact hush.notify (h.endTravel _ _)
  · exact h
  · exact h

theorem stuckAround (a : Nat) {f : State → State} (hf : ∀ s, s.hush → (f s).hush) : (stuckAround a f s).hush := by
  unfold Sys2Proof.Machine.stuckAround
  dsimp only
  split
  · split
    · exact hush.notify (hf _ (h.becomeStuck _ _ _))
    · exact hf _ h
  · exact hf _ h

theorem travelStuck (a : Nat) : (travelStuck a s).hush := h.stuckAround a fun _ k => k

/-! ## The station's own events -/

theorem perform (e : Due) : (perform s e).hush := by
  unfold Sys2Proof.Machine.perform
  split
  · exact h.levelReading _
  · exact h.qualityReading
  · exact h.repeatAlarm _
  · exact h.travelTimeEnd _
  · exact h.travelStuck _
  · unfold repeatRequest; rw [h.noClaim]; exact h
  · unfold timeoutClaim; rw [h.noClaim]; exact h
  · unfold stallClaim; rw [h.noClaim]; exact h
  · rw [h.attemptFill]; exact h
  · unfold noFeed; rcases h.train with e | e <;> simp [e, h]
  · unfold budgetTest; rcases h.train with e | e <;> simp [e, h]
  · unfold rampComplete; rcases h.train with e | e <;> simp [e, h]
  · unfold holdTimeout; rcases h.train with e | e <;> simp [e, h]
  · unfold settleComplete; rcases h.train with e | e <;> simp [e, h]
  · unfold settleLimit; rcases h.train with e | e <;> simp [e, h]
  · unfold marginalTimeout; simp [h.watching, h]
  · unfold diversionLimit; simp [h.diverted, h]
  · unfold goodResume; simp [h.diverted, h]
  · unfold sensorTimeout; rcases h.train with e | e <;> simp [e, sensed, h]
  · unfold permitTimeout; rcases h.train with e | e <;> simp [e, stoppable, h]
  · unfold retryEnd
    split
    · have q : (s.mapTrs fun t => { t with retry := none }).hush := h.mapTrs _ rfl
      rw [q.askNext]; exact q
    · exact h
  · unfold rateEnd; rcases h.train with e | e <;> simp [e, rated, h]
  · rw [h.planExchange]; exact h
  · rw [h.graceExpiry]; exact h

theorem settle : (settle s).hush := hush.foldl (fun _ e h => h.perform e) _ h

/-! ## The bus -/

theorem reportPeer (a : Nat) (n : PeerNews) : (reportPeer a n s).hush := by
  unfold Sys2Proof.Machine.reportPeer
  split
  · exact h.report _
  · exact h

theorem peerGone (a : Nat) : (peerGone a s).hush := by
  unfold Sys2Proof.Machine.peerGone peerClaims
  rw [h.endWhere]
  exact hush.peerSegments (h.peerTanks a) a

theorem putRoster (a : Nat) (e : RosterEntry) : (s.putRoster a e).hush := by
  unfold State.putRoster
  split <;> exact h

theorem putNwt (a : Nat) (e : Option NwtEntry) : (s.putNwt a e).hush := by
  unfold State.putNwt
  split <;> exact h

theorem passRecord (a inc : Nat) (r : StatusRecord) : (passRecord a inc r s).hush := by
  unfold Sys2Proof.Machine.passRecord recordClaims
  rw [h.endWhere]
  exact hush.sweepSegments (h.recordTanks _ _ _) _ _ _

theorem takeRecord (a inc : Nat) (w : Word) (r : StatusRecord) : (takeRecord a inc w r s).hush :=
  hush.passRecord (h.putNwt _ _) _ _ _

theorem takeHeader (a inc : Nat) (l : Bool) : (takeHeader a inc l s).hush := by
  unfold Sys2Proof.Machine.takeHeader
  dsimp only
  have q := h.putRoster a ⟨.present, inc, s.bc.round, 0, l⟩
  repeat' split
  · exact q.reportPeer _ _
  · exact q
  · have r := hush.peerGone (q.reportPeer a (.restarted inc (s.rosterOf a).incarnation)) a
    rw [r.scanQueue]; exact r

theorem takeMessages (a inc : Nat) (l : List Message) : takeMessages a inc l s = s := by
  unfold Sys2Proof.Machine.takeMessages
  induction l with
  | nil => rfl
  | cons m l ih =>
    rw [List.foldl_cons]
    have e : (if m.dest = s.ident.address then takeMessage a inc m.body s else s) = s := by
      split
      · unfold takeMessage
        rw [h.1]; rfl
      · rfl
    rw [e]; exact ih

theorem takeFrame (f : StationFrame) : (takeFrame f s).hush := by
  unfold Sys2Proof.Machine.takeFrame
  dsimp only
  have q := hush.takeRecord (hush.takeHeader (h.setBc { s.bc with heard := f.source :: s.bc.heard } rfl) f.source
    f.incarnation f.leaving) f.source f.incarnation f.round f.record
  rw [q.takeMessages]
  exact q

theorem missedSlots (ran : Nat) : (missedSlots ran s).hush := by
  have q : (addresses.foldl (missSlot ran) s).hush := by
    refine hush.foldl (fun s a h => ?_) _ h
    unfold missSlot
    dsimp only
    repeat' split
    · exact h
    · exact h
    · exact hush.putNwt (h.putRoster _ _) _ _
    · exact h.putRoster _ _
    · exact hush.peerGone (hush.reportPeer (hush.putNwt (h.putRoster _ _) _ _) _ _) _
  unfold Sys2Proof.Machine.missedSlots
  dsimp only
  split
  · rw [q.scanQueue]; exact q
  · exact q

theorem openRound (src : BoundarySource) : (openRound src s).hush := by
  unfold Sys2Proof.Machine.openRound
  split <;> exact h.setBc _ rfl

theorem yieldMark (src : BoundarySource) : (yieldMark src s).hush := by
  unfold Sys2Proof.Machine.yieldMark
  repeat' split
  · exact h
  · exact h.setBc _ rfl
  · exact h

theorem openSlots (now : Nat) : (openSlots now s).hush := h.setBc _ rfl

theorem testTakeover (src : BoundarySource) : testTakeover src s = s := by
  unfold Sys2Proof.Machine.testTakeover
  rw [if_neg]
  simp [h.notJoined]

theorem boundaryBlocks (p : Bool) : (boundaryBlocks p s).hush := by
  have claims : ∀ {s : State}, s.hush → (boundaryClaims s).hush := by
    intro s h
    unfold boundaryClaims
    dsimp only
    rw [h.noClaims]
    exact hush.setDue (h.setClaims _ rfl) _
  have fill : ∀ {s : State} (t : Nat), s.hush → (fillDue t s).hush := fun t h => h.dueIf _ _
  unfold Sys2Proof.Machine.boundaryBlocks
  dsimp only
  exact hush.boundaryTrain (fill _ (fill _ (claims (hush.boundarySegments (hush.boundaryTanks (h.dueIf _ _)))))) p

end State.hush

/-! ## Into hush: withdrawals and resets -/

/-- Nothing held outside JOINED and HOLDING, and the train STOPPED or in FAULT; the commands of the actuators apart. -/
def State.vacant (s : State) : Prop :=
  s.serving = false ∧ s.cle.list = [] ∧ (∀ t, (s.tankOf t).grants = []) ∧ s.tkm.waits = [] ∧ s.sga.waits = [] ∧
    (∀ i, (s.segOf i).holder = none) ∧ (s.trs.state = .stopped ∨ s.trs.state = .fault)

/-- No actuator that is not set up is commanded open. -/
def State.unsetSafe (s : State) : Prop := ∀ a, s.actSetup a = none → (s.actOf a).command = .safe

namespace State.vacant

theorem look_empty {n : Nat} (v : Vector Actuator n) (i : Nat) (h : n ≤ i) : look v Actuator.initial i = Actuator.initial := by
  unfold look
  simp [List.getD, h]

theorem actOf_congr {s t : State} (e : t.act = s.act) (b : Nat) : t.actOf b = s.actOf b := by
  unfold State.actOf
  rw [e]

theorem report {s : State} (h : s.vacant) (b : ReportBody) : (report b s).vacant := by
  unfold Sys2Proof.Machine.report
  split <;> exact h

theorem report_act (s : State) (b : ReportBody) : (Sys2Proof.Machine.report b s).act = s.act := by
  unfold Sys2Proof.Machine.report
  split <;> rfl

theorem clearFault {s : State} (h : s.vacant) (i : Nat) : (clearFault i s).vacant ∧ (clearFault i s).act = s.act := by
  have k : (s.putSeg i { s.segOf i with state := .free }).vacant := by
    obtain ⟨h1, h2, h3, h4, h5, h6, h7⟩ := h
    refine ⟨h1, h2, h3, h4, h5, fun b => ?_, h7⟩
    unfold State.segOf State.putSeg State.setSga
    simp only [look_put]
    split
    · exact h6 i
    · exact h6 b
  unfold Sys2Proof.Machine.clearFault
  dsimp only
  repeat' split
  all_goals first
    | exact ⟨h, rfl⟩
    | exact ⟨k, rfl⟩

/-- The end of a travel is no event to a vacant station, a segment's FAULT apart. -/
theorem dispatch {s : State} (h : s.vacant) (n : Notice) (r : Travel) (k : n.kind = .travelDone r) :
    (dispatch s n).vacant ∧ (dispatch s n).act = s.act := by
  have c : cleNotice n s = s := by
    unfold cleNotice
    rw [h.2.1]; rfl
  have e : ∀ t : State, t.vacant → tryStopped t = t := by
    intro t h
    unfold tryStopped
    rw [if_neg]
    rcases h.2.2.2.2.2.2 with e | e <;> simp [e]
  unfold Sys2Proof.Machine.dispatch
  split
  · rw [c]; exact ⟨h, rfl⟩
  · rw [c]; exact ⟨h, rfl⟩
  · rw [c]; exact ⟨h, rfl⟩
  · unfold segNotice
    rw [k]
    split
    · rename_i q; cases q
    · rename_i q; cases q
    · rename_i q; cases q
    · exact h.clearFault _
    · exact ⟨h, rfl⟩
  · rename_i d
    unfold divertNotice
    have q : trsNotice n s = s := by
      unfold trsNotice
      rw [d, k]
    rw [c, q, c, ite_self]; exact ⟨h, rfl⟩
  · unfold trsNotice
    rw [k]
    split
    all_goals first
      | exact ⟨h, rfl⟩
      | (rw [e s h]; exact ⟨h, rfl⟩)
      | (rename_i q; cases q)
      | (rename_i q _; cases q)

theorem notices {s : State} (h : s.vacant) (l : List Notice) (k : ∀ n ∈ l, ∃ r, n.kind = .travelDone r) :
    (notify (s, l)).vacant ∧ (notify (s, l)).act = s.act := by
  unfold notify
  dsimp only
  induction l generalizing s with
  | nil => exact ⟨h, rfl⟩
  | cons n l ih =>
    obtain ⟨r, e⟩ := k n (by simp)
    obtain ⟨v, a⟩ := h.dispatch n r e
    rw [List.foldl_cons]
    obtain ⟨w, b⟩ := ih v fun m hm => k m (by simp [hm])
    exact ⟨w, b.trans a⟩

theorem putAct {s : State} (h : s.vacant) (a : Nat) (x : Actuator) : (s.putAct a x).vacant := h

theorem actOf_putAct (s : State) (a b : Nat) (x : Actuator) :
    (s.putAct a x).actOf b = if a = b ∧ a < 12 then x else s.actOf b := look_put _ _ _ _ _

/-- A travel starts: nothing but the actuator changes, its command stands, and only the end of a travel is told. -/
theorem startTravel {s : State} (h : s.vacant) (a : Nat) (u : ActuatorSetup) (o : Bool) :
    (startTravel a u o s).1.vacant ∧ (∀ b, ((startTravel a u o s).1.actOf b).command = (s.actOf b).command) ∧
      ∀ n ∈ (startTravel a u o s).2, ∃ r, n.kind = .travelDone r := by
  unfold Sys2Proof.Machine.startTravel
  dsimp only
  split
  · refine ⟨h, fun b => ?_, fun n hn => ⟨reached o, ?_⟩⟩
    · rw [actOf_putAct]; split
      · rename_i e; rw [e.1]
      · rfl
    · simp at hn; rw [hn]
  · refine ⟨h, fun b => ?_, fun n hn => by simp at hn⟩
    rw [actOf_putAct]; split
    · rename_i e; rw [e.1]
    · rfl

theorem stopQuality {s : State} (h : s.vacant) (u : ActuatorSetup) :
    (stopQuality u s).vacant ∧ (stopQuality u s).act = s.act := by
  unfold Sys2Proof.Machine.stopQuality qualityOff reportQuality
  dsimp only
  repeat' split
  all_goals first
    | exact ⟨h, rfl⟩
    | skip
  refine ⟨?_, ?_⟩
  · have q := State.vacant.report (s := s.setMch { s.mch with quality := Channel.initial }) h
      (.window 2 s.mch.quality.window Channel.initial.window Channel.initial.accepted .pumpOff none)
    exact ⟨q.1, q.2.1, q.2.2.1, q.2.2.2.1, q.2.2.2.2.1, q.2.2.2.2.2.1, h.2.2.2.2.2.2⟩
  · exact report_act _ _

/-- A close request with its notices handed on: the actuator is safe, and no other command changes. -/
theorem closed {s : State} (h : s.vacant) (a : Nat) :
    (notify (closeReq a s)).vacant ∧ ((s.actSetup a).isSome = true → ((notify (closeReq a s)).actOf a).command = .safe) ∧
      ∀ b, (s.actOf b).command = .safe → ((notify (closeReq a s)).actOf b).command = .safe := by
  have key : ∀ x : State × List Notice, x.1.vacant → (∀ n ∈ x.2, ∃ r, n.kind = .travelDone r) →
      ((s.actSetup a).isSome = true → (x.1.actOf a).command = .safe) →
      (∀ b, (s.actOf b).command = .safe → (x.1.actOf b).command = .safe) →
      (notify x).vacant ∧ ((s.actSetup a).isSome = true → ((notify x).actOf a).command = .safe) ∧
        ∀ b, (s.actOf b).command = .safe → ((notify x).actOf b).command = .safe := by
    intro x v n c d
    obtain ⟨w, e⟩ := State.vacant.notices v x.2 n
    have f : ∀ b, (notify x).actOf b = x.1.actOf b := actOf_congr e
    exact ⟨w, fun k => by rw [f]; exact c k, fun b k => by rw [f]; exact d b k⟩
  unfold closeReq
  split
  · rename_i e
    exact key (s, []) h (by simp) (by rw [e]; intro k; cases k) (fun _ k => k)
  · rename_i u e
    dsimp only
    have safe : ∃ t : State, (if (s.actOf a).command = .safe then s
        else Sys2Proof.Machine.stopQuality u (s.putAct a { s.actOf a with command := .safe })) = t ∧ t.vacant ∧
          (t.actOf a).command = .safe ∧ ∀ b, (s.actOf b).command = .safe → (t.actOf b).command = .safe := by
      split
      · rename_i c
        exact ⟨s, rfl, h, c, fun _ k => k⟩
      · have q := State.vacant.stopQuality (h.putAct a { s.actOf a with command := .safe }) u
        have f : ∀ b, ((Sys2Proof.Machine.stopQuality u (s.putAct a { s.actOf a with command := .safe })).actOf b) =
            (s.putAct a { s.actOf a with command := .safe }).actOf b := actOf_congr q.2
        refine ⟨_, rfl, q.1, ?_, fun b k => ?_⟩
        · rw [f, actOf_putAct]
          split
          · rfl
          · rename_i c
            rw [State.actOf, look_empty _ _ (by omega)]; rfl
        · rw [f, actOf_putAct]
          split
          · rfl
          · exact k
    obtain ⟨t, et, v, ca, cb⟩ := safe
    rw [et]
    split
    · exact key (t, []) v (by simp) (fun _ => ca) cb
    · obtain ⟨w, c, n⟩ := v.startTravel a u false
      exact key _ w n (fun _ => by rw [c]; exact ca) (fun b k => by rw [c]; exact cb b k)

/-- A step at one actuator that makes it safe and leaves the others safe, taken at all of them, makes a vacant station quiet. -/
theorem all_safe {f : State → Nat → State} {s : State} (h : s.vacant) (u : s.unsetSafe)
    (hf : ∀ (s : State) (a : Nat), s.vacant → s.unsetSafe → (f s a).vacant ∧ (f s a).unsetSafe ∧ ((f s a).actOf a).command = .safe ∧
      ∀ b, (s.actOf b).command = .safe → ((f s a).actOf b).command = .safe) : ((List.range 12).foldl f s).quiet := by
  have key : ∀ (l : List Nat) (s : State), s.vacant → s.unsetSafe → (l.foldl f s).vacant ∧
      (∀ a ∈ l, ((l.foldl f s).actOf a).command = .safe) ∧
      ∀ b, (s.actOf b).command = .safe → ((l.foldl f s).actOf b).command = .safe := by
    intro l
    induction l with
    | nil => intro s h _; exact ⟨h, by simp, fun _ k => k⟩
    | cons a l ih =>
      intro s h u
      obtain ⟨v, w, c, d⟩ := hf s a h u
      obtain ⟨x, y, z⟩ := ih _ v w
      rw [List.foldl_cons]
      refine ⟨x, fun b hb => ?_, fun b k => z b (d b k)⟩
      rcases List.mem_cons.1 hb with e | e
      · subst e; exact z _ c
      · exact y b e
  obtain ⟨⟨x1, x2, x3, x4, x5, x6, x7⟩, y, _⟩ := key _ s h u
  refine ⟨⟨x2, x3, x4, x5, x6, fun a => ?_⟩, x7⟩
  by_cases l : a < 12
  · exact y a (by simpa using l)
  · rw [State.actOf, look_empty _ _ (by omega)]; rfl

theorem withdrawn {s : State} (h : s.vacant) (u : s.unsetSafe) : ((List.range 12).foldl withdrawActuator s).quiet := by
  refine h.all_safe u fun s a h u => ?_
  have w := withdrawActuator_works (Works.refl s) a
  have us : (withdrawActuator s a).unsetSafe := fun b e => by
    rw [State.actSetup, w.setup] at e
    rw [w.unset b e]; exact u b e
  refine ⟨?_, us, ?_, ?_⟩
  all_goals unfold withdrawActuator
  · split
    · exact h
    · exact (h.closed a).1
  · split
    · assumption
    · rename_i c
      refine (h.closed a).2.1 ?_
      cases e : s.actSetup a with
      | none => exact absurd (u a e) c
      | some x => rfl
  · intro b k
    split
    · exact k
    · exact (h.closed a).2.2 b k

theorem restarted {s : State} (h : s.vacant) (u : s.unsetSafe) : (restartActuators s).quiet := by
  unfold restartActuators
  refine h.all_safe u fun s a h u => ?_
  have w : Works s (notify (safeAfresh a s)) := notify_works (safeAfresh_works (Works.refl s) a)
  have us : (notify (safeAfresh a s)).unsetSafe := fun b e => by
    rw [State.actSetup, w.setup] at e
    rw [w.unset b e]; exact u b e
  have key : (safeAfresh a s).1.vacant ∧ (∀ n ∈ (safeAfresh a s).2, ∃ r, n.kind = .travelDone r) ∧
      ((safeAfresh a s).1.actOf a).command = .safe ∧
      ∀ b, (s.actOf b).command = .safe → ((safeAfresh a s).1.actOf b).command = .safe := by
    unfold safeAfresh
    split
    · rename_i e
      exact ⟨h, by simp, u a e, fun _ k => k⟩
    · obtain ⟨w, c, n⟩ := State.vacant.startTravel (h.putAct a { s.actOf a with command := .safe }) a (by assumption) false
      refine ⟨w, n, ?_, fun b k => ?_⟩
      · rw [c, actOf_putAct]
        split
        · rfl
        · rw [State.actOf, look_empty _ _ (by omega)]; rfl
      · rw [c, actOf_putAct]
        split
        · rfl
        · exact k
  obtain ⟨v, e⟩ := key.1.notices _ key.2.1
  have f : ∀ b, (notify (safeAfresh a s)).actOf b = (safeAfresh a s).1.actOf b := actOf_congr e
  exact ⟨v, us, by rw [f]; exact key.2.2.1, fun b k => by rw [f]; exact key.2.2.2 b k⟩

theorem dormant {s : State} (h : s.vacant) (u : s.unsetSafe) : (dormantActuators s).quiet := by
  unfold dormantActuators
  refine h.all_safe u fun s a h u => ?_
  split
  · refine ⟨h, fun b e => ?_, ?_, fun b k => ?_⟩
    · rw [actOf_putAct]
      split
      · rfl
      · exact u b e
    · rw [actOf_putAct]
      split
      · rfl
      · rw [State.actOf, look_empty _ _ (by omega)]; rfl
    · rw [actOf_putAct]
      split
      · rfl
      · exact k
  · rename_i e
    exact ⟨h, u, u a (by simpa using e), fun _ k => k⟩

end State.vacant

/-! ## Law 11 at withdrawals, resets and the start -/

/-- What Law 11 rests on outside a serving station, after a withdrawal: quiet is kept by everything that leaves its parts. -/
theorem hush_of {s t : State} (q : s.quiet) (c : t.cle.list = s.cle.list) (k : t.tkm = s.tkm) (g : t.sga = s.sga)
    (a : t.act = s.act) (r : t.trs = s.trs) (n : t.serving = false) (l : t.bc.busState = .listen → t.setup.locked = true) :
    t.hush := ⟨n, quiet_congr q c k g a (by rw [r]), l⟩

theorem tankOf_initial (s : State) (t : Nat) : (s.setTkm Tanks.initial).tankOf t = TankState.initial := look_replicate _ _ _

/-- The claims, tanks, segments and train emptied. -/
theorem emptied_vacant {s : State} (n : s.serving = false) (g : Segments) (w : g.waits = [])
    (o : ∀ i, (look g.seg Segment.initial i).holder = none) (b : Bool) (m : Channels) :
    (((((s.setClaims []).setTkm Tanks.initial).setSga g).setTrs (Train.initial b)).setMch m).vacant :=
  ⟨n, rfl, fun t => congrArg TankState.grants (tankOf_initial s t), rfl, w, o, .inl rfl⟩

theorem silent_noHolder (g : Segments) (i : Nat) : (look g.silent.seg Segment.initial i).holder = none := by
  unfold Segments.silent
  simp only [look_put]
  split
  · rfl
  · split
    · rfl
    · split
      · rfl
      · split
        · rfl
        · unfold look
          rw [List.getD_eq_default _ _ (by simp; omega)]
          rfl

theorem unset_of_law {s : State} (h : s.lawEleven) : s.unsetSafe := h.2.1

/-- Everything emptied and the actuators withdrawn, away from LISTEN, JOINED and HOLDING. -/
theorem withdrawn_hush {t : State} (n : t.serving = false) (u : t.unsetSafe) (b : t.bc.busState ≠ .listen) (g : Segments)
    (o : ∀ i, (look g.seg Segment.initial i).holder = none) (w : g.waits = []) (x : Bool) :
    ((List.range 12).foldl withdrawActuator
      (((((t.setClaims []).setTkm Tanks.initial).setSga g).setTrs (Train.initial x)).setMch Channels.initial)).hush := by
  have q := (emptied_vacant n g w o x Channels.initial).withdrawn u
  have y := Works.fold (fun s a => withdrawActuator_works (Works.refl s) a) (List.range 12) (Works.refl
    (((((t.setClaims []).setTkm Tanks.initial).setSga g).setTrs (Train.initial x)).setMch Channels.initial))
  exact ⟨y.serving.trans n, q, fun l => absurd (y.busState.symm.trans l) b⟩

theorem dropOwn_bc (s : State) : (dropOwn s).bc = s.bc := by
  unfold dropOwn
  rw [putNwt_bc, putRoster_bc]

theorem dropOwn_unset {s : State} (h : s.unsetSafe) : (dropOwn s).unsetSafe := by
  have a : (dropOwn s).act = s.act := by
    unfold dropOwn
    rw [putNwt_eq, putRoster_eq]; rfl
  have c : (dropOwn s).setup = s.setup := by
    unfold dropOwn
    rw [putNwt_setup, putRoster_setup]
  intro b k
  rw [State.actSetup, c] at k
  rw [State.vacant.actOf_congr a]
  exact h b k

theorem enterSilent_hush {s : State} (h : s.unsetSafe) (n : BusNews) : (enterSilent n s).hush := by
  have e := dropOwn_bc (s.setBc s.bc.silent)
  have f : (dropOwn (s.setBc s.bc.silent)).serving = false := by unfold State.serving; rw [e]; rfl
  have u : (dropOwn (s.setBc s.bc.silent)).unsetSafe := dropOwn_unset (s := s.setBc s.bc.silent) h
  have b : (dropOwn (s.setBc s.bc.silent)).bc.busState ≠ .listen := by rw [e]; simp [BusCtl.silent]
  unfold enterSilent
  dsimp only
  generalize dropOwn (s.setBc s.bc.silent) = t at f u b ⊢
  apply State.hush.report
  apply State.hush.setPort
  apply State.hush.setPls
  exact withdrawn_hush f u b _ (silent_noHolder _) rfl _

theorem initial_noHolder (i : Nat) : (look Segments.initial.seg Segment.initial i).holder = none := by
  rw [show look Segments.initial.seg Segment.initial i = Segment.initial from look_replicate _ _ _]
  rfl

/-- Everything emptied and the actuators released, away from LISTEN, JOINED and HOLDING. -/
theorem released_hush {t : State} (n : t.serving = false) (u : t.unsetSafe) (b : t.bc.busState ≠ .listen) (x : Bool) :
    (dormantActuators (((((t.setClaims []).setTkm Tanks.initial).setSga Segments.initial).setTrs
      (Train.initial x)).setMch Channels.initial)).hush := by
  have q := (emptied_vacant n Segments.initial rfl initial_noHolder x Channels.initial).dormant u
  have w := dormantActuators_works (Works.refl
    (((((t.setClaims []).setTkm Tanks.initial).setSga Segments.initial).setTrs (Train.initial x)).setMch Channels.initial))
  exact ⟨w.serving.trans n, q, fun l => absurd (w.busState.symm.trans l) b⟩

theorem enterDormant_hush {s : State} (h : s.unsetSafe) : (enterDormant s).hush := by
  have n : (forgetPeers (s.setBc s.bc.dormant)).serving = false := rfl
  have u : (forgetPeers (s.setBc s.bc.dormant)).unsetSafe := h
  have b : (forgetPeers (s.setBc s.bc.dormant)).bc.busState ≠ .listen := by simp [forgetPeers, BusCtl.dormant]
  unfold enterDormant
  dsimp only
  generalize forgetPeers (s.setBc s.bc.dormant) = t at n u b ⊢
  apply State.hush.setDue
  apply State.hush.setPort
  apply State.hush.setPls
  apply State.hush.setIla
  apply State.hush.setFsc
  exact released_hush n u b _

/-- Everything emptied and the actuators' travels started afresh, in LISTEN of a locked station. -/
theorem restarted_hush {t : State} (n : t.serving = false) (v : t.vacant) (u : t.unsetSafe)
    (l : t.bc.busState = .listen → t.setup.locked = true) : (restartActuators t).hush := by
  have w := restartActuators_works (Works.refl t)
  exact ⟨w.serving.trans n, v.restarted u, fun k => by rw [w.setup]; exact l (w.busState.symm.trans k)⟩

/-- A warm reset. Outside JOINED and HOLDING nothing is commanded open; in them the setup is locked. -/
theorem warmReset_hush {s : State} (h : s.lawEleven) : (warmReset s).hush := by
  have key : ∀ (i : Ident) (b : BusCtl) (t : Train) (c : Vector CellHistory 8) (p : Port), b.busState ≠ .joined →
      b.busState ≠ .holding → (b.busState = .listen → s.setup.locked = true) → t.state = .stopped →
      ∃ u : State, u = ((dropSwap (((((((((forgetPeers ((s.setIdent i).setBc b)).setMch Channels.initial).setFsc
        Scanner.initial).setClaims []).setTkm Tanks.initial).setSga Segments.initial).setTrs t).setIla c))).setPort p).setDue [] ∧
        u.vacant ∧ u.unsetSafe ∧ (u.bc.busState = .listen → u.setup.locked = true) ∧ u.act = s.act := by
    intro i b t c p j k l e
    refine ⟨_, rfl, ⟨?_, rfl, ?_, rfl, rfl, initial_noHolder, .inl e⟩, h.2.1, l, rfl⟩
    · show (b.busState == .joined || b.busState == .holding) = false
      simp [j, k]
    · intro n
      show (look Tanks.initial.tank TankState.initial n).grants = []
      rw [show look Tanks.initial.tank TankState.initial n = TankState.initial from look_replicate _ _ _]
      rfl
  obtain ⟨u, e, v, us, l, a⟩ := key { s.ident with incarnation := nextIncarnation s.ident.incarnation }
    (s.bc.warm s.setup.locked) (Train.initial s.trs.unflushed) State.reset.ila s.port.warm
    (by unfold BusCtl.warm; cases s.setup.locked <;> simp) (by unfold BusCtl.warm; cases s.setup.locked <;> simp)
    (by unfold BusCtl.warm; cases s.setup.locked <;> simp) rfl
  have r : warmReset s = if s.setup.locked then restartActuators u else u := by
    subst e
    rfl
  rw [r]
  split
  · exact restarted_hush v.1 v us l
  · rename_i k
    have z : s.serving = false := by
      cases x : s.serving
      · rfl
      · exact absurd (h.2.2 (.inl x)) k
    have q := (h.1 z).1.2.2.2.2.2
    refine ⟨v.1, ⟨⟨v.2.1, v.2.2.1, v.2.2.2.1, v.2.2.2.2.1, v.2.2.2.2.2.1, fun b => ?_⟩, v.2.2.2.2.2.2⟩, l⟩
    rw [State.vacant.actOf_congr a]
    exact q b

/-- The start at RUN, in OFFLINE. -/
theorem startStation_hush {s : State} (h : s.hush) : (startStation s).hush := by
  have key : ∀ (m : Setup) (b : BusCtl) (p : Plans), m.locked = true → b.busState = .listen →
      (restartActuators (((((s.setSetup m).setBc b).setPls p).setFsc Scanner.initial).setSga Segments.initial |>.setTrs
        (Train.initial false))).hush := by
    intro m b p l e
    refine restarted_hush ?_ ⟨?_, h.noClaims, h.noGrants, h.noTankWaits, rfl, initial_noHolder, .inl rfl⟩ (fun a _ => h.safe a)
      (fun _ => l)
    all_goals
      show (b.busState == .joined || b.busState == .holding) = false
      simp [e]
  exact key _ _ _ rfl rfl

/-- HOLDING from a serving station (R200). -/
theorem enterHolding_busy {s : State} (h : s.busy) (f : Bool) : (enterHolding f s).busy := by
  have j : ((s.setBc { s.bc with busState := .holding }).setPort { s.port with phase := .grace, supplyTimer := 0 }).busy :=
    ⟨rfl, h.2⟩
  have q : (markLeaving ((s.setBc { s.bc with busState := .holding }).setPort
      { s.port with phase := .grace, supplyTimer := 0 })).busy := by
    unfold markLeaving
    rw [putRoster_eq]; exact j
  unfold enterHolding
  dsimp only
  split
  · exact busy_stable.works (stopAll_works (stopTrain_works (Works.refl _) _)) q
  · exact busy_stable.works (stopTrain_works (stopAll_works (Works.refl _)) _) q

theorem leaveHolding_busy {s : State} (h : s.busy) : (leaveHolding s).busy := ⟨rfl, h.2⟩

/-- Entry to JOINED from LISTEN (R11). -/
theorem join_busy {s : State} (h : s.hush) (l : s.bc.busState = .listen) : (join s).busy := by
  have key : ∀ (a inc : Nat) (e : RosterEntry) (w : Word) (r : StatusRecord),
      (takeRecord a inc w r ((s.setBc { s.bc with busState := .joined }).putRoster a e)).busy := by
    intro a inc e w r
    unfold takeRecord
    refine busy_stable.passRecord _ _ _ ⟨?_, fun b _ => ?_, ?_⟩
    · unfold State.serving
      rw [putNwt_bc, putRoster_bc]; rfl
    · have e : ∀ (x : RosterEntry) (n : Option NwtEntry),
          (((s.setBc { s.bc with busState := .joined }).putRoster a x).putNwt a n).act = s.act := fun x n => by
        rw [putNwt_eq, putRoster_eq]; rfl
      rw [State.vacant.actOf_congr (e _ _)]
      exact h.safe b
    · rw [putNwt_setup, putRoster_setup]
      exact h.2.2 l
  unfold join
  dsimp only
  split
  · exact enterHolding_busy (key _ _ _ _ _) _
  · exact key _ _ _ _ _

theorem countListen_law {s : State} (h : s.hush) : (countListen s).busy ∨ (countListen s).hush := by
  unfold countListen
  dsimp only
  split
  · rename_i l
    have q : (s.setBc { s.bc with listenCount := s.bc.listenCount - 1 }).hush := h.setBc _ rfl
    split
    · exact .inl (join_busy q l)
    · exact .inr q
  · exact .inr h

end Sys2Proof.Machine
end

