-- ==== Sys2Proof/Laws/RosterCommands.lean ====
section
/-!
SUPPORT. Law 12 through the commands: one lemma for each operation that a command runs, for a station that is not in a cold reset, and
what every command leaves of Law 12, awake or while RESET is low.
-/

namespace Sys2Proof.Machine

theorem act_awake {s : State} {f : State → State} (hf : ∀ s, s.awake → (f s).awake) (h : s.awake) : (act f s).awake := by
  unfold act; split
  · exact h
  · exact hf _ (settle_awake h)

theorem ownEvent_awake {s : State} (e : Due) (h : s.awake) : (ownEvent e s).awake := by
  unfold ownEvent takeDue
  repeat' split
  · exact h
  · exact Stable.foldl (P := State.awake) (f := perform) (fun _ e h => perform_awake h e) _ (awake_stable.due _ h)
  · exact h

theorem ownSlot_awake {s : State} (h : s.awake) : (ownSlot s).awake := by
  unfold ownSlot
  dsimp only
  repeat' split
  · rename_i c
    apply startSlot_awake (timeTo_awake h _)
    unfold State.slotReady at c
    simp at c
    exact c.1.1.1
  · exact timeTo_awake h _
  · exact h

theorem markHeard_awake {s : State} (h : s.awake) (r : Word) (a ms : Nat) (p : Bool) : (markHeard r a ms p s).awake := by
  unfold markHeard
  repeat' split
  · have q : (s.setBc { s.bc with line := none }).awake := awake_stable.bc _ rfl (List.suffix_refl _) (.inl rfl) h
    have q2 := boundary_awake q (.mark r a) ms 0 p
    exact frameEnded_awake q2
  · exact clash_awake h
  · exact boundary_awake h _ _ _ _

/-- Time passes to an instant, where the station hears the bus. -/
theorem hearTo_awake {s : State} (h : s.awake) (ms : Nat) : (if s.hearing then timeTo ms s else s).awake := by
  split
  · exact timeTo_awake h _
  · exact h

theorem beforeStuck_awake {s : State} (h : s.awake) (a : Nat) {f : State → State} (hf : ∀ r u, Works r u → Works r (f u)) :
    (beforeStuck a f s).awake := by
  unfold beforeStuck
  split
  · exact awake_stable.works (stuckAround_works (Works.refl _) a (hf _)) (settle_awake (awake_stable.due _ h))
  · exact awake_stable.works (hf _ _ (Works.refl _)) (settle_awake h)

/-- A setup item written, in OFFLINE. -/
theorem setup_awake {s : State} (h : s.awake) (u : Setup) (l : u.locked = true → s.setup.locked = true) : (s.setSetup u).awake := by
  refine ⟨⟨h.1.1, h.1.2.1, fun k => h.1.2.2.1 ?_, fun c => ?_⟩, h.2⟩
  · rcases k with k | k | k
    · exact .inl k
    · exact .inr (.inl k)
    · exact .inr (.inr (l k))
  · have c : s.ident.cold = true := c
    rw [h.2] at c; cases c

/-- Writing an item leaves the lock. -/
theorem writeItem_locked (a b : Nat) (c : List Byte) (u v : Setup) (h : writeItem a b c u = some v) : v.locked = u.locked := by
  unfold writeItem at h
  dsimp only at h
  split at h
  all_goals
    first
      | (split at h
         all_goals first
          | (simp only [Option.map_eq_some_iff] at h; obtain ⟨x, _, rfl⟩ := h; rfl)
          | (split at h
             all_goals first
              | (simp only [Option.map_eq_some_iff] at h; obtain ⟨x, _, rfl⟩ := h; rfl)
              | (injection h with h; subst h; rfl)
              | cases h)
          | cases h)
      | cases h

theorem answer_awake {s : State} (h : s.awake) (r : Request) : (answer r s).1.awake := by
  by_cases n : ∃ i j c, r = .setupWrite i j c
  · obtain ⟨i, j, c, rfl⟩ := n
    unfold answer
    split
    · unfold doRequest askSetup
      dsimp only
      split
      · rename_i u e
        exact setup_awake h u (fun k => by rw [writeItem_locked _ _ _ _ _ e] at k; exact k)
      · exact h
    · exact h
  · by_cases m : r = .run
    · subst m
      unfold answer
      split
      · unfold doRequest askRun
        dsimp only
        split
        · exact h
        · rename_i e
          have v : validAddr s.ident.address = true := by
            cases q : validAddr s.ident.address
            · unfold runFailure failIf at e; simp [q] at e
            · rfl
          unfold startStation
          dsimp only
          refine awake_stable.works (restartActuators_works (Works.refl _)) ?_
          apply awake_stable.works (Works.trs (Works.refl _) _)
          apply awake_stable.works (Works.sga (Works.refl _) _ (by simp [Segments.initial]) (by simp [Segments.initial]))
          apply awake_stable.fsc
          apply awake_stable.pls
          refine ⟨⟨h.1.1, fun k => ?_, fun _ => v, fun c => ?_⟩, h.2⟩
          · cases k
          · have c : s.ident.cold = true := c
            rw [h.2] at c; cases c
      · exact h
    · exact awake_stable.answer r h (fun i j c e => n ⟨i, j, c, e⟩) m

theorem takeRequest_awake {s : State} (h : s.awake) (r : Request) : (takeRequest r s).awake :=
  awake_stable.port _ (List.suffix_refl _) (answer_awake h r)

theorem clockByte_awake {s : State} (h : s.awake) (x : Byte) (p : Bool) : (clockByte x p s).awake := by
  unfold clockByte
  split
  · exact h
  · exact awake_stable.port _ (List.suffix_refl _) h
  · have g : (s.setPort { s.port with txn := .arguments, length := x, sdo := 255 }).awake :=
      awake_stable.port _ (List.suffix_refl _) h
    generalize s.setPort { s.port with txn := .arguments, length := x, sdo := 255 } = v at g ⊢
    dsimp only
    split
    · exact takeRequest_awake g _
    · exact g
  · have g : (s.setPort { s.port with args := s.port.args ++ [x], sdo := 255 }).awake :=
      awake_stable.port _ (List.suffix_refl _) h
    generalize s.setPort { s.port with args := s.port.args ++ [x], sdo := 255 } = v at g ⊢
    dsimp only
    split
    · exact takeRequest_awake g _
    · exact g
  · split
    · exact awake_stable.port _ (List.suffix_refl _) h
    · exact awake_stable.port _ (List.suffix_refl _) h
  · exact awake_stable.port _ (Plain.clockOut_ring _) h

theorem groupSampling_awake {s : State} (h : s.awake) (x : Byte) (p f : Bool) : (groupSampling x p f s).awake := by
  unfold groupSampling
  dsimp only
  have q : (nextGroup (s.setPins { s.pins with permit := p })).awake := awake_stable.fsc _ (awake_stable.pins _ h)
  split
  · exact awake_stable.sampleGroup _ _ q
  · split
    · unfold scanThenSample countScan
      exact awake_stable.fsc _ (awake_stable.sampleGroup _ _ (settle_awake (awake_stable.scanComplete _ q)))
    · unfold sampleThenScan countScan
      exact awake_stable.fsc _ (awake_stable.scanComplete _ (awake_stable.sampleGroup _ _ q))

theorem ownEvent_sound {s : State} (h : s.awake) (e : Due) : (ownEvent e s).rosterSound := (ownEvent_awake _ h).1
theorem act_sound {s : State} (h : s.awake) {f : State → State} (hf : ∀ s, s.awake → (f s).awake) : (act f s).rosterSound :=
  (act_awake hf h).1
theorem takeMessage_awake {s : State} (h : s.awake) (a b : Nat) (m : MsgBody) : (takeMessage a b m s).awake :=
  awake_stable.works (takeMessage_works (Works.refl s) _ _ _) h
theorem takePulse_awake {s : State} (h : s.awake) (a : Nat) : (takePulse a s).awake :=
  awake_stable.works (takePulse_works (Works.refl s) _) h
theorem selFalls_awake {s : State} (h : s.awake) : (selFalls s).awake := awake_stable.selFalls h
theorem reportTaken_awake {s : State} (h : s.awake) : (reportTaken s).awake := awake_stable.reportTaken h

/-- Every command at a station that is not in a cold reset. -/
theorem exec_awake {s t : State} (c : Instr) (h : s.awake) (e : exec c s = .next t) : t.rosterSound := by
  cases c
  case powerOn x =>
    injection e with e; subst e
    refine rosterSound_empty rfl rfl rfl (fun k => ?_) (fun k => ?_)
    · rcases k with k | k <;> cases k
    · cases k
  case coldReset =>
    injection e with e; subst e
    unfold goCold
    split
    · dsimp only
      rename_i a
      refine rosterSound_empty rfl rfl rfl (fun k => ?_) (fun k => ?_)
      · rcases k with k | k <;> cases k
      · exact ⟨by simp at a; exact a.1, rfl, rfl⟩
    · exact h.1
  case resetRise x =>
    injection e with e; subst e
    unfold resetRises
    split
    · dsimp only
      simp only [h.2]
      refine ⟨h.1.1, h.1.2.1, h.1.2.2.1, fun k => ?_⟩
      cases k
    · exact h.1
  case resetFall =>
    injection e with e; subst e
    refine (act_awake (fun s h => ?_) h).1
    have w := warmReset_awake h
    unfold resetFalls
    dsimp only
    exact ⟨⟨w.1.1, w.1.2.1, w.1.2.2.1, fun k => by cases k⟩, rfl⟩
  all_goals
    injection e with e
    subst e
  case ownSlotStart f =>
    split
    · exact (ownSlot_awake h).1
    · exact (act_awake (fun _ h => ownSlot_awake h) h).1
  case supplyLowAsserted f =>
    refine (act_awake (fun s h => ?_) (awake_stable.pins _ h)).1
    unfold supplyFails
    split
    · rename_i j
      exact enterHolding_awake h (by unfold State.serving; rw [j]; rfl) _
    · exact h
  case supplyLowReleased =>
    refine (awake_stable.pins _ (act_awake (fun s h => ?_) h)).1
    unfold supplyReturns
    split
    · rename_i j
      simp at j
      exact leaveHolding_awake h (by unfold State.serving; rw [j.1]; rfl)
    · exact h
  case holdFree src inc seq index =>
    split
    · split
      · exact h.1
      · exact (beforeStuck_awake h _ (fun _ _ w => takeMessage_works w _ _ _)).1
    · exact (act_awake (fun s h => awake_stable.works (takeMessage_works (Works.refl s) _ _ _) h) h).1
  case sampleClockTick =>
    refine (act_awake (fun s h => ?_) h).1
    split
    · exact awake_stable.sampleTick _ _ _ h
    · exact h
  case groupSample =>
    refine (act_awake (fun s h => ?_) h).1
    split
    · exact groupSampling_awake h _ _ _
    · exact h
  all_goals first
    | with_reducible exact ownEvent_sound h _
    | with_reducible refine act_sound h (fun s h => ?_)
  case supplyGraceExpiry => exact graceExpiry_awake (restOfGrace_awake h)
  case markSend =>
    unfold markNow
    dsimp only
    repeat' split
    · exact awake_stable.sendMark (timeTo_awake h _)
    · exact timeTo_awake h _
    · exact h
  case readbackMismatch =>
    unfold mismatch markFailed
    split
    · exact frameFailed_awake h
    · exact frameEnded_awake (awake_stable.bc _ rfl (List.suffix_refl _) (.inl rfl) h)
    · exact h
  case ownFrameGood =>
    unfold frameGood
    dsimp only
    have q : (s.setBc { s.bc with failures := 0, line := none }).awake := awake_stable.bc _ rfl (List.suffix_refl _) (.inr (by simp)) h
    repeat' split
    · exact enterDormant_awake q
    · exact awake_stable.takeMessages _ _ _ q
    · exact h
  case validMark f m p =>
    have q := hearTo_awake h m
    unfold takeMark
    dsimp only
    split
    · generalize (if s.hearing then timeTo m s else s) = v at q ⊢
      split
      · exact markHeard_awake q _ _ _ _
      · exact q
    · exact h
  case localRoundTimer p =>
    have q := hearTo_awake h 104
    unfold roundTimer
    dsimp only
    generalize (if s.hearing then timeTo 104 s else s) = v at q ⊢
    split
    · exact boundary_awake q _ _ _ _
    · exact q
  case stationFrameReceived f a b =>
    unfold takeStation
    repeat' split
    · unfold frameHeard
      dsimp only
      repeat' split
      · exact clash_awake (timeTo_awake h _)
      · exact clash_awake h
      · exact takeFrame_awake (timeTo_awake h _) _
      · exact timeTo_awake h _
      · exact h
    · exact h
    · exact h
  case statusRecord a i w r =>
    unfold recordAlone
    split
    · rename_i c
      simp at c
      have k := takeRecord_sound h.1 a i w r
      refine ⟨?_, ?_⟩
      · apply k
        all_goals first
          | exact c.2
          | (rw [c.2]; exact nofun)
      · unfold takeRecord
        rw [(passRecord_works (Works.refl _) _ _ _).ident, putNwt_ident]; exact h.2
    · exact h
  case portByteClocked x p => exact clockByte_awake h _ _
  case selRise =>
    unfold selRises
    dsimp only
    split
    · exact warmReset_awake (awake_stable.port _ (List.suffix_refl _) h)
    · exact awake_stable.port _ (List.suffix_refl _) h
  all_goals first
    | with_reducible exact takeMessage_awake h _ _ _
    | with_reducible exact takeRequest_awake h _
    | with_reducible exact takePulse_awake h _
    | with_reducible exact selFalls_awake h
    | with_reducible exact reportTaken_awake h

/-- Every command while RESET is low. -/
theorem exec_asleep {s t : State} (c : Instr) (r : s.ident.resetLow = true) (h : s.rosterSound) (e : exec c s = .next t) :
    t.rosterSound := by
  cases c
  case powerOn x =>
    injection e with e; subst e
    refine rosterSound_empty rfl rfl rfl (fun k => ?_) (fun k => ?_)
    · rcases k with k | k <;> cases k
    · cases k
  case coldReset =>
    injection e with e; subst e
    unfold goCold
    split
    · dsimp only
      refine rosterSound_empty rfl rfl rfl (fun k => ?_) (fun k => ?_)
      · rcases k with k | k <;> cases k
      · exact ⟨r, rfl, rfl⟩
    · exact h
  case resetRise x =>
    injection e with e; subst e
    unfold resetRises
    rw [if_pos r]
    dsimp only
    split
    · rename_i c
      obtain ⟨_, o, l⟩ := h.2.2.2 c
      refine ⟨h.1, fun k => ?_, fun k => ?_, fun k => by cases k⟩
      · have k : s.serving = true := k
        unfold State.serving at k; rw [o] at k; cases k
      · have k : s.serving = true ∨ s.bc.busState = .listen ∨ s.setup.locked = true := k
        unfold State.serving at k; rw [o, l] at k; simp at k
    · exact ⟨h.1, h.2.1, h.2.2.1, fun k => by cases k⟩
  all_goals
    injection e with e
    subst e
  case ownSlotStart f =>
    rw [if_neg (by simp [State.held, r]), act_held r]; exact h
  case holdFree src inc seq index =>
    split
    · rw [if_pos (by unfold State.held; exact r)]; exact h
    · rw [act_held r]; exact h
  case supplyLowAsserted f =>
    rw [act_held (s := supplyPin true s) r]; exact rosterSound_stable.pins _ h
  case supplyLowReleased =>
    rw [act_held r]; exact rosterSound_stable.pins _ h
  all_goals first
    | (rw [ownEvent_held r]; exact h)
    | (rw [act_held r]; exact h)

end Sys2Proof.Machine
end

