-- ==== Sys2Proof/Laws/QuietCommands.lean ====
section
/-!
SUPPORT. Law 11 through the commands: busy stations through the roster and the frames heard, then one lemma for each operation that a
command runs, and what every command leaves of Law 11.
-/

namespace Sys2Proof.Machine

theorem putRoster_busy {s : State} (h : s.busy) (a : Nat) (e : RosterEntry) : (s.putRoster a e).busy := by
  rw [putRoster_eq]; exact h

theorem putNwt_busy {s : State} (h : s.busy) (a : Nat) (e : Option NwtEntry) : (s.putNwt a e).busy := by
  rw [putNwt_eq]; exact h

theorem takeRecord_busy {s : State} (h : s.busy) (a inc : Nat) (w : Word) (r : StatusRecord) : (takeRecord a inc w r s).busy :=
  busy_stable.passRecord _ _ _ (putNwt_busy h _ _)

theorem takeHeader_busy {s : State} (h : s.busy) (a inc : Nat) (b : Bool) : (takeHeader a inc b s).busy := by
  have q := putRoster_busy h a ⟨.present, inc, s.bc.round, 0, b⟩
  unfold takeHeader
  dsimp only
  repeat' split
  · exact busy_stable.reportPeer _ _ q
  · exact q
  · exact busy_stable.scanQueue (busy_stable.peerGone _ (busy_stable.reportPeer _ _ q))

theorem takeFrame_busy {s : State} (h : s.busy) (f : StationFrame) : (takeFrame f s).busy := by
  have q : (s.setBc { s.bc with heard := f.source :: s.bc.heard }).busy := busy_stable.bc _ rfl (List.suffix_refl _) (.inl rfl) h
  have r := takeRecord_busy (takeHeader_busy q f.source f.incarnation f.leaving) f.source f.incarnation f.round f.record
  exact busy_stable.takeMessages f.source f.incarnation f.messages r

theorem missSlot_busy {s : State} (h : s.busy) (ran a : Nat) : (missSlot ran s a).busy := by
  unfold missSlot
  dsimp only
  repeat' split
  · exact h
  · exact h
  · exact putNwt_busy (putRoster_busy h _ _) _ _
  · exact putRoster_busy h _ _
  · exact busy_stable.peerGone _ (busy_stable.reportPeer _ _ (putNwt_busy (putRoster_busy h _ _) _ _))

theorem missedSlots_busy {s : State} (h : s.busy) (ran : Nat) : (missedSlots ran s).busy := by
  have q : (addresses.foldl (missSlot ran) s).busy := Stable.foldl (P := State.busy) (fun _ a h => missSlot_busy h ran a) _ h
  unfold missedSlots
  dsimp only
  split
  · exact busy_stable.scanQueue q
  · exact q

theorem countListen_busy {s : State} (h : s.busy) : (countListen s).busy := by
  unfold countListen
  rw [if_neg]
  · exact h
  · intro l
    have := h.1
    unfold State.serving at this; rw [l] at this; cases this

theorem startSlot_busy {s : State} (h : s.busy) : (startSlot s).busy := by
  have q : (s.setBc { s.bc with queue := (compose s).2, line := some (.station (compose s).1), slotTaken := true }).busy :=
    busy_stable.bc _ rfl ⟨_, Plain.takeQueue_suffix _ _ _⟩ (.inl rfl) h
  unfold startSlot
  dsimp only
  generalize s.setBc { s.bc with queue := (compose s).2, line := some (.station (compose s).1), slotTaken := true } = v at q ⊢
  exact takeRecord_busy (putRoster_busy q _ _) _ _ _ _

/-- Law 11, in JOINED and HOLDING or elsewhere. -/
def State.law (s : State) : Prop := s.busy ∨ s.hush

theorem law_unset {s : State} (h : s.law) : s.unsetSafe := ((lawEleven_iff s).2 h).2.1

theorem enterSilent_law {s : State} (h : s.law) (n : BusNews) : (enterSilent n s).law := .inr (enterSilent_hush (law_unset h) n)

theorem enterDormant_law {s : State} (h : s.law) : (enterDormant s).law := .inr (enterDormant_hush (law_unset h))

theorem warmReset_law {s : State} (h : s.law) : (warmReset s).law := .inr (warmReset_hush ((lawEleven_iff s).2 h))

theorem setBc_law {s : State} (h : s.law) (x : BusCtl) (b : x.busState = s.bc.busState) (q : x.queue <:+ s.bc.queue)
    (f : x.failures = s.bc.failures ∨ x.failures ≤ 8) : (s.setBc x).law :=
  h.imp (fun h => busy_stable.bc x b q f h) (fun h => h.setBc x b)

theorem setPort_law {s : State} (h : s.law) (x : Port) (q : x.ring <:+ s.port.ring) : (s.setPort x).law :=
  h.imp (fun h => busy_stable.port x q h) (fun h => h.setPort x)

theorem setPins_law {s : State} (h : s.law) (x : Pins) : (s.setPins x).law :=
  h.imp (fun h => busy_stable.pins x h) (fun h => h.setPins x)

theorem setFsc_law {s : State} (h : s.law) (x : Scanner) : (s.setFsc x).law :=
  h.imp (fun h => busy_stable.fsc x h) (fun h => h.setFsc x)

theorem report_law {s : State} (h : s.law) (b : ReportBody) : (report b s).law :=
  h.imp (fun h => busy_stable.works (report_works (Works.refl _) _) h) (fun h => h.report b)

theorem graceExpiry_law {s : State} (h : s.law) : (graceExpiry s).law := by
  unfold graceExpiry
  dsimp only
  repeat' split
  · exact setBc_law h _ rfl (List.suffix_refl _) (.inl rfl)
  · exact enterDormant_law h
  · exact h

theorem restOfGrace_law {s : State} (h : s.law) : (restOfGrace s).law := by
  unfold restOfGrace
  split
  · exact setPort_law h _ (List.suffix_refl _)
  · exact h

theorem passSupply_law {s : State} (h : s.law) (ms : Nat) : (passSupply ms s).law := by
  have q := setPort_law h { s.port with supplyTimer := min 2000 (s.port.supplyTimer + ms) } (List.suffix_refl _)
  unfold passSupply
  dsimp only
  generalize s.setPort { s.port with supplyTimer := min 2000 (s.port.supplyTimer + ms) } = u at q ⊢
  split
  · split
    · exact graceExpiry_law q
    · exact q.imp (fun h => busy_stable.dueIf _ _ h) (fun h => h.dueIf _ _)
  · exact h

theorem timeTo_law {s : State} (h : s.law) (ms : Nat) : (timeTo ms s).law := by
  unfold timeTo
  split
  · rename_i c _
    have q := setBc_law h { s.bc with clock := some (max c ms) } rfl (List.suffix_refl _) (.inl rfl)
    exact passSupply_law q _
  · exact h

/-- Time passes to an instant, where the station hears the bus. -/
theorem hearTo_law {s : State} (h : s.law) (ms : Nat) : (if s.hearing then timeTo ms s else s).law := by
  split
  · exact timeTo_law h _
  · exact h

theorem perform_law {s : State} (h : s.law) (e : Due) : (perform s e).law := by
  by_cases n : e = .graceExpiry
  · subst n; exact graceExpiry_law h
  · exact h.imp (fun h => busy_stable.perform e n h) (fun h => h.perform e)

theorem settle_law {s : State} (h : s.law) : (settle s).law :=
  Stable.foldl (P := State.law) (f := perform) (fun _ e h => perform_law h e) _
    (h.imp (fun h => busy_stable.due _ h) (fun h => h.setDue _))

theorem act_law {s : State} {f : State → State} (h : s.law) (hf : ∀ s, s.law → (f s).law) : (act f s).law := by
  unfold act; split
  · exact h
  · exact hf _ (settle_law h)

theorem ownEvent_law {s : State} (h : s.law) (e : Due) : (ownEvent e s).law := by
  unfold ownEvent takeDue
  repeat' split
  · exact h
  · exact Stable.foldl (P := State.law) (f := perform) (fun _ e h => perform_law h e) _
      (h.imp (fun h => busy_stable.due _ h) (fun h => h.setDue _))
  · exact h

theorem boundary_law {s : State} (h : s.law) (src : BoundarySource) (ran now : Nat) (p : Bool) : (boundary src ran now p s).law := by
  have bb : ∀ {s : State}, s.law → (boundaryBlocks p (testTakeover src s)).law := by
    intro s h
    rcases h with h | h
    · exact .inl (busy_stable.boundaryBlocks _ (busy_stable.testTakeover _ h))
    · rw [h.testTakeover]; exact .inr (h.boundaryBlocks p)
  have q : (openRound src (s.setPins { s.pins with permit := p })).law :=
    (setPins_law h { s.pins with permit := p }).imp (fun h => busy_stable.openRound src h) (fun h => h.openRound src)
  have ol : ∀ {s : State}, s.law → (openSlots now (yieldMark src s)).law := fun h =>
    h.imp (fun h => busy_stable.openSlots now (busy_stable.yieldMark src h)) (fun h => State.hush.openSlots (h.yieldMark src) now)
  unfold boundary
  dsimp only
  refine bb ?_
  split
  · have m : (missedSlots ran (openRound src (s.setPins { s.pins with permit := p }))).law :=
      q.imp (fun h => missedSlots_busy h ran) (fun h => h.missedSlots ran)
    rcases ol m with z | z
    · exact .inl (countListen_busy z)
    · exact countListen_law z
  · exact ol q

theorem frameEnded_law {s : State} (h : s.law) : (frameEnded s).law := by
  unfold frameEnded
  split
  · exact enterDormant_law (settle_law h)
  · exact h

theorem frameFailed_law {s : State} (h : s.law) : (frameFailed s).law := by
  have q : (s.setBc { s.bc with failures := min 8 (s.bc.failures + 1), line := none }).law :=
    setBc_law h _ rfl (List.suffix_refl _) (.inr (Nat.min_le_left _ _))
  have r : (if 8 ≤ s.bc.failures + 1 then
      enterSilent .silentReadback (s.setBc { s.bc with failures := min 8 (s.bc.failures + 1), line := none })
      else s.setBc { s.bc with failures := min 8 (s.bc.failures + 1), line := none }).law := by
    split
    · exact enterSilent_law q _
    · exact q
  unfold frameFailed
  dsimp only
  split
  · exact enterDormant_law r
  · exact r

theorem clash_law {s : State} (h : s.law) : (clash s).law := by
  unfold clash
  repeat' split
  · exact h
  · exact report_law (setBc_law h { s.bc with clash := true } rfl (List.suffix_refl _) (.inl rfl)) _
  · exact enterSilent_law (report_law h _) _
  · exact enterSilent_law (report_law h _) _
  · exact h

theorem markHeard_law {s : State} (h : s.law) (r : Word) (a ms : Nat) (p : Bool) : (markHeard r a ms p s).law := by
  unfold markHeard
  repeat' split
  · have q : (s.setBc { s.bc with line := none }).law := setBc_law h _ rfl (List.suffix_refl _) (.inl rfl)
    have q2 := boundary_law q (.mark r a) ms 0 p
    exact frameEnded_law q2
  · exact clash_law h
  · exact boundary_law h _ _ _ _

theorem takeMessages_law {s : State} (h : s.law) (a i : Nat) (l : List Message) : (takeMessages a i l s).law := by
  rcases h with h | h
  · exact .inl (busy_stable.takeMessages _ _ _ h)
  · rw [h.takeMessages]; exact .inr h

theorem groupSampling_law {s : State} (h : s.law) (x : Byte) (p f : Bool) : (groupSampling x p f s).law := by
  unfold groupSampling
  dsimp only
  have q : (nextGroup (s.setPins { s.pins with permit := p })).law := setFsc_law (setPins_law h _) _
  have sg : ∀ {s : State} (g : Nat), s.law → (sampleGroup g x s).law :=
    fun g h => h.imp (fun h => busy_stable.sampleGroup g x h) (fun h => h.sampleGroup g x)
  have sc : ∀ {s : State}, s.law → (scanComplete p s).law :=
    fun h => h.imp (fun h => busy_stable.scanComplete p h) (fun h => h.scanComplete p)
  split
  · exact sg _ q
  · split
    · unfold scanThenSample countScan
      exact setFsc_law (sg _ (settle_law (sc q))) _
    · unfold sampleThenScan countScan
      exact setFsc_law (sc (sg _ q)) _

theorem answer_law {s : State} (h : s.law) (r : Request) : (answer r s).1.law := by
  rcases h with h | h
  · by_cases n : (∃ i j c, r = .setupWrite i j c) ∨ r = .run
    · have o : s.bc.busState ≠ .offline := by
        intro o; have := h.1; unfold State.serving at this; rw [o] at this; cases this
      have z : allowedIn .setup s.bc.busState = false := by
        cases e : s.bc.busState <;> first | rfl | exact absurd e o
      rcases n with ⟨i, j, c, rfl⟩ | rfl
      · rw [answer_out_of_state (r := .setupWrite i j c) z]; exact .inl h
      · rw [answer_out_of_state (r := .run) z]; exact .inl h
    · exact .inl (busy_stable.answer r h (fun i j c e => n (.inl ⟨i, j, c, e⟩)) (fun e => n (.inr e)))
  · right
    unfold answer
    split
    · rename_i a
      unfold doRequest
      split
      · unfold askSetup
        split
        · rename_i u e
          have o : s.bc.busState = .offline := by
            unfold allowedIn classOf at a; revert a; cases s.bc.busState <;> simp
          refine ⟨h.1, h.2.1, fun l => ?_⟩
          have l : s.bc.busState = .listen := l
          rw [o] at l; cases l
        · exact h
      · unfold askRun
        split
        · exact h
        · have q := startStation_hush h
          generalize startStation s = v at q ⊢
          exact q
      all_goals first
        | (exfalso
           have j : s.bc.busState = .joined := by
             unfold allowedIn classOf at a; revert a; cases s.bc.busState <;> simp
           have := h.1; unfold State.serving at this; rw [j] at this; cases this)
        | exact h
    · exact h

theorem takeRequest_law {s : State} (h : s.law) (r : Request) : (takeRequest r s).law :=
  setPort_law (answer_law h r) _ (List.suffix_refl _)

theorem clockByte_law {s : State} (h : s.law) (x : Byte) (p : Bool) : (clockByte x p s).law := by
  unfold clockByte
  split
  · exact h
  · exact setPort_law h _ (List.suffix_refl _)
  · have g : (s.setPort { s.port with txn := .arguments, length := x, sdo := 255 }).law := setPort_law h _ (List.suffix_refl _)
    generalize s.setPort { s.port with txn := .arguments, length := x, sdo := 255 } = v at g ⊢
    dsimp only
    split
    · exact takeRequest_law g _
    · exact g
  · have g : (s.setPort { s.port with args := s.port.args ++ [x], sdo := 255 }).law := setPort_law h _ (List.suffix_refl _)
    generalize s.setPort { s.port with args := s.port.args ++ [x], sdo := 255 } = v at g ⊢
    dsimp only
    split
    · exact takeRequest_law g _
    · exact g
  · split
    · exact setPort_law h _ (List.suffix_refl _)
    · exact setPort_law h _ (List.suffix_refl _)
  · exact setPort_law h _ (Plain.clockOut_ring _)

theorem ownSlot_law {s : State} (h : s.law) : (ownSlot s).law := by
  have q := timeTo_law h (4 * s.ident.address)
  unfold ownSlot
  dsimp only
  generalize timeTo (4 * s.ident.address) s = u at q ⊢
  split
  · split
    · rename_i c
      have z : u.serving = true := by unfold State.slotReady at c; simp at c; exact c.1.1.1
      rcases q with h | h
      · exact .inl (startSlot_busy h)
      · exact absurd (h.1.symm.trans z) (by simp)
    · exact q
  · exact h

theorem takeMessage_law {s : State} (h : s.law) (a b : Nat) (m : MsgBody) : (takeMessage a b m s).law := by
  rcases h with h | h
  · exact .inl (busy_stable.works (takeMessage_works (Works.refl s) _ _ _) h)
  · unfold takeMessage; rw [h.1]; exact .inr h

theorem beforeStuck_law {s : State} (h : s.law) (a x y : Nat) (m : MsgBody) : (beforeStuck a (takeMessage x y m) s).law := by
  unfold beforeStuck
  split
  · have q := settle_law (h.imp (fun h => busy_stable.due (s.due.erase (.travelStuck a)) h) (fun h => h.setDue _))
    rcases q with q | q
    · exact .inl (busy_stable.works (stuckAround_works (Works.refl _) a fun _ w => takeMessage_works w _ _ _) q)
    · refine .inr (q.stuckAround a fun s h => ?_)
      unfold takeMessage
      rw [h.1]; exact h
  · exact takeMessage_law (settle_law h) _ _ _

theorem takePulse_law {s : State} (h : s.law) (a : Nat) : (takePulse a s).law := by
  rcases h with h | h
  · exact .inl (busy_stable.works (takePulse_works (Works.refl s) _) h)
  · rw [h.takePulse]; exact .inr h

theorem selFalls_law {s : State} (h : s.law) : (selFalls s).law := by
  unfold selFalls; split
  · exact setPort_law h _ (List.suffix_refl _)
  · exact h

theorem reportTaken_law {s : State} (h : s.law) : (reportTaken s).law := by
  unfold reportTaken; split
  · exact setPort_law h _ (List.tail_suffix _)
  · exact h

/-- The blocks of a station right after reset. -/
theorem reset_hush {t : State} (c : t.cle = State.reset.cle) (k : t.tkm = State.reset.tkm) (g : t.sga = State.reset.sga)
    (a : t.act = State.reset.act)
   (r : t.trs = State.reset.trs) (b : t.bc = State.reset.bc) : t.hush := by
  have q : State.reset.quiet := by
    refine ⟨⟨rfl, fun t => ?_, rfl, rfl, fun i => ?_, fun a => ?_⟩, .inl rfl⟩
    · show (look Tanks.initial.tank TankState.initial t).grants = []
      rw [show look Tanks.initial.tank TankState.initial t = TankState.initial from look_replicate _ _ _]; rfl
    · exact initial_noHolder i
    · show (look (Vector.replicate 12 Actuator.initial) Actuator.initial a).command = .safe
      rw [look_replicate]; rfl
  refine hush_of q (by rw [c]) k g a r ?_ ?_
  · unfold State.serving; rw [b]; rfl
  · rw [b]; intro h; cases h

/-- Every command. -/
theorem exec_law {s t : State} (c : Instr) (h : s.law) (e : exec c s = .next t) : t.law := by
  cases c
  case powerOn x =>
    injection e with e; subst e
    exact .inr (reset_hush rfl rfl rfl rfl rfl rfl)
  case coldReset =>
    injection e with e; subst e
    unfold goCold
    split
    · exact .inr (reset_hush rfl rfl rfl rfl rfl rfl)
    · exact h
  case resetRise x =>
    injection e with e; subst e
    unfold resetRises sampleStraps
    dsimp only
    repeat' split
    all_goals exact h
  all_goals
    injection e with e
    subst e
  case resetFall => exact act_law h (fun s h => warmReset_law (s := s) h)
  case ownSlotStart f =>
    split
    · exact ownSlot_law h
    · exact act_law h (fun _ h => ownSlot_law h)
  case holdFree src inc seq index =>
    split
    · split
      · exact h
      · exact beforeStuck_law h _ _ _ _
    · exact act_law h (fun s h => takeMessage_law h _ _ _)
  case supplyLowAsserted f =>
    refine act_law (setPins_law h _) (fun s h => ?_)
    unfold supplyFails
    split
    · rename_i j
      rcases h with h | h
      · exact .inl (enterHolding_busy h _)
      · exact absurd h.1 (by unfold State.serving; rw [j]; simp)
    · exact h
  case supplyLowReleased =>
    refine setPins_law (act_law h (fun s h => ?_)) _
    unfold supplyReturns
    split
    · rename_i j
      simp at j
      rcases h with h | h
      · exact .inl (leaveHolding_busy h)
      · exact absurd h.1 (by unfold State.serving; rw [j.1]; simp)
    · exact h
  case sampleClockTick =>
    refine act_law h (fun s h => ?_)
    split
    · exact h.imp (fun h => busy_stable.sampleTick _ _ _ h) (fun h => h.sampleTick _ _ _)
    · exact h
  case groupSample =>
    refine act_law h (fun s h => ?_)
    split
    · exact groupSampling_law h _ _ _
    · exact h
  all_goals first
    | with_reducible exact ownEvent_law h _
    | with_reducible refine act_law h (fun s h => ?_)
  case supplyGraceExpiry => exact graceExpiry_law (restOfGrace_law h)
  case markSend =>
    have q := timeTo_law h 100
    unfold markNow
    dsimp only
    generalize timeTo 100 s = v at q ⊢
    split
    · split
      · unfold sendMark
        dsimp only
        split
        · exact setBc_law q _ rfl (List.suffix_refl _) (.inl rfl)
        · exact setBc_law q _ rfl (List.suffix_refl _) (.inl rfl)
      · exact q
    · exact h
  case readbackMismatch =>
    unfold mismatch markFailed
    split
    · exact frameFailed_law h
    · exact frameEnded_law (setBc_law h _ rfl (List.suffix_refl _) (.inl rfl))
    · exact h
  case ownFrameGood =>
    unfold frameGood
    dsimp only
    have q : (s.setBc { s.bc with failures := 0, line := none }).law := setBc_law h _ rfl (List.suffix_refl _) (.inr (by simp))
    repeat' split
    · exact enterDormant_law q
    · exact takeMessages_law q _ _ _
    · exact h
  case validMark f m p =>
    have q := hearTo_law h m
    unfold takeMark
    dsimp only
    split
    · generalize (if s.hearing then timeTo m s else s) = v at q ⊢
      split
      · exact markHeard_law q _ _ _ _
      · exact q
    · exact h
  case localRoundTimer p =>
    have q := hearTo_law h 104
    unfold roundTimer
    dsimp only
    generalize (if s.hearing then timeTo 104 s else s) = v at q ⊢
    split
    · exact boundary_law q _ _ _ _
    · exact q
  case stationFrameReceived f a b =>
    unfold takeStation
    repeat' split
    · unfold frameHeard
      have q := timeTo_law h b
      dsimp only
      generalize timeTo b s = v at q ⊢
      repeat' split
      · exact clash_law q
      · exact clash_law h
      · exact q.imp (fun h => takeFrame_busy h _) (fun h => h.takeFrame _)
      · exact q
      · exact h
    · exact h
    · exact h
  case statusRecord a i w r =>
    unfold recordAlone
    split
    · exact h.imp (fun h => takeRecord_busy h _ _ _ _) (fun h => h.takeRecord _ _ _ _)
    · exact h
  case portByteClocked x p => exact clockByte_law h _ _
  case selRise =>
    unfold selRises
    dsimp only
    split
    · exact warmReset_law (setPort_law h _ (List.suffix_refl _))
    · exact setPort_law h _ (List.suffix_refl _)
  all_goals first
    | with_reducible exact takeMessage_law h _ _ _
    | with_reducible exact takeRequest_law h _
    | with_reducible exact takePulse_law h _
    | with_reducible exact selFalls_law h
    | with_reducible exact reportTaken_law h

end Sys2Proof.Machine
end

