-- ==== Sys2Proof/Laws/Reports.lean ====
section
/-!
SUPPORT. The records that operations make: what `report` tells, that a record told stays told through every working operation, and the
operations that make none.
-/

namespace Sys2Proof.Machine

/-! ## What is told (R192) -/

theorem report_room {s : State} (h : s.port.ring.length < 32) (b : ReportBody) :
    (report b s).port.ring = s.port.ring ++ [⟨b, s.bc.round, false⟩] := by
  unfold report
  rw [if_pos h]
  rfl

@[simp] theorem report_bc (b : ReportBody) (s : State) : (report b s).bc = s.bc := by
  unfold report; split <;> rfl

/-- A report tells its own record, no other coming before it. -/
theorem report_tells (s : State) (b : ReportBody) : s.tells (report b s) 0 b := by
  intro h
  rw [report_room (by omega), List.drop_left, report_bc]
  exact ⟨_, List.mem_singleton.mpr rfl, rfl, rfl⟩

namespace State.tells

variable {s t u : State} {n m : Nat} {b : ReportBody}

/-- Less place is asked of a ring that may take more records first. -/
theorem weaken (h : s.tells t n b) (k : n ≤ m) : s.tells t m b := fun r => h (by omega)

/-- A record told stays told: later operations only append to the ring or set a loss mark. -/
theorem later (h : s.tells t n b) (w : Works t u) : s.tells u n b := by
  intro r
  obtain ⟨x, hx, rfl, hr⟩ := h r
  have p := (List.IsPrefix.drop w.ring s.port.ring.length).subset
    (show x.made ∈ (t.port.ring.map Report.made).drop s.port.ring.length by
      rw [← List.map_drop]; exact List.mem_map_of_mem hx)
  rw [← List.map_drop] at p
  obtain ⟨y, hy, e⟩ := List.mem_map.mp p
  have round : u.bc.round = t.bc.round := by rw [w.bc]
  exact ⟨y, hy, congrArg Prod.fst e, by rw [round, ← hr]; exact congrArg Prod.snd e⟩

/-- What is told from a state behind at most `n` records is told from the state before them. -/
theorem earlier (h : t.tells u m b) (l : s.port.ring.length ≤ t.port.ring.length)
    (k : t.port.ring.length ≤ s.port.ring.length + n) : s.tells u (n + m) b := by
  intro r
  obtain ⟨x, hx, e⟩ := h (by omega)
  refine ⟨x, ?_, e⟩
  have d : u.port.ring.drop t.port.ring.length =
      (u.port.ring.drop s.port.ring.length).drop (t.port.ring.length - s.port.ring.length) := by
    rw [List.drop_drop]
    congr 1
    omega
  rw [d] at hx
  exact List.drop_subset _ _ hx

end State.tells

/-! ## Operations of the Tank Manager make no record -/

@[simp] theorem offer_port (m : Message) (s : State) : (offer m s).1.port = s.port := by
  unfold offer; split <;> rfl

@[simp] theorem send_port (d : Nat) (b : MsgBody) (s : State) : (send d b s).port = s.port := offer_port _ s

theorem foldl_port {α : Type} {f : State → α → State} (h : ∀ s a, (f s a).port = s.port) (l : List α) (s : State) :
    (l.foldl f s).port = s.port := by
  induction l generalizing s with
  | nil => rfl
  | cons a l ih => exact (ih _).trans (h s a)

theorem scanQueue_port (s : State) : (scanQueue s).port = s.port := by
  refine foldl_port (fun s w => ?_) _ s
  unfold scanEntry
  split
  · exact send_port ..
  · rfl

theorem takeBack_port (i : Nat) (g : Grant) (s : State) : (takeBack i g s).port = s.port := offer_port _ _

theorem revokeClass_port (i k n : Nat) (s : State) : (revokeClass i k n s).port = s.port := by
  induction n generalizing s with
  | zero => rfl
  | succ n ih =>
    unfold revokeClass
    split
    · split
      · exact (ih _).trans (takeBack_port ..)
      · rfl
    · rfl

theorem revokeInflow_port (i n : Nat) (s : State) : (revokeInflow i n s).port = s.port := by
  induction n generalizing s with
  | zero => rfl
  | succ n ih =>
    unfold revokeInflow
    split
    · split
      · exact (ih _).trans (takeBack_port ..)
      · rfl
    · rfl

theorem revocationRun_port (i : Nat) (s : State) : (revocationRun i s).port = s.port :=
  (revokeInflow_port ..).trans (foldl_port (fun s k => revokeClass_port i k _ s) _ s)

theorem createClaim_port (n : NewClaim) (s : State) : (createClaim n s).1.port = s.port := by
  unfold createClaim
  split
  · rfl
  · exact offer_port _ _

theorem askFill_port (t i : Nat) (src : Source) (v : Nat) (s : State) : (askFill t i src v s).port = s.port := by
  unfold askFill
  dsimp only
  split <;> exact createClaim_port _ s

theorem attemptFill_port (t : Nat) (s : State) : (attemptFill t s).port = s.port := by
  unfold attemptFill
  dsimp only
  split
  · split
    · rfl
    · split
      · exact askFill_port ..
      · rfl
  · rfl

theorem fillEvent_port (t : Nat) (before after : WindowState) (s : State) : (fillEvent t before after s).port = s.port := by
  unfold fillEvent
  split
  · rfl
  · split
    · exact attemptFill_port t s
    · rfl

theorem fillLate_port (s : State) : (fillLate s).port = s.port := by
  unfold fillLate
  split
  · exact fillEvent_port ..
  · rfl

theorem scanAndFill_port (t : Nat) (before after : WindowState) (s : State) :
    (scanAndFill t before after s).port = s.port := by
  unfold scanAndFill
  rw [fillEvent_port, fillLate_port, scanQueue_port]

/-- A level event makes no record: the WINDOW record of its reading is made before it (R50, R55). -/
theorem levelEvent_port (t : Nat) (run : Bool) (before after : WindowState) (s : State) :
    (levelEvent t run before after s).port = s.port := by
  have r : (if run = true then revocationRun t s else s).port = s.port := by
    split
    · exact revocationRun_port t s
    · rfl
  unfold levelEvent
  by_cases serving : s.serving = true
  · rw [if_pos serving, ← r]
    generalize (if run = true then revocationRun t s else s) = u
    dsimp only
    split
    · rfl
    · exact scanAndFill_port ..
  · rw [if_neg serving]

end Sys2Proof.Machine
end

