-- ==== Sys2Proof/Tests/Slice0.lean ====
section
/-!
SUPPORT. Tests: ill-formed terms that the well-formedness check refuses, one step of each command on a small station, and for every statement
with hypotheses a station that meets them.
-/

namespace Sys2Proof.Tests

open Sys2Proof Sys2Proof.Machine

/-! ## A small station: address 5, JOINED, with a tank, a port, a segment and a train -/

def valve (r : Role) : Option ActuatorSetup := some ⟨.valve, r, 5, none⟩
def pump (r : Role) : Option ActuatorSetup := some ⟨.pump, r, 5, none⟩

def smallSetup : Setup :=
  { Setup.blank with
    locked := true
    station := some ⟨2, 100⟩
    tanks := put (Vector.replicate 2 none) 0 (some ⟨1000, 10⟩)
    ports := put (Vector.replicate 2 none) 0 (some 10)
    segments := put (Vector.replicate 4 false) 0 true
    train := some ⟨⟨9, 0⟩, [], 50, 3, 10⟩
    destinations := [⟨⟨9, 0⟩, []⟩, ⟨⟨9, 1⟩, []⟩]
    actuators := put (put (put (put (put (put (put (Vector.replicate 12 none) 0 (valve (.outlet 0))) 1 (valve (.fill 0))) 2
      (valve (.segment 0))) 3 (pump .feed)) 4 (pump .highpress)) 5 (valve .divert)) 6 (valve .flush)
    contacts := put (put (Vector.replicate 32 ⟨.none, false, false⟩) 0 ⟨.feedOk, false, false⟩) 1 ⟨.general, false, true⟩
    levels := put (Vector.replicate 2 none) 0 (some ⟨0, [(100, 0), (4000, 1000)]⟩)
    quality := some ⟨0, 200, 800, 50⟩
    fills := put (Vector.replicate 2 none) 0 (some ⟨4, [⟨⟨9, 0⟩, []⟩]⟩) }

def peerRecord : StatusRecord :=
  ⟨.a, 0, 0, [⟨0, 2000, 1500, .inside, ⟨900, 900, 900, 900, 900⟩, 500, .idle⟩, ⟨1, 2000, 0, .inside, ⟨0, 0, 0, 0, 0⟩, 0, .idle⟩], none, [], []⟩

def ownRecord : StatusRecord := ⟨.a, 0, 0, [], none, [], []⟩

def smallPlan : PlanEntry := ⟨⟨0, 0, 100, 100, 200⟩, 300, 800, 20, 700, 50⟩

def smallPlans : Plans :=
  { Plans.powerOn with
    bankA := put (Vector.replicate 2 none) 0 (some smallPlan)
    bankB := put (Vector.replicate 2 none) 0 (some smallPlan) }

/-- JOINED, tank 0 INSIDE at 600 L, peer 9 PRESENT. -/
def small : State :=
  { State.reset with
    setup := smallSetup
    ident := ⟨5, 7, false, false⟩
    bc := { BusCtl.powerOn with busState := .joined, round := 40, clock := some 10 }
    roster := put (put (Vector.replicate 24 RosterEntry.absent) 4 ⟨.present, 7, 40, 0, false⟩) 8 ⟨.present, 3, 40, 0, false⟩
    nwt := put (put (Vector.replicate 24 none) 4 (some ⟨ownRecord, 40, 40, false⟩)) 8 (some ⟨peerRecord, 40, 40, false⟩)
    mch := ⟨put (Vector.replicate 2 Channel.initial) 0 ⟨true, 0, 0, false, 600, .inside⟩, Channel.initial⟩
    pls := smallPlans }

def withState (b : BusState) : State := { small with bc := { small.bc with busState := b } }

def withBc (f : BusCtl → BusCtl) : State := { small with bc := f small.bc }

/-- The state after a command; the state before it where the command does not answer one. -/
def after (c : Instr) (s : State) : State :=
  match exec c s with
  | .next t => t
  | _ => s

/-- A claim of the port on port 0 against tank 0 of station 9, over one segment of station 9. -/
def claimIn (st : ClaimState) (held : Nat) : Claim where
  sequence := 3
  kind := .draw
  target := .drawPort 0
  tank := ⟨9, 0⟩
  cls := 2
  volume := 50
  path := [⟨9, 1⟩]
  held := held
  wait := 100
  age := 1
  repeatTimer := 5
  delivered := 0
  remainder := 0
  stall := 0
  state := st
  reason := none
  owner := none
  creator := .port

/-- The inflow claim of the train. -/
def inflowIn (st : ClaimState) : Claim :=
  { claimIn st 0 with kind := .inflow, target := .product, path := [], creator := .train, volume := 2000 }

def withClaim (c : Claim) : State := { small with cle := ⟨[c], 4⟩ }

def withTrain (f : Train → Train) : State := { small with trs := f (Train.initial true) }

def withDue (e : Due) (s : State) : State := { s with due := [e] }

def withAct (a : Nat) (x : Actuator) (s : State) : State := { s with act := put s.act a x }

def withFlow : State := withAct 0 ⟨.drive, .opened, 0⟩ (withClaim (claimIn .flowing 1))

def heldSegment : State :=
  withAct 2 ⟨.drive, .opened, 0⟩ { small with sga := ⟨put Segments.initial.seg 0 ⟨.held, some ⟨9, 3, 1⟩, 0⟩, []⟩ }

def grantOf9 : Grant := ⟨⟨9, 3, 1⟩, .draw, 2, 100, 0, 100, 40, 0⟩

def granted : State :=
  { small with tkm := { Tanks.initial with tank := put Tanks.initial.tank 0 { TankState.initial with grants := [grantOf9] } } }

def producing (t : Train) : Train := { t with state := .producing, inflow := some 3 }

def diverting (c : DivertCause) (t : Train) : Train := { t with state := .diverting, divertCause := c }

def peerFrame : StationFrame := ⟨9, 3, 41, false, ownRecord, []⟩

def ownFrame : StationFrame := ⟨5, 7, 40, false, ownRecord, [⟨5, .cancel 1⟩, ⟨9, .cancel 2⟩]⟩

/-! ## Ill-formed terms are refused, one for each check -/

theorem test_wf_bounds : inByte 256 = false ∧ inByte 255 = true ∧ inWord 65536 = false ∧ inWord 65535 = true := by decide

theorem test_wf_perClass :
    PerClass.wf ⟨65536, 0, 0, 0, 0⟩ = false ∧ PerClass.wf ⟨0, 65536, 0, 0, 0⟩ = false ∧ PerClass.wf ⟨0, 0, 65536, 0, 0⟩ = false ∧
      PerClass.wf ⟨0, 0, 0, 65536, 0⟩ = false ∧ PerClass.wf ⟨0, 0, 0, 0, 65536⟩ = false := by decide

theorem test_wf_ids :
    TankId.wf ⟨256, 0⟩ = false ∧ TankId.wf ⟨0, 256⟩ = false ∧ SegId.wf ⟨256, 0⟩ = false ∧ SegId.wf ⟨0, 256⟩ = false ∧
      ClaimId.wf ⟨256, 0, 0⟩ = false ∧ ClaimId.wf ⟨0, 256, 0⟩ = false ∧ ClaimId.wf ⟨0, 0, 256⟩ = false := by decide

theorem test_wf_segmentMessages :
    MsgBody.wf (.holdReq 256 0 1) = false ∧ MsgBody.wf (.holdReq 0 256 1) = false ∧ MsgBody.wf (.holdReq 0 0 256) = false ∧
      MsgBody.wf (.holdGiven 256 0) = false ∧ MsgBody.wf (.holdGiven 0 256) = false ∧
      MsgBody.wf (.holdRefused 256 0 .noSegment) = false ∧ MsgBody.wf (.holdRefused 0 256 .noSegment) = false ∧
      MsgBody.wf (.holdFree 256 0) = false ∧ MsgBody.wf (.holdFree 0 256) = false := by decide

theorem test_wf_tankMessages :
    MsgBody.wf (.claim 256 .draw 0 1 1) = false ∧ MsgBody.wf (.claim 0 .draw 256 1 1) = false ∧
      MsgBody.wf (.claim 0 .draw 0 256 1) = false ∧ MsgBody.wf (.claim 0 .draw 0 1 65536) = false ∧
      MsgBody.wf (.grant 256 0) = false ∧ MsgBody.wf (.grant 0 65536) = false ∧ MsgBody.wf (.refuse 256 .never) = false ∧
      MsgBody.wf (.cancel 256) = false ∧ MsgBody.wf (.revoke 256) = false ∧ MsgBody.wf (.endMsg 256 0 .done) = false ∧
      MsgBody.wf (.endMsg 0 65536 .done) = false ∧ Message.wf ⟨256, .cancel 0⟩ = false ∧ Message.wf ⟨0, .cancel 256⟩ = false := by
  decide

theorem test_wf_tankItem :
    let i : TankItem := ⟨0, 0, 0, .inside, ⟨0, 0, 0, 0, 0⟩, 0, .idle⟩
    i.wf = true ∧ TankItem.wf { i with index := 256 } = false ∧ TankItem.wf { i with capacity := 65536 } = false ∧
      TankItem.wf { i with level := 65536 } = false ∧ TankItem.wf { i with available := ⟨65536, 0, 0, 0, 0⟩ } = false ∧
      TankItem.wf { i with headroom := 65536 } = false := by decide

theorem test_wf_otherItems :
    TrainGroup.wf ⟨.stopped, 65536, ⟨0, 0⟩, .initial, false, false⟩ = false ∧
      TrainGroup.wf ⟨.stopped, 0, ⟨256, 0⟩, .initial, false, false⟩ = false ∧ SegItem.wf ⟨256, .free⟩ = false ∧
      SegItem.wf ⟨0, .held ⟨256, 0, 0⟩⟩ = false ∧ ClaimItem.wf ⟨256, .draw, .pathing, 1, ⟨0, 0⟩⟩ = false ∧
      ClaimItem.wf ⟨0, .draw, .pathing, 256, ⟨0, 0⟩⟩ = false ∧ ClaimItem.wf ⟨0, .draw, .pathing, 1, ⟨256, 0⟩⟩ = false ∧
      ClaimItem.wf ⟨0, .draw, .flowing 65536, 1, ⟨0, 0⟩⟩ = false ∧ ClaimItem.wf ⟨0, .draw, .closing 65536, 1, ⟨0, 0⟩⟩ = false := by
  decide

def badTank : TankItem := ⟨256, 0, 0, .inside, ⟨0, 0, 0, 0, 0⟩, 0, .idle⟩

theorem test_wf_record :
    peerRecord.wf = true ∧ StatusRecord.wf { ownRecord with tanks := List.replicate 3 { badTank with index := 0 } } = false ∧
      StatusRecord.wf { ownRecord with tanks := [badTank] } = false ∧
      StatusRecord.wf { ownRecord with train := some ⟨.stopped, 65536, ⟨0, 0⟩, .initial, false, false⟩ } = false ∧
      StatusRecord.wf { ownRecord with segments := List.replicate 5 ⟨0, .free⟩ } = false ∧
      StatusRecord.wf { ownRecord with segments := [⟨256, .free⟩] } = false ∧
      StatusRecord.wf { ownRecord with claims := List.replicate 9 ⟨0, .draw, .pathing, 1, ⟨0, 0⟩⟩ } = false ∧
      StatusRecord.wf { ownRecord with claims := [⟨256, .draw, .pathing, 1, ⟨0, 0⟩⟩] } = false := by decide

theorem test_wf_planEntry :
    smallPlan.wf = true ∧ PlanEntry.wf { smallPlan with floor := ⟨65536, 0, 0, 0, 0⟩ } = false ∧
      PlanEntry.wf { smallPlan with low := 65536 } = false ∧ PlanEntry.wf { smallPlan with high := 65536 } = false ∧
      PlanEntry.wf { smallPlan with hysteresis := 65536 } = false ∧ PlanEntry.wf { smallPlan with fillTarget := 65536 } = false ∧
      PlanEntry.wf { smallPlan with topMargin := 65536 } = false := by decide

theorem test_wf_pathAndPeer :
    wfPath (List.replicate 5 ⟨0, 0⟩) = false ∧ wfPath [⟨256, 0⟩] = false ∧ wfPath (List.replicate 4 ⟨9, 0⟩) = true ∧
      wfPeer 0 0 = false ∧ wfPeer 25 0 = false ∧ wfPeer 1 256 = false ∧ wfPeer 24 255 = true := by decide

/-- Every check of a message's or a record's command. -/
theorem test_wf_busCommands :
    Instr.wf (.statusRecord 0 0 0 ownRecord) = false ∧
      Instr.wf (.statusRecord 9 3 0 { ownRecord with tanks := [badTank] }) = false ∧ Instr.wf (.holdReq 25 0 0 0 1) = false ∧
      Instr.wf (.holdReq 9 3 256 0 1) = false ∧ Instr.wf (.holdFree 0 0 0 0) = false ∧ Instr.wf (.holdFree 9 3 256 0) = false ∧
      Instr.wf (.holdGiven 0 0 0) = false ∧ Instr.wf (.holdGiven 9 256 0) = false ∧ Instr.wf (.holdRefused 0 0 0 .queueFull) = false ∧
      Instr.wf (.holdRefused 9 256 0 .queueFull) = false ∧ Instr.wf (.claim 9 256 0 .draw 0 1 1) = false ∧
      Instr.wf (.claim 9 3 0 .draw 256 1 1) = false ∧ Instr.wf (.grant 0 0 0) = false ∧ Instr.wf (.grant 9 0 65536) = false ∧
      Instr.wf (.refuse 0 0 .never) = false ∧ Instr.wf (.refuse 9 256 .never) = false ∧ Instr.wf (.revoke 0 0) = false ∧
      Instr.wf (.revoke 9 256) = false ∧ Instr.wf (.cancel 9 256 0) = false ∧ Instr.wf (.cancel 9 3 256) = false ∧
      Instr.wf (.endMsg 25 0 0 0 .done) = false ∧ Instr.wf (.endMsg 9 3 0 65536 .done) = false ∧
      Instr.wf (.stationFrameReceived [] 5 4) = false := by decide

/-- Every check of a command of the field or of the clocks. -/
theorem test_wf_fieldCommands :
    Instr.wf (.sampleClockTick 4096 0 0) = false ∧ Instr.wf (.sampleClockTick 0 4096 0) = false ∧
      Instr.wf (.sampleClockTick 0 0 4096) = false ∧ Instr.wf (.levelReadingComplete 2) = false ∧ Instr.wf (.alarmRepeat 32) = false ∧
      Instr.wf (.travelTimeEnd 12) = false ∧ Instr.wf (.travelStuck 12) = false ∧ Instr.wf (.meterPulse 5) = false ∧
      Instr.wf (.requestRepeat 256) = false ∧ Instr.wf (.timeout 256) = false ∧ Instr.wf (.stalled 256) = false ∧
      Instr.wf (.fillRetryExpiry 2) = false := by decide

set_option maxRecDepth 8000 in
/-- Every check of a request's command. -/
theorem test_wf_portCommands :
    Instr.wf (.setupWrite 1 0 (List.replicate 254 0)) = false ∧ Instr.wf (.draw 256 ⟨9, 0⟩ 1 1 10 []) = false ∧
      Instr.wf (.draw 0 ⟨256, 0⟩ 1 1 10 []) = false ∧ Instr.wf (.draw 0 ⟨9, 0⟩ 256 1 10 []) = false ∧
      Instr.wf (.draw 0 ⟨9, 0⟩ 1 65536 10 []) = false ∧ Instr.wf (.draw 0 ⟨9, 0⟩ 1 1 65536 []) = false ∧
      Instr.wf (.draw 0 ⟨9, 0⟩ 1 1 10 [⟨256, 0⟩]) = false ∧ Instr.wf (.fill 256 ⟨9, 0⟩ 1 []) = false ∧
      Instr.wf (.fill 0 ⟨9, 256⟩ 1 []) = false ∧ Instr.wf (.fill 0 ⟨9, 0⟩ 65536 []) = false ∧
      Instr.wf (.fill 0 ⟨9, 0⟩ 1 (List.replicate 5 ⟨9, 0⟩)) = false ∧ Instr.wf (.stopClaim 256) = false ∧
      Instr.wf (.planWrite 256 smallPlan) = false ∧ Instr.wf (.planWrite 0 { smallPlan with low := 65536 }) = false ∧
      Instr.wf (.planRead .a 256) = false ∧ Instr.wf (.nwtRead 256) = false ∧ Instr.wf (.grantRead 256) = false := by decide

theorem test_wf_others : Instr.wf .run = true ∧ Instr.wf (.draw 1 ⟨24, 1⟩ 5 65535 3000 [⟨24, 3⟩]) = true := by decide

/-! ## One step of each command -/

theorem test_after_next : exec .trainStop small = .next (after .trainStop small) := rfl

theorem test_powerOn : (after (.powerOn 17) small).ident = ⟨17, 1, false, false⟩ ∧ (after (.powerOn 17) small).setup = Setup.blank :=
  ⟨rfl, rfl⟩

theorem test_resetFall :
    (after .resetFall small).ident = ⟨5, 8, true, false⟩ ∧ (after .resetFall small).bc.busState = .listen ∧
      (after .resetFall small).bc.listenCount = 2 := by decide

theorem test_resetRise : (after (.resetRise 9) { small with ident := ⟨5, 1, true, true⟩ }).ident = ⟨9, 1, false, false⟩ := by decide

theorem test_coldReset :
    (after .coldReset { small with ident := ⟨5, 8, true, false⟩ }).ident = ⟨5, 1, true, true⟩ ∧
      (after .coldReset { small with ident := ⟨5, 8, true, false⟩ }).bc.busState = .offline := by decide

theorem test_supplyLowAsserted :
    (after (.supplyLowAsserted false) withFlow).bc.busState = .holding ∧
      (after (.supplyLowAsserted false) withFlow).claimOf 3 = some { claimIn .closing 1 with reason := some .supply } := by decide

theorem test_supplyLowReleased : (after .supplyLowReleased (withState .holding)).bc.busState = .joined := by decide

theorem test_supplyGraceExpiry :
    (after .supplyGraceExpiry
      { withState .holding with pins := ⟨false, true⟩, port := { Port.powerOn with phase := .grace } }).bc.busState = .dormant := by
  decide

theorem test_ownSlotStart :
    (after (.ownSlotStart false) small).bc.clock = some 20 ∧ (after (.ownSlotStart false) small).sbte = true ∧
      (after (.ownSlotStart false) small).rosterOf 5 = ⟨.present, 7, 40, 0, false⟩ := by decide

theorem test_markSend :
    (after .markSend (withBc fun b => { b with markHolder := true })).bc.line = some (.mark 41) := by decide

theorem test_readbackMismatch :
    (after .readbackMismatch (withBc fun b => { b with markHolder := true, line := some (.mark 41) })).bc.backoff = 5 ∧
      (after .readbackMismatch (withBc fun b => { b with line := some (.station ownFrame), failures := 7 })).bc.busState = .silent := by
  decide

theorem test_ownFrameGood :
    (after .ownFrameGood (withBc fun b => { b with line := some (.station ownFrame), failures := 3 })).bc.failures = 0 := by decide

set_option maxRecDepth 8000 in
theorem test_validMark :
    (after (.validMark (encMark 99 2) 100 true) small).bc.round = 99 ∧
      (after (.validMark (encMark 99 2) 100 true) small).bc.clock = some 0 := by decide

set_option maxRecDepth 8000 in
theorem test_localRoundTimer :
    (after (.localRoundTimer true) small).bc.round = 41 ∧ (after (.localRoundTimer true) small).bc.clock = some 4 ∧
      (after (.localRoundTimer true) small).rosterOf 9 = ⟨.stale, 3, 40, 1, false⟩ := by decide

set_option maxRecDepth 20000 in
theorem test_stationFrameReceived : (after (.stationFrameReceived (encFrame peerFrame) 36 37) small).bc.heard = [9] := by decide

theorem test_statusRecord : (after (.statusRecord 9 3 41 ownRecord) small).nwtOf 9 = some ⟨ownRecord, 41, 40, false⟩ := by decide

theorem test_holdReq :
    (after (.holdReq 9 3 1 0 2) small).segOf 0 = ⟨.held, some ⟨9, 3, 1⟩, 0⟩ ∧
      (after (.holdReq 9 3 1 0 2) small).bc.queue = [⟨9, .holdGiven 1 0⟩] ∧ (after (.holdReq 9 3 1 0 2) small).drive 2 = true := by
  decide

theorem test_holdFree :
    (after (.holdFree 9 3 1 0) heldSegment).segOf 0 = ⟨.free, none, 0⟩ ∧ (after (.holdFree 9 3 1 0) heldSegment).drive 2 = false := by
  decide

theorem test_holdGiven :
    (after (.holdGiven 9 3 1) (withClaim (claimIn .pathing 0))).claimOf 3 = some (claimIn .asking 1) ∧
      (after (.holdGiven 9 3 1) (withClaim (claimIn .pathing 0))).bc.queue = [⟨9, .claim 3 .draw 0 2 50⟩] := by decide

theorem test_holdRefused :
    (after (.holdRefused 9 3 1 .queueFull) (withClaim (claimIn .pathing 0))).cle.list = [] ∧
      (after (.holdRefused 9 3 1 .queueFull) (withClaim (claimIn .pathing 0))).port.ring.length = 1 := by decide

theorem test_claim :
    ((after (.claim 9 3 1 .draw 0 2 100) small).tankOf 0).grants = [grantOf9] ∧
      (after (.claim 9 3 1 .draw 0 2 100) small).bc.queue = [⟨9, .grant 1 100⟩] := by decide

theorem test_grant :
    (after (.grant 9 3 50) (withClaim (claimIn .asking 1))).claimOf 3 = some { claimIn .flowing 1 with repeatTimer := 0 } ∧
      (after (.grant 9 3 50) (withClaim (claimIn .asking 1))).actOf 0 = ⟨.drive, .opening, 0⟩ := by decide

theorem test_refuse :
    (after (.refuse 9 3 .never) (withClaim (claimIn .asking 1))).cle.list = [] ∧
      (after (.refuse 9 3 .never) (withClaim (claimIn .asking 1))).bc.queue = [⟨9, .holdFree 3 1⟩] := by decide

theorem test_revoke :
    (after (.revoke 9 3) withFlow).claimOf 3 = some { claimIn .closing 1 with reason := some .revoked } ∧
      (after (.revoke 9 3) withFlow).actOf 0 = ⟨.safe, .closing, 0⟩ := by decide

theorem test_cancel : ((after (.cancel 9 3 1) granted).tankOf 0).grants = [] := by decide

theorem test_endMsg : ((after (.endMsg 9 3 1 80 .done) granted).tankOf 0).grants = [] := by decide

theorem test_sampleClockTick :
    (after (.sampleClockTick 2050 0 0) small).due = [.levelReading 0] ∧
      ((after (.sampleClockTick 2050 0 0) small).levelCh 0).accumulator = 2050 := by decide

theorem test_levelReadingComplete :
    ((after (.levelReadingComplete 0) (withDue (.levelReading 0) { small with mch :=
      ⟨put (Vector.replicate 2 Channel.initial) 0 ⟨true, 2050, 1, false, 600, .inside⟩, Channel.initial⟩ })).levelCh 0) =
      ⟨true, 0, 0, false, 500, .inside⟩ := by decide

set_option maxRecDepth 8000 in
theorem test_qualityReadingComplete :
    (after .qualityReadingComplete (withDue .qualityReading { small with mch :=
      ⟨Vector.replicate 2 Channel.initial, ⟨true, 1000, 1, false, 0, .initial⟩⟩ })).mch.quality =
      ⟨true, 0, 0, false, 488, .inside⟩ := by decide

theorem test_groupSample :
    (after (.groupSample 1 true false) small).contact 0 = ⟨false, 1, 0⟩ ∧ (after (.groupSample 1 true false) small).fsc.group = 1 := by
  decide

theorem test_alarmRepeat :
    (after (.alarmRepeat 1) (withDue (.alarmRepeat 1)
      { small with fsc := { Scanner.initial with contacts := put Scanner.initial.contacts 1 ⟨true, 0, 0⟩ } })).contact 1 =
      ⟨true, 0, 500⟩ := by decide

theorem test_travelTimeEnd :
    (after (.travelTimeEnd 0) (withDue (.travelTimeEnd 0) (withAct 0 ⟨.drive, .opening, 50⟩ small))).actOf 0 =
      ⟨.drive, .opened, 50⟩ := by decide

theorem test_travelStuck :
    (after (.travelStuck 0) (withDue (.travelStuck 0) (withAct 0 ⟨.drive, .opening, 250⟩ small))).actOf 0 =
      ⟨.safe, .stuck, 250⟩ := by decide

theorem test_meterPulse :
    ((after (.meterPulse 0) withFlow).claimOf 3).map (·.delivered) = some 1 := by decide

theorem test_requestRepeat :
    (after (.requestRepeat 3) (withDue (.requestRepeat 3) (withClaim { claimIn .pathing 0 with repeatTimer := 0 }))).bc.queue =
      [⟨9, .holdReq 3 1 2⟩] := by decide

theorem test_timeout :
    (after (.timeout 3) (withDue (.timeout 3) (withClaim { claimIn .pathing 0 with age := 100 }))).cle.list = [] := by decide

theorem test_stalled :
    ((after (.stalled 3) (withDue (.stalled 3)
      (withAct 0 ⟨.drive, .opened, 0⟩ (withClaim { claimIn .flowing 1 with stall := 30 })))).claimOf 3).map (·.reason) =
      some (some .stalled) := by decide

def low : State :=
  { small with mch := ⟨put (Vector.replicate 2 Channel.initial) 0 ⟨true, 0, 0, false, 200, .below⟩, Channel.initial⟩ }

theorem test_fillRetryExpiry :
    ((after (.fillRetryExpiry 0) (withDue (.fillRetry 0) low)).tankOf 0).fill = .filling ∧
      (after (.fillRetryExpiry 0) (withDue (.fillRetry 0) low)).cle.list.map (·.volume) = [500] := by decide

theorem test_noFeedTimeout :
    (after .noFeedTimeout (withDue .noFeed (withTrain fun t => { t with state := .priming, phase := 300 }))).trs.faultCause =
      .noFeed := by decide

def pendingRecord : StatusRecord := { ownRecord with train := some ⟨.pending, 0, ⟨0, 0⟩, .initial, true, true⟩ }

def inPending : State :=
  { withTrain fun t => { t with state := .pending } with nwt := put small.nwt 4 (some ⟨pendingRecord, 40, 40, false⟩) }

theorem test_budgetTest :
    (after .budgetTest (withDue .budgetTest inPending)).trs.state = .ramping ∧
      (after .budgetTest (withDue .budgetTest inPending)).drive 4 = true := by decide

theorem test_rampComplete :
    (after .rampComplete (withDue .rampComplete (withTrain fun t => { t with state := .ramping, phase := 200 }))).trs.state =
      .settling := by decide

theorem test_highpressHoldTimeout :
    (after .highpressHoldTimeout (withDue .highpressHold (withTrain fun t => { t with state := .ramping, hold := 100 }))).trs.faultCause =
      .interlock := by decide

theorem test_settleComplete :
    (after .settleComplete (withDue .settleComplete (withTrain fun t => { t with state := .settling, settle := 600 }))).trs.inflow =
      some 0 := by decide

theorem test_settleLimit :
    (after .settleLimit (withDue .settleLimit (withTrain fun t => { t with state := .settling, phase := 3000 }))).trs.faultCause =
      .quality := by decide

theorem test_marginalTimeout :
    (after .marginalTimeout (withDue .marginal (withTrain fun t => { producing t with marginal := some 300 }))).trs.divertCause =
      .quality := by decide

def inflowFlows (f : Train → Train) : State :=
  withAct 5 ⟨.drive, .opened, 0⟩ { withTrain f with cle := ⟨[inflowIn .flowing], 4⟩ }

theorem test_diversionLimit :
    (after .diversionLimit (withDue .diversionLimit
      (inflowFlows fun t => { diverting .quality t with diversion := 600, inflow := some 3 }))).trs.ownStop = true := by decide

theorem test_goodQualityResume :
    (after .goodQualityResume (withDue .goodResume
      (inflowFlows fun t => { diverting .quality t with good := some 600, inflow := some 3 }))).trs.state = .producing := by decide

theorem test_sensorTimeout :
    (after .sensorTimeout (withDue .sensor (withTrain fun t => { producing t with sensor := some 100 }))).trs.faultCause = .sensor := by
  decide

theorem test_permitTimeout :
    (after .permitTimeout (withDue .permit (withTrain fun t => { producing t with permit := 100 }))).trs.stopCause = .permit := by decide

theorem test_retryWaitEnd :
    (after .retryWaitEnd (withDue .retryWaitEnd (withTrain fun t => { diverting .noDestination t with retry := some 50 }))).trs.inflow =
      some 0 := by decide

theorem test_ratePeriodEnd :
    (after .ratePeriodEnd (withDue .ratePeriodEnd
      (withTrain fun t => { producing t with rateTimer := 100, productCount := 50 }))).trs.rate = 1800 := by decide

theorem test_planExchange :
    (after .planExchange (withDue .planExchange { small with pls := { smallPlans with pending := true } })).pls.active = .b ∧
      (after .planExchange (withDue .planExchange { small with pls := { smallPlans with pending := true } })).pls.generation = 1 := by
  decide

/-- HOLDING, aligned, with a swap pending and SUPPLY-LOW asserted, the supply timer at `v` ms. -/
def failingSwap (l : Option OutFrame) (next : Bool) (v : Nat) : State :=
  { withBc fun b => { b with busState := .holding, clock := some 100, line := l, dormantNext := next } with
    pins := ⟨false, true⟩
    port := { Port.powerOn with phase := .grace, supplyTimer := v }
    pls := { smallPlans with pending := true } }

set_option maxRecDepth 20000 in
/-- The own good MARK's boundary makes the exchange, and DORMANT follows (R13, R185). -/
theorem test_exchange_before_dormant :
    (let t := after (.validMark (encMark 41 5) 100 false) (failingSwap (some (.mark 41)) true 2000);
      t.bc.busState = .dormant ∧ t.pls.active = .b ∧ t.pls.generation = 1 ∧ t.pls.pending = false) := by decide

set_option maxRecDepth 20000 in
/-- A boundary in the millisecond in which the grace ends makes the exchange, and DORMANT follows (R185, R201). -/
theorem test_exchange_before_expiry :
    (let t := after .supplyGraceExpiry (after (.validMark (encMark 99 4) 104 false) (failingSwap none false 1996));
      t.bc.busState = .dormant ∧ t.pls.active = .b ∧ t.pls.generation = 1 ∧ t.pls.pending = false) := by decide

theorem test_selFall : (after .selFall small).port.txn = .code := by decide

theorem test_selRise :
    (after .selRise { small with port := { Port.powerOn with txn := .answering } }).port.txn = .idle ∧
      (after .selRise { small with port := { Port.powerOn with restart := true } }).ident.incarnation = 8 := by decide

theorem test_badRequest : (after .badRequest small).port.answer = [5] := by decide

def offline : State := { State.reset with ident := ⟨5, 1, false, false⟩ }

theorem test_setupWrite :
    (after (.setupWrite 1 0 [2, 0, 100]) offline).setup.station = some ⟨2, 100⟩ ∧
      (after (.setupWrite 1 0 [2, 0, 100]) offline).port.answer = [0] ∧
      (after (.setupWrite 1 0 [2, 0]) offline).port.answer = [5] ∧
      (after (.setupWrite 1 0 [2, 0, 100]) small).port.answer = [4] := by decide

theorem test_run :
    (after .run offline).port.answer = [3, 12, 1, 0] ∧
      (after .run { offline with setup := { Setup.blank with station := some ⟨2, 100⟩ } }).bc.busState = .listen := by decide

theorem test_status : ((after .status small).port.answer).take 3 = [0, 5, 7] := by decide

theorem test_restart : (after .restart small).port.restart = true := by decide

theorem test_draw :
    (after (.draw 0 ⟨9, 0⟩ 2 50 100 []) small).port.answer = [0, 0] ∧
      (after (.draw 0 ⟨9, 0⟩ 2 50 100 []) small).bc.queue = [⟨9, .claim 0 .draw 0 2 50⟩] := by decide

theorem test_fill :
    (after (.fill 0 ⟨9, 0⟩ 50 [⟨9, 1⟩]) small).bc.queue = [⟨9, .holdReq 0 1 4⟩] ∧
      (after (.fill 1 ⟨9, 0⟩ 50 []) small).port.answer = [3, 1] := by decide

theorem test_stopClaim :
    (after (.stopClaim 3) (withClaim (claimIn .pathing 0))).bc.queue = [⟨9, .holdFree 3 1⟩] ∧
      (after (.stopClaim 8) small).port.answer = [5] := by decide

theorem test_trainStart :
    (after (.trainStart true) small).trs.state = .priming ∧ (after (.trainStart true) small).drive 3 = true ∧
      (after (.trainStart false) small).port.answer = [3, 4] := by decide

theorem test_trainStop :
    (after .trainStop (withTrain fun t => { t with state := .priming })).trs.stopCause = .command ∧
      (after .trainStop (withTrain fun t => { t with state := .priming })).bc.queue = [⟨9, .claim 0 .draw 0 4 50⟩] := by decide

theorem test_trainClear :
    (after .trainClear (withTrain fun t => { t with state := .fault, faultCause := .stuck })).trs.faultCause = .none ∧
      (after .trainClear small).port.answer = [3, 5] := by decide

theorem test_planWrite :
    (after (.planWrite 0 (defaultPlan 9)) small).standby 0 = defaultPlan 9 ∧ (after (.planWrite 1 smallPlan) small).port.answer = [5] := by
  decide

theorem test_planRead : ((after (.planRead .b 0) small).port.answer).length = 25 := by decide

theorem test_planSwap :
    (after .planSwap small).pls.pending = true ∧
      (after .planSwap (after (.planWrite 0 { smallPlan with topMargin := 1000 }) small)).port.answer = [3, 9, 0] := by decide

theorem test_nwtRead : ((after (.nwtRead 9) small).port.answer).take 1 = [0] ∧ (after (.nwtRead 25) small).port.answer = [5] := by decide

theorem test_claimRead : (after .claimRead small).port.answer = [0, 0] := by decide

theorem test_grantRead : (after (.grantRead 1) small).port.answer = [5] := by decide

def reported : State := { small with port := { Port.powerOn with ring := [⟨.plan .a 1, 40, false⟩] } }

theorem test_reportTake :
    (after .reportTake small).port.answer = [0, 0] ∧ (after .reportTake reported).port.taking = true := by decide

theorem test_reportTakeComplete : (after .reportTakeComplete (after .reportTake reported)).port.ring = [] := by decide

theorem test_attnMask : (after (.attnMask 32) reported).attn = true ∧ (after (.attnMask 1) reported).attn = false := by decide

theorem test_portByteClocked :
    (after (.portByteClocked 0 false) { small with port := { Port.powerOn with txn := .length, code := 3 } }).port.txn = .taking ∧
      (after (.portByteClocked 7 false) { small with port := { Port.powerOn with txn := .code } }).port.code = 7 := by decide

/-! ## Stations that meet the hypotheses of the statements -/

theorem small_entries (a : Nat) : (small.nwtOf a).isSome = true ↔ (small.rosterOf a).presence ≠ .absent := by
  by_cases h : a < 25
  · revert a; decide
  · unfold State.nwtOf State.rosterOf look
    rw [if_neg (by omega), if_neg (by omega), List.getD_eq_default _ _ (by simp; omega), List.getD_eq_default _ _ (by simp; omega)]
    decide

theorem small_safe (a : Nat) : (small.actOf a).command = .safe := by
  by_cases h : a < 12
  · revert a; decide
  · unfold State.actOf look
    rw [List.getD_eq_default _ _ (by simp; omega)]
    rfl

theorem test_hyp_StepTakesTheFront : { small with pending := [.run, .status] }.pending = .run :: [.status] := rfl

theorem test_hyp_StepsGoOn : small.ready ∧ small.pending = [] ∧ small.port.phase = .normal := ⟨⟨rfl, rfl⟩, by decide⟩

theorem test_hyp_BoundsAreKept :
    { small with pending := [.holdReq 9 3 1 0 2] }.bounded = true ∧
      step { small with pending := [.holdReq 9 3 1 0 2] } = .next (after (.holdReq 9 3 1 0 2) small) := ⟨by decide, rfl⟩

theorem test_hyp_LawTwelveIsKept :
    small.rosterSound ∧ ∃ t, step { small with pending := [.markSend] } = .next t :=
  ⟨⟨small_entries, fun _ => rfl, fun _ => rfl, (by intro k; cases k)⟩, _, rfl⟩

theorem test_hyp_LawElevenIsKept : small.lawEleven ∧ ∃ t, step { small with pending := [.markSend] } = .next t :=
  ⟨⟨(by intro k; cases k), fun a _ => small_safe a, fun _ => rfl⟩, _, rfl⟩

def lowReset (cold : Bool) : State := { small with ident := ⟨5, 255, true, cold⟩ }

theorem test_hyp_AddressAndIncarnation :
    ((lowReset true).ident.resetLow = true ∧ (lowReset true).ident.cold = true) ∧
      ((lowReset false).ident.resetLow = true ∧ (lowReset false).ident.cold = false) ∧
      (exec (.resetRise 31) (lowReset false) = .next (after (.resetRise 31) (lowReset false)) ∧ (lowReset false).ident.cold = false) ∧
      small.ready ∧ ({ small with port := { Port.powerOn with restart := true } }).ready ∧ small.identified ∧
      (∀ n, (n = 0 ∨ n = 25) → let s := { State.reset with ident := ⟨n, 1, false, false⟩ }; s.ready ∧ s.bc.busState = .offline) :=
  ⟨by decide, by decide, ⟨rfl, rfl⟩, ⟨rfl, rfl⟩, ⟨rfl, rfl⟩, by unfold State.identified; decide, fun _ _ => ⟨⟨rfl, rfl⟩, rfl⟩⟩

theorem test_hyp_PowerAndReset :
    ((lowReset false).ident.resetLow = true ∧ (lowReset false).ident.cold = false) ∧ (lowReset true).ident.resetLow = true ∧
      small.ident.resetLow = false ∧ ofBoard .run = false := by decide

theorem test_hyp_WarmResets :
    small.ready ∧ small.setup.locked = true ∧ ({ small with port := { Port.powerOn with restart := true } }).ready ∧
      { small with port := { Port.powerOn with restart := true } }.port.restart = true :=
  ⟨⟨rfl, rfl⟩, rfl, ⟨rfl, rfl⟩, rfl⟩

theorem test_hyp_SupplyFails :
    ((withState .silent).ready ∧ (withState .silent).bc.busState ≠ .joined) ∧ (small.ready ∧ small.bc.busState = .joined) :=
  ⟨⟨⟨rfl, rfl⟩, by decide⟩, ⟨rfl, rfl⟩, rfl⟩

def inGrace (l : Option OutFrame) : State :=
  { withBc fun b => { b with busState := .holding, line := l } with
    pins := ⟨false, true⟩
    port := { Port.powerOn with phase := .grace, supplyTimer := 2000 } }

theorem test_hyp_SupplyReturnsOrFails :
    ((inGrace none).ready ∧ (inGrace none).bc.busState = .holding ∧ (inGrace none).bc.dormantNext = false) ∧
      (small.ready ∧ small.bc.busState ≠ .holding) ∧
      ((inGrace none).port.phase = .grace ∧ (inGrace none).pins.supplyLow = true ∧ (inGrace none).bc.line = none) ∧
      ((inGrace (some (.mark 41))).ready ∧ (inGrace (some (.mark 41))).bc.busState = .holding ∧
        (inGrace (some (.mark 41))).port.phase = .grace ∧ (inGrace (some (.mark 41))).pins.supplyLow = true ∧
        (inGrace (some (.mark 41))).bc.line ≠ none) :=
  ⟨⟨⟨rfl, rfl⟩, by decide⟩, ⟨⟨rfl, rfl⟩, by decide⟩, by decide, ⟨rfl, rfl⟩, by decide⟩

theorem test_hyp_OwnSlotSends :
    (small.ready ∧ small.serving = true ∧ small.bc.slotTaken = false ∧ small.bc.line = none ∧ small.bc.clock = some 10 ∧
        10 ≤ 4 * small.ident.address ∧ validAddr small.ident.address = true) ∧
      ((withBc fun b => { b with clock := some 20 }).ready ∧ (withBc fun b => { b with clock := some 20 }).bc.clock = some 20) ∧
      ((withState .listen).ready ∧ (withState .listen).serving = false) :=
  ⟨⟨⟨rfl, rfl⟩, by decide⟩, ⟨⟨rfl, rfl⟩, rfl⟩, ⟨rfl, rfl⟩, rfl⟩

def holder (n : Nat) : State := withBc fun b => { b with markHolder := true, clock := some 100, backoff := n }

def sending (f : OutFrame) (n : Nat) (next : Bool) : State :=
  withBc fun b => { b with line := some f, failures := n, dormantNext := next }

set_option maxRecDepth 20000 in
theorem test_hyp_MarkIsSent :
    (∀ n, n < 2 → (holder n).ready ∧ (holder n).serving = true ∧ (holder n).bc.markHolder = true ∧ (holder n).bc.line = none ∧
        (holder n).bc.numberTaken = false ∧ (holder n).bc.clock = some 100 ∧ (holder n).port.phase = .normal ∧
        (holder n).bc.backoff = n) ∧
      (small.ready ∧ small.bc.markHolder = false ∧ small.bc.line = none) ∧
      ((sending (.mark 41) 0 false).ready ∧ (sending (.mark 41) 0 false).bc.line = some (.mark 41) ∧
        (sending (.mark 41) 0 false).bc.dormantNext = false) :=
  ⟨fun _ _ => ⟨⟨rfl, rfl⟩, rfl, rfl, rfl, rfl, rfl, rfl, rfl⟩, ⟨⟨rfl, rfl⟩, by decide⟩, ⟨rfl, rfl⟩, rfl, rfl⟩

set_option maxRecDepth 20000 in
theorem test_hyp_ReadbackFailures :
    (∀ n, n < 8 → ∀ x, (sending (.station ownFrame) n x).ready ∧ (sending (.station ownFrame) n x).bc.line = some (.station ownFrame) ∧
        (sending (.station ownFrame) n x).bc.dormantNext = x ∧ (sending (.station ownFrame) n x).bc.failures = n) ∧
      ((sending (.mark 41) 3 false).ready ∧ (sending (.mark 41) 3 false).hearing = true ∧
        (sending (.mark 41) 3 false).bc.line = some (.mark 41) ∧ readMark (encMark 41 5) = some (41, 5)) ∧
      small.bc.failures ≤ 8 :=
  ⟨fun _ _ _ => ⟨⟨rfl, rfl⟩, rfl, rfl, rfl⟩, ⟨⟨rfl, rfl⟩, by decide⟩, by decide⟩

theorem test_hyp_OwnFrameIsGood :
    ((sending (.station ownFrame) 3 false).ready ∧ (sending (.station ownFrame) 3 false).bc.line = some (.station ownFrame) ∧
        (sending (.station ownFrame) 3 false).bc.dormantNext = false) ∧
      (small.ready ∧ ∀ f, small.bc.line ≠ some (.station f)) :=
  ⟨⟨⟨rfl, rfl⟩, rfl, rfl⟩, ⟨rfl, rfl⟩, (by intro _ k; cases k)⟩

set_option maxRecDepth 20000 in
theorem test_hyp_MarkIsAdopted :
    (small.ready ∧ small.hearing = true ∧ readMark (encMark 99 4) = some (99, 4) ∧ 4 ≠ small.ident.address) ∧
      ((holder 2).bc.markHolder = true ∧ 4 < (holder 2).ident.address) ∧
      (readMark (encMark 99 6) = some (99, 6) ∧ (holder 2).ident.address < 6) ∧ readMark [1, 0, 99, 4, 0, 0] = none ∧
      ((withState .dormant).ready ∧ (withState .dormant).hearing = false) :=
  ⟨⟨⟨rfl, rfl⟩, by decide⟩, by decide, by decide, by decide, ⟨rfl, rfl⟩, rfl⟩

theorem test_hyp_TimerSuppliesBoundary :
    (small.ready ∧ small.hearing = true) ∧
      ((withBc fun b => { b with markless := 2 }).bc.busState = .joined ∧ (withBc fun b => { b with markless := 2 }).bc.markHolder = false ∧
        2 ≤ (withBc fun b => { b with markless := 2 }).bc.markless ∧
        ∀ a, a < (withBc fun b => { b with markless := 2 }).ident.address →
          ((withBc fun b => { b with markless := 2 }).rosterOf a).presence = .absent) ∧
      (State.reset.ready ∧ State.reset.hearing = false) :=
  ⟨⟨⟨rfl, rfl⟩, rfl⟩, by decide, ⟨rfl, rfl⟩, rfl⟩

set_option maxRecDepth 20000 in
theorem test_hyp_StationFrameIsTaken :
    (small.ready ∧ small.hearing = true ∧ small.bc.clock = some 10 ∧ readFrame (encFrame peerFrame) = some peerFrame ∧
        peerFrame.source ≠ small.ident.address ∧ slotAt 36 = peerFrame.source ∧ slotAt 39 = peerFrame.source) ∧
      readFrame [] = none ∧ slotAt 35 ≠ peerFrame.source ∧ slotAt 40 ≠ peerFrame.source :=
  ⟨⟨⟨rfl, rfl⟩, by decide⟩, by decide⟩

set_option maxRecDepth 20000 in
theorem test_hyp_AddressClash :
    (small.ready ∧ readFrame (encFrame { peerFrame with source := 5 }) = some { peerFrame with source := 5 } ∧
        slotAt 20 = slotAt 23 ∧ small.serving = true) ∧
      ((withState .listen).ready ∧ (withState .listen).bc.clash = false) ∧ ((withState .silent).ready ∧ (withState .silent).bc.busState = .silent) :=
  ⟨⟨⟨rfl, rfl⟩, by decide⟩, ⟨⟨rfl, rfl⟩, rfl⟩, ⟨rfl, rfl⟩, rfl⟩

theorem test_hyp_RecordReplacesEntry :
    (small.ready ∧ small.hearing = true ∧ validAddr 9 = true ∧ 9 ≠ small.ident.address ∧ (small.rosterOf 9).presence = .present) ∧
      (validAddr 25 = false ∧ validAddr 0 = false ∧ (small.rosterOf 10).presence ≠ .present ∧ State.reset.hearing = false) :=
  ⟨⟨⟨rfl, rfl⟩, by decide⟩, by decide⟩

def missing (p : Presence) (n : Nat) (h : List Nat) : State :=
  { withBc fun b => { b with heard := h } with
    roster := put (put (Vector.replicate 24 RosterEntry.absent) 4 ⟨.present, 7, 40, 0, false⟩) 23 ⟨p, 3, 38, n, false⟩ }

theorem test_hyp_MissedSlots :
    ((missing .stale 2 []).ready ∧ (missing .stale 2 []).hearing = true ∧ (missing .stale 2 []).bc.clock = some 10 ∧
        validAddr 24 = true ∧ 24 ≠ (missing .stale 2 []).ident.address ∧ 24 ∉ (missing .stale 2 []).bc.heard ∧
        ((missing .stale 2 []).rosterOf 24).presence = .stale ∧ 2 ≤ ((missing .stale 2 []).rosterOf 24).missed) ∧
      (((missing .stale 1 []).rosterOf 24).presence = .stale ∧ ((missing .stale 1 []).rosterOf 24).missed < 2) ∧
      ((missing .present 0 []).rosterOf 24).presence = .present ∧ ((missing .absent 0 []).rosterOf 24).presence = .absent ∧
      24 ∈ (missing .present 0 [24]).bc.heard :=
  ⟨⟨⟨rfl, rfl⟩, by decide⟩, by decide⟩

def queued (n : Nat) : State := withBc fun b => { b with queue := List.replicate n ⟨9, .cancel 1⟩ }

def ringed (n : Nat) : State := { small with port := { Port.powerOn with ring := List.replicate n ⟨.plan .a 1, 40, false⟩ } }

theorem test_hyp_QueueAndRing :
    ((queued 15).serving = true ∧ (queued 15).bc.queue.length < 16) ∧ 16 ≤ (queued 16).bc.queue.length ∧
      (withState .listen).serving = false ∧ (ringed 31).port.ring.length < 32 ∧
      ((ringed 32).port.ring = List.replicate 31 ⟨.plan .a 1, 40, false⟩ ++ [⟨.plan .a 1, 40, false⟩] ∧
        32 ≤ (ringed 32).port.ring.length) := by decide

def segmentIs (g : Segment) (w : List HoldWait) : State := { small with sga := ⟨put Segments.initial.seg 0 g, w⟩ }

def waiter (q : Nat) : HoldWait := ⟨⟨9, 3, q⟩, 0, 2, 40, 0, true⟩

theorem test_hyp_HoldReqIsHandled :
    (small.ready ∧ small.serving = true ∧ small.hasSegment 1 = false ∧ small.hasSegment 0 = true) ∧
      ((heldSegment.segOf 0).state = .held ∧ (heldSegment.segOf 0).holder = some ⟨9, 3, 1⟩) ∧
      (∃ w ∈ (segmentIs ⟨.held, some ⟨9, 3, 1⟩, 0⟩ [waiter 2]).sga.waits, w.id = ⟨9, 3, 2⟩) ∧
      (((segmentIs ⟨.fault, some ⟨9, 3, 1⟩, 0⟩ []).segOf 0).state = .fault ∧
        ((segmentIs ⟨.fault, some ⟨9, 3, 1⟩, 0⟩ []).segOf 0).holder ≠ none) ∧
      (((segmentIs ⟨.fault, none, 0⟩ []).segOf 0).state = .fault ∧ ((segmentIs ⟨.fault, none, 0⟩ []).segOf 0).holder = none) ∧
      (small.segOf 0).state = .free ∧
      (∀ n, (n = 7 ∨ n = 8) →
        let s := segmentIs ⟨.held, some ⟨9, 3, 1⟩, 0⟩ ((List.range n).map fun q => waiter (q + 10))
        s.ready ∧ (s.segOf 0).state = .held ∧ (∀ w ∈ s.sga.waits, w.id ≠ ⟨9, 3, 2⟩) ∧ s.sga.waits.length = n) :=
  ⟨⟨⟨rfl, rfl⟩, by decide⟩, by decide, ⟨waiter 2, by decide⟩, by decide, by decide, by decide,
    (by intro n h; rcases h with rfl | rfl <;> exact ⟨⟨rfl, rfl⟩, by decide⟩)⟩

/-- The segment valve's permissive is bound to cell 0, whose output is false. -/
def denied (s : State) : State :=
  { s with setup := { s.setup with actuators := put s.setup.actuators 2 (some ⟨.valve, .segment 0, 5, some 0⟩) } }

theorem test_hyp_GiveAttempt :
    (small.actWith (.segment 0) = some 2 ∧ small.actSetup 2 = valve (.segment 0) ∧ (small.actOf 2).command ≠ .drive ∧
        small.permitted ⟨.valve, .segment 0, 5, none⟩ = true ∧ (small.segOf 0).state ≠ .fault) ∧
      ((denied small).actWith (.segment 0) = some 2 ∧ (denied small).actSetup 2 = some ⟨.valve, .segment 0, 5, some 0⟩ ∧
        ((denied small).actOf 2).command ≠ .drive ∧ (denied small).permitted ⟨.valve, .segment 0, 5, some 0⟩ = false) ∧
      ((segmentIs ⟨.fault, none, 0⟩ []).segOf 0).state = .fault := by decide

def heldWith (w : List HoldWait) : State := { heldSegment with sga := { heldSegment.sga with waits := w } }

theorem test_hyp_HoldFreeIsHandled :
    (small.ready ∧ small.serving = true ∧ small.hasSegment 4 = false) ∧
      (small.hasSegment 0 = true ∧ (small.segOf 0).holder ≠ some ⟨9, 3, 1⟩) ∧
      ((heldWith []).ready ∧ (heldWith []).hasSegment 0 = true ∧ ((heldWith []).segOf 0).holder = some ⟨9, 3, 1⟩ ∧
        ((heldWith []).segOf 0).state = .held ∧ (heldWith []).actWith (.segment 0) = some 2 ∧
        ∀ w ∈ (heldWith []).sga.waits, w.segment ≠ 0) ∧
      ((heldWith [waiter 2]).ready ∧ (heldWith [waiter 2]).actWith (.segment 0) = some 2 ∧
        (heldWith [waiter 2]).actSetup 2 = valve (.segment 0) ∧
        (heldWith [waiter 2]).permitted ⟨.valve, .segment 0, 5, none⟩ = true ∧
        (heldWith [waiter 2]).sga.waits.find? (fun w => w.segment == 0) = some (waiter 2)) ∧
      ((segmentIs ⟨.fault, some ⟨9, 3, 1⟩, 0⟩ []).ready ∧
        ((segmentIs ⟨.fault, some ⟨9, 3, 1⟩, 0⟩ []).segOf 0).holder = some ⟨9, 3, 1⟩ ∧
        ((segmentIs ⟨.fault, some ⟨9, 3, 1⟩, 0⟩ []).segOf 0).state = .fault) :=
  ⟨⟨⟨rfl, rfl⟩, by decide⟩, by decide, ⟨⟨rfl, rfl⟩, by decide⟩, ⟨⟨rfl, rfl⟩, by decide⟩, ⟨rfl, rfl⟩, by decide⟩

def pathing : State := withClaim (claimIn .pathing 0)
def asking : State := withClaim (claimIn .asking 1)

theorem test_hyp_HoldGivenIsHandled :
    (pathing.ready ∧ pathing.serving = true ∧ pathing.claimOf 3 = some (claimIn .pathing 0) ∧ (claimIn .pathing 0).state = .pathing ∧
        (claimIn .pathing 0).path[(claimIn .pathing 0).held]? = some ⟨9, 1⟩ ∧ pathing.bc.queue.length < 16) ∧
      ({ pathing with bc := (queued 16).bc }.ready ∧ 16 ≤ { pathing with bc := (queued 16).bc }.bc.queue.length) ∧
      (asking.ready ∧ asking.claimOf 3 = some (claimIn .asking 1) ∧ (claimIn .asking 1).state ≠ .pathing ∧
        (⟨9, 1⟩ : SegId) ∈ (claimIn .asking 1).path.take (claimIn .asking 1).held ∧
        (⟨9, 0⟩ : SegId) ∉ (claimIn .asking 1).path.take (claimIn .asking 1).held) ∧ small.claimOf 3 = none :=
  ⟨⟨⟨rfl, rfl⟩, by decide⟩, ⟨⟨rfl, rfl⟩, by decide⟩, ⟨⟨rfl, rfl⟩, by decide⟩, by decide⟩

theorem test_hyp_RefusalsEndClaims :
    (pathing.ready ∧ pathing.serving = true ∧ pathing.claimOf 3 = some (claimIn .pathing 0) ∧
        (claimIn .pathing 0).path[(claimIn .pathing 0).held]? = some ⟨9, 1⟩ ∧ pathing.port.ring.length < 32 ∧
        (claimIn .pathing 0).creator ≠ .train) ∧
      (small.ready ∧ ∀ c, small.claimOf 3 = some c → c.state ≠ .pathing ∨ c.path[c.held]? ≠ some ⟨9, 1⟩) ∧
      (asking.ready ∧ asking.claimOf 3 = some (claimIn .asking 1) ∧ (claimIn .asking 1).state = .asking ∧
        (claimIn .asking 1).tank.station = 9) ∧
      (small.ready ∧ ∀ c, small.claimOf 3 = some c → c.state ≠ .asking ∨ c.tank.station ≠ 9) :=
  ⟨⟨⟨rfl, rfl⟩, by decide⟩, ⟨⟨rfl, rfl⟩, (by intro _ k; cases k)⟩, ⟨⟨rfl, rfl⟩, by decide⟩, ⟨rfl, rfl⟩, (by intro _ k; cases k)⟩

def trainAsks : State :=
  { withTrain fun t => { diverting .noDestination t with inflow := some 3 } with cle := ⟨[inflowIn .asking], 4⟩ }

def deniedOutlet : State :=
  { asking with setup := { smallSetup with actuators := put smallSetup.actuators 0 (some ⟨.valve, .outlet 0, 5, some 0⟩) } }

theorem test_hyp_GrantIsHandled :
    (small.ready ∧ small.serving = true ∧ small.claimOf 3 = none) ∧
      (pathing.ready ∧ pathing.claimOf 3 = some (claimIn .pathing 0) ∧ (claimIn .pathing 0).state = .pathing) ∧
      (withFlow.ready ∧ withFlow.claimOf 3 = some (claimIn .flowing 1) ∧ (claimIn .flowing 1).tank.station = 9) ∧
      (asking.ready ∧ asking.claimOf 3 = some (claimIn .asking 1) ∧ (claimIn .asking 1).creator ≠ .train ∧
        asking.actWith (targetRole (claimIn .asking 1).target) = some 0 ∧ asking.actSetup 0 = valve (.outlet 0) ∧
        asking.permitted ⟨.valve, .outlet 0, 5, none⟩ = true) ∧
      (trainAsks.ready ∧ trainAsks.claimOf 3 = some (inflowIn .asking) ∧ (inflowIn .asking).creator = .train ∧
        (inflowIn .asking).target = .product ∧ trainAsks.trs.inflow = some 3 ∧ trainAsks.trs.state = .diverting ∧
        trainAsks.trs.divertCause = .noDestination ∧ trainAsks.actWith .divert = some 5 ∧ trainAsks.actSetup 5 = valve .divert ∧
        trainAsks.permitted ⟨.valve, .divert, 5, none⟩ = true) ∧
      (deniedOutlet.ready ∧ deniedOutlet.claimOf 3 = some (claimIn .asking 1) ∧ (claimIn .asking 1).creator = .port ∧
        deniedOutlet.actWith (.outlet 0) = some 0 ∧ deniedOutlet.actSetup 0 = some ⟨.valve, .outlet 0, 5, some 0⟩ ∧
        deniedOutlet.permitted ⟨.valve, .outlet 0, 5, some 0⟩ = false ∧ (deniedOutlet.actOf 0).command ≠ .drive ∧
        (deniedOutlet.actOf 0).travel = .closed ∧ targetRole (claimIn .asking 1).target ≠ .divert ∧
        ∀ x ∈ deniedOutlet.cle.list, x.target = (claimIn .asking 1).target → x.sequence = 3) :=
  ⟨⟨⟨rfl, rfl⟩, by decide⟩, ⟨⟨rfl, rfl⟩, by decide⟩, ⟨⟨rfl, rfl⟩, by decide⟩, ⟨⟨rfl, rfl⟩, by decide⟩, ⟨⟨rfl, rfl⟩, by decide⟩,
    ⟨rfl, rfl⟩, by decide⟩

/-- A FLOWING claim one pulse short of its volume, its stall timer at the limit. -/
def lastPulse : Claim := { claimIn .flowing 1 with delivered := 49, stall := 30 }

def almost : State := withAct 0 ⟨.drive, .opened, 0⟩ (withClaim lastPulse)

theorem test_hyp_FlowingClaimsClose :
    (almost.claimOf 3 = some lastPulse ∧ lastPulse.state = .flowing ∧ almost.actWith (targetRole lastPulse.target) = some 0 ∧
        almost.actSetup 0 = valve (.outlet 0) ∧ (almost.actOf 0).travel ≠ .closed ∧ almost.atEnd 0 .valve false = false) ∧
      (almost.ready ∧ almost.serving = true ∧ almost.bc.busState = .joined) ∧ (withDue (.stalled 3) almost).dueNext (.stalled 3) [] ∧
      30 ≤ lastPulse.stall ∧ almost.counted 0 = some lastPulse ∧ lastPulse.volume ≤ (meter (almost.weight 0) lastPulse).delivered ∧
      (∀ c, small.claimOf 3 = some c → c.tank.station ≠ 9 ∨ c.state ≠ .flowing) ∧ small.claimOf 3 = none ∧
      ((withClaim (claimIn .closing 1)).ready ∧ (withClaim (claimIn .closing 1)).claimOf 3 = some (claimIn .closing 1)) ∧
      (withDue (.stalled 3) small).dueNext (.stalled 3) [] ∧ (withDue (.timeout 3) small).dueNext (.timeout 3) [] :=
  ⟨by decide, ⟨⟨rfl, rfl⟩, by decide⟩, ⟨rfl, rfl⟩, by decide, by decide, by decide, (by intro _ k; cases k), by decide,
    ⟨⟨rfl, rfl⟩, by decide⟩, ⟨rfl, rfl⟩, rfl, rfl⟩

theorem test_hyp_WaitingClaims :
    let c := { claimIn .pathing 0 with age := 100, repeatTimer := 0 }
    let s := withClaim c
    s.claimOf 3 = some c ∧ c.state = .pathing ∧ s.ready ∧ s.bc.busState = .joined ∧ c.creator = .port ∧
      (withDue (.timeout 3) s).dueNext (.timeout 3) [] ∧ c.wait ≤ c.age ∧ s.port.ring.length < 32 ∧
      (withDue (.requestRepeat 3) s).dueNext (.requestRepeat 3) [] ∧ c.repeatTimer = 0 ∧ asking.claimOf 3 = some (claimIn .asking 1) :=
  ⟨by decide, rfl, ⟨rfl, rfl⟩, rfl, rfl, ⟨rfl, rfl⟩, by decide, by decide, ⟨rfl, rfl⟩, rfl, by decide⟩

/-- A claim of the port, as DRAW makes it. -/
def drawClaim (v w : Nat) (path : List SegId) : NewClaim := ⟨.draw, .drawPort 0, ⟨9, 0⟩, 2, v, w, path, .port⟩

theorem test_hyp_PortClaimsAreMade :
    (small.ready ∧ small.bc.busState = .joined ∧ createRefusal small (drawClaim 0 100 []) = some .badArg) ∧
      (createRefusal small (drawClaim 65535 10 [⟨9, 0⟩, ⟨9, 1⟩]) = none ∧ small.bc.queue.length < 16 ∧ small.cle.nextSeq < 256 ∧
        ∀ c ∈ small.cle.list, c.sequence ≠ small.cle.nextSeq) ∧
      createRefusal small ⟨.transfer, .fillInlet 1, ⟨9, 0⟩, small.fillClass 1, 1, small.defaultWait, [], .port⟩ = some .noTarget ∧
      createRefusal small ⟨.transfer, .fillInlet 0, ⟨9, 0⟩, small.fillClass 0, 1, small.defaultWait, [], .port⟩ = none :=
  ⟨⟨⟨rfl, rfl⟩, by decide⟩, by decide⟩

/-- The rows of Table 5-2 as the statement takes them, each the reason of some creation at its boundary. -/
theorem test_hyp_CreationRefusals :
    createRefusal (withState .holding) (drawClaim 1 10 []) = some .badState ∧ createRefusal small (drawClaim 65536 10 []) = some .badArg ∧
      createRefusal small (drawClaim 1 9 []) = some .badArg ∧ createRefusal small (drawClaim 1 3001 []) = some .badArg ∧
      createRefusal small { drawClaim 1 10 [] with target := .drawPort 1 } = some .noTarget ∧
      createRefusal pathing (drawClaim 1 10 []) = some .busy ∧
      createRefusal { small with cle := ⟨List.replicate 8 (inflowIn .asking), 4⟩ } (drawClaim 1 10 []) = some .full ∧
      createRefusal small (drawClaim 1 10 [⟨9, 1⟩, ⟨9, 1⟩]) = some .badPath ∧
      createRefusal small (drawClaim 1 10 [⟨9, 4⟩]) = some .badPath ∧
      createRefusal { small with nwt := put small.nwt 8 (some ⟨ownRecord, 40, 40, false⟩) } (drawClaim 1 10 []) = some .noTank ∧
      createRefusal small (drawClaim 1 3000 [⟨9, 1⟩, ⟨9, 3⟩]) = none := by decide

theorem test_hyp_PulsesAreCounted :
    (small.ready ∧ small.counted 0 = none) ∧
      (withFlow.ready ∧ withFlow.counted 0 = some (claimIn .flowing 1) ∧
        withFlow.claimOf (claimIn .flowing 1).sequence = some (claimIn .flowing 1) ∧ (claimIn .flowing 1).remainder < 10 ∧
        (meter (withFlow.weight 0) (claimIn .flowing 1)).delivered < (claimIn .flowing 1).volume) ∧
      ((inflowFlows producing).counted 4 = some (inflowIn .flowing) ∧ (inflowFlows producing).trs.state = .producing) :=
  ⟨⟨⟨rfl, rfl⟩, by decide⟩, ⟨⟨rfl, rfl⟩, by decide⟩, by decide⟩

/-- The admission test at its boundary: 500 L of class 2 fit beside 100 L granted, and no more (Law 4). -/
theorem test_hyp_AdmissionTest :
    granted.fits 0 .draw 2 300 = true ∧ granted.fits 0 .draw 2 301 = false ∧ granted.fits 0 .inflow 3 350 = true ∧
      granted.fits 0 .inflow 3 351 = false ∧ granted.fits 1 .draw 2 1 = false := by decide

def tankWaiter (q : Nat) : TankWait := ⟨⟨9, 3, q⟩, 0, .draw, 2, 500, 40, 0, true⟩

def tankQueue (n : Nat) : State :=
  { small with tkm := { Tanks.initial with waits := (List.range n).map fun q => tankWaiter (q + 10) } }

theorem test_hyp_ClaimIsHandled :
    (small.ready ∧ small.serving = true ∧ granted.ready ∧
        (granted.grantOf 0 ⟨9, 3, 1⟩).or (granted.grantOf 1 ⟨9, 3, 1⟩) = some grantOf9) ∧
      (small.grantOf 0 ⟨9, 3, 1⟩ = none ∧ small.grantOf 1 ⟨9, 3, 1⟩ = none) ∧
      (∃ w ∈ (tankQueue 1).tkm.waits, w.id = ⟨9, 3, 10⟩) ∧ small.hasTank 1 = false ∧ small.hasTank 0 = true ∧
      (∀ w, (w = .initial ∨ w = .fault) →
        ({ small with mch := ⟨put (Vector.replicate 2 Channel.initial) 0 ⟨true, 0, 0, false, 0, w⟩, Channel.initial⟩ }.levelCh 0).window
          = w) ∧
      (small.capacity 0 - (small.plan 0).topMargin < 951 ∧ ¬small.capacity 0 - (small.plan 0).topMargin < 950) ∧
      (small.capacity 0 - forClass (small.plan 0).floor 5 < 801 ∧ ¬small.capacity 0 - forClass (small.plan 0).floor 5 < 800) ∧
      (∀ n, (n = 7 ∨ n = 8) → (tankQueue n).ready ∧ (tankQueue n).fits 0 .draw 2 401 = false ∧ (tankQueue n).tkm.waits.length = n ∧
        ∀ w ∈ (tankQueue n).tkm.waits, w.id ≠ ⟨9, 3, 1⟩) ∧
      small.fits 0 .draw 2 400 = true :=
  ⟨⟨⟨rfl, rfl⟩, rfl, ⟨rfl, rfl⟩, by decide⟩, by decide, ⟨tankWaiter 10, by decide⟩, by decide, by decide,
    (by intro w h; rcases h with rfl | rfl <;> rfl), by decide, by decide,
    (by intro n h; rcases h with rfl | rfl <;> exact ⟨⟨rfl, rfl⟩, by decide⟩), by decide⟩

theorem test_hyp_EndsAndCancels :
    (granted.ready ∧ granted.serving = true) ∧ (small.ready ∧ small.grantOf 0 ⟨9, 3, 1⟩ = none ∧ small.grantOf 1 ⟨9, 3, 1⟩ = none) ∧
      granted.grantOf 0 ⟨9, 3, 1⟩ ≠ none :=
  ⟨⟨⟨rfl, rfl⟩, rfl⟩, ⟨⟨rfl, rfl⟩, by decide⟩, by decide⟩

/-- The clauses of Table 3-2 at the marks 300 and 800 with hysteresis 20, and a table's points and an interval. -/
theorem test_hyp_LevelConversion :
    (windowAfter .below 300 800 20 319 = .below ∧ windowAfter .below 300 800 20 320 = .inside ∧
      windowAfter .below 300 800 20 801 = .above ∧ windowAfter .inside 300 800 20 299 = .below ∧
      windowAfter .inside 300 800 20 300 = .inside ∧ windowAfter .inside 300 800 20 801 = .above ∧
      windowAfter .above 300 800 20 780 = .inside ∧ windowAfter .above 300 800 20 781 = .above ∧
      windowAfter .above 300 800 20 299 = .below ∧ windowAfter .initial 300 800 20 300 = .inside) ∧
    (rising [(100, 0), (2000, 400), (4000, 1000)] = true ∧
      [(100, 0), (2000, 400), (4000, 1000)] = [] ++ (100, 0) :: (2000, 400) :: [(4000, 1000)] ∧ 100 ≤ 1999 ∧ 1999 < 2000 ∧
      [(100, 0), (2000, 400), (4000, 1000)].getLast? = some (4000, 1000) ∧ 4000 ≤ 4000 ∧
      [(100, 0), (2000, 400), (4000, 1000)].head? = some (100, 0)) := by decide

theorem test_hyp_SamplesAreTaken :
    (small.ready ∧ small.hearing = true ∧ small.hasTank 0 = true ∧ small.hasTank 1 = false ∧
        look smallSetup.levels none 0 = some ⟨0, [(100, 0), (4000, 1000)]⟩ ∧ small.highpressOn = false) ∧
      (withAct 4 ⟨.held, .closed, 0⟩ small).highpressOn = true ∧ (State.reset.ready ∧ State.reset.hearing = false) :=
  ⟨⟨⟨rfl, rfl⟩, by decide⟩, by decide, ⟨rfl, rfl⟩, rfl⟩

def levelIs (c : Channel) : State := { small with mch := ⟨put (Vector.replicate 2 Channel.initial) 0 c, Channel.initial⟩ }

theorem test_hyp_LevelReadingCompletes :
    ∀ r, let s := withDue (.levelReading 0) (levelIs ⟨true, 4095, 1, r, 600, .inside⟩)
      s.dueNext (.levelReading 0) [] ∧ look s.setup.levels none 0 = some ⟨0, [(100, 0), (4000, 1000)]⟩ ∧
        (s.levelCh 0).active = true ∧ (s.levelCh 0).count = 2 ^ 0 ∧ (s.levelCh 0).rail = r :=
  fun _ => ⟨⟨rfl, rfl⟩, rfl, rfl, rfl, rfl⟩

def qualityIs (c : Channel) (f : Train → Train) : State := { withTrain f with mch := { small.mch with quality := c } }

theorem test_hyp_QualityReadingCompletes :
    ∀ r, let s := withDue .qualityReading (qualityIs ⟨true, 4095, 1, r, 100, .below⟩ producing)
      s.dueNext .qualityReading [] ∧ s.setup.quality = some ⟨0, 200, 800, 50⟩ ∧ s.mch.quality.active = true ∧
        s.mch.quality.count = 2 ^ 0 ∧ s.mch.quality.rail = r ∧ s.watching = true ∧ s.mch.quality.window ≠ .fault ∧
        (∀ c ∈ s.cle.list, c.state ≠ .closing) ∧ (qualityIs ⟨true, 4095, 1, r, 100, .below⟩ fun t => t).watching = false :=
  fun _ => ⟨⟨rfl, rfl⟩, rfl, rfl, rfl, rfl, rfl, (by intro h; cases h), (by intro c h; cases h), rfl⟩

def inGroup (g : Nat) : State := { small with fsc := { Scanner.initial with group := g } }

theorem test_hyp_ContactsAreSampled :
    (∀ g, g < 3 → (inGroup g).ready ∧ (inGroup g).hearing = true ∧ (inGroup g).fsc.group = g) ∧
      (small.contactSetup 2).role = .none ∧ (small.contactSetup 0).role ≠ .none ∧ (State.reset.ready ∧ State.reset.hearing = false) ∧
      (let s := withDue (.alarmRepeat 1) { small with fsc := { Scanner.initial with contacts := put Scanner.initial.contacts 1 ⟨true, 0, 0⟩ } };
        s.dueNext (.alarmRepeat 1) [] ∧ (s.contactSetup 1).alarm = true ∧ (s.contact 1).active = true ∧ (s.contact 1).repeatTimer = 0 ∧
          s.port.ring.length < 32) :=
  ⟨fun _ _ => ⟨⟨rfl, rfl⟩, rfl, rfl⟩, by decide, by decide, ⟨⟨rfl, rfl⟩, rfl⟩, ⟨rfl, rfl⟩, by decide⟩

set_option maxRecDepth 20000 in
theorem test_hyp_ActuatorsMove :
    (small.actSetup 0 = valve (.outlet 0) ∧ (withFlow.actOf 0).command = .drive ∧ (small.actOf 0).command ≠ .drive ∧
        small.permitted ⟨.valve, .outlet 0, 5, none⟩ = true ∧ (withAct 0 ⟨.safe, .opened, 0⟩ small).actOf 0 = ⟨.safe, .opened, 0⟩ ∧
        (small.actOf 0).travel ≠ .opened ∧ small.atEnd 0 .valve true = false ∧
        deniedOutlet.permitted ⟨.valve, .outlet 0, 5, some 0⟩ = false ∧ (small.actOf 0).travel = .closed ∧
        (withFlow.actOf 0).travel ≠ .closed ∧ (withFlow.actOf 0).travel ≠ .closing ∧ withFlow.atEnd 0 .valve false = false ∧
        small.ident.resetLow = false) ∧
      (∀ c ∈ small.cle.list, targetRole c.target ≠ .outlet 0) ∧
      (let s := withDue (.travelTimeEnd 0) (withAct 0 ⟨.drive, .opening, 50⟩ small);
        s.dueNext (.travelTimeEnd 0) [] ∧ (s.actOf 0).travel = .opening ∧ s.endLimit 0 .valve true = none ∧ 10 * 5 ≤ (s.actOf 0).timer) ∧
      (let s := withDue (.travelStuck 0) (withAct 0 ⟨.safe, .closing, 250⟩ small);
        s.dueNext (.travelStuck 0) [] ∧ (s.actOf 0).travel = .closing ∧ 10 * 5 + 200 ≤ (s.actOf 0).timer ∧ s.port.ring.length < 32) :=
  ⟨by decide, by decide, ⟨⟨rfl, rfl⟩, by decide⟩, ⟨rfl, rfl⟩, by decide⟩

set_option maxRecDepth 20000 in
/-- The filter's clauses at their boundary: two readings held, the third taken; a dominant reset. -/
theorem test_hyp_CellStages :
    (∀ n, n < 2 → (filterStep .hold true { CellHistory.initial with holdCount := n }).filtered = false) ∧
      (filterStep .hold true { CellHistory.initial with holdCount := 2 }).filtered = true ∧
      (condition { CellProgram.powerOn with latch := true } true true true CellHistory.initial).output = false ∧
      (condition { CellProgram.powerOn with latch := true } true false true CellHistory.initial).latch = true ∧
      (denied small).actSetup 2 = some ⟨.valve, .segment 0, 5, some 0⟩ ∧
      (scanComplete false (denied small)).permitted ⟨.valve, .segment 0, 5, some 0⟩ = false := by decide

theorem test_hyp_TimedTrainFaults :
    (let s := withDue .noFeed (withTrain fun t => { t with state := .priming, phase := 300 });
      s.dueNext .noFeed [] ∧ s.trs.state = .priming ∧ 300 ≤ s.trs.phase) ∧
    (let s := withDue .highpressHold (withTrain fun t => { t with state := .ramping, hold := 100 });
      s.dueNext .highpressHold [] ∧ s.trs.state = .ramping ∧ 100 ≤ s.trs.hold) ∧
    (let s := withDue .settleLimit (withTrain fun t => { t with state := .settling, phase := 3000, settle := 599 });
      s.dueNext .settleLimit [] ∧ s.trs.state = .settling ∧ 3000 ≤ s.trs.phase ∧ s.trs.settle < 600) ∧
    (let s := withDue .sensor (withTrain fun t => { t with state := .ramping, sensor := some 100 });
      s.dueNext .sensor [] ∧ s.trs.state = .ramping ∧ s.trs.sensor = some 100) ∧
    (let s := withDue .settleLimit (withTrain fun t => { t with state := .settling, settle := 600 });
      s.dueNext .settleLimit [] ∧ s.trs.state = .settling ∧ 600 ≤ s.trs.settle) :=
  ⟨⟨⟨rfl, rfl⟩, by decide⟩, ⟨⟨rfl, rfl⟩, by decide⟩, ⟨⟨rfl, rfl⟩, by decide⟩, ⟨⟨rfl, rfl⟩, by decide⟩, ⟨rfl, rfl⟩, by decide⟩

theorem test_hyp_TrainComesUp :
    (let s := withDue .budgetTest inPending;
      s.dueNext .budgetTest [] ∧ s.trs.state = .pending ∧ s.ownPending = true ∧ s.budgetCount < s.allowed ∧
        (s.actWith .highpress).isSome = true) ∧
    (let s := withDue .budgetTest { inPending with setup := { smallSetup with station := some ⟨0, 100⟩ } };
      s.dueNext .budgetTest [] ∧ s.ownPending = true ∧ s.allowed ≤ s.budgetCount) ∧
    (let s := withDue .rampComplete (withTrain fun t => { t with state := .ramping, phase := 200 });
      s.dueNext .rampComplete [] ∧ s.trs.state = .ramping ∧ 200 ≤ s.trs.phase) ∧
    (let s := withDue .settleComplete (withTrain fun t => { t with state := .settling, settle := 600 });
      s.dueNext .settleComplete [] ∧ s.trs.state = .settling ∧ 600 ≤ s.trs.settle) :=
  ⟨⟨⟨rfl, rfl⟩, by decide⟩, ⟨⟨rfl, rfl⟩, by decide⟩, ⟨⟨rfl, rfl⟩, by decide⟩, ⟨rfl, rfl⟩, by decide⟩

theorem test_hyp_Diversions :
    (let s := withDue .marginal (withTrain fun t => { producing t with marginal := some 300 });
      s.dueNext .marginal [] ∧ s.watching = true ∧ s.trs.marginal = some 300 ∧ ∀ c ∈ s.cle.list, c.state ≠ .closing) ∧
    (let s := withDue .goodResume (withTrain fun t => { diverting .quality t with good := some 600 });
      s.dueNext .goodResume [] ∧ s.diverted = true ∧ s.trs.good = some 600 ∧ s.inflowFlowing = false) ∧
    (let s := withDue .goodResume (inflowFlows fun t => { diverting .quality t with good := some 600, inflow := some 3 });
      s.dueNext .goodResume [] ∧ s.diverted = true ∧ s.trs.good = some 600 ∧ s.inflowFlowing = true ∧ s.actWith .divert = some 5 ∧
        s.actSetup 5 = valve .divert ∧ s.permitted ⟨.valve, .divert, 5, none⟩ = true) ∧
    (let s := withDue .diversionLimit (withTrain fun t => { diverting .quality t with diversion := 600 });
      s.dueNext .diversionLimit [] ∧ s.diverted = true ∧ 600 ≤ s.trs.diversion ∧ s.trs.inflow = none) ∧
    (let s := withDue .diversionLimit (withAct 5 ⟨.safe, .closing, 0⟩
        (inflowFlows fun t => { diverting .quality t with diversion := 600, inflow := some 3 }));
      s.dueNext .diversionLimit [] ∧ s.diverted = true ∧ s.trs.inflow = some 3 ∧ s.claimOf 3 = some (inflowIn .flowing) ∧
        (inflowIn .flowing).target = .product ∧ s.actWith .divert = some 5 ∧ s.actSetup 5 = valve .divert ∧
        s.commandOf .divert = .safe ∧ s.travelOf .divert = .closing) :=
  ⟨⟨⟨rfl, rfl⟩, by decide⟩, ⟨⟨rfl, rfl⟩, by decide⟩, ⟨⟨rfl, rfl⟩, by decide⟩, ⟨⟨rfl, rfl⟩, by decide⟩, ⟨rfl, rfl⟩, by decide⟩

def retrying (f : Train → Train) : State := withDue .retryWaitEnd (withTrain fun t => { f t with retry := some 50 })

theorem test_hyp_TrainTimers :
    (let s := withDue .permit (withTrain fun t => { producing t with permit := 100 });
      s.dueNext .permit [] ∧ stoppable s.trs.state = true ∧ 100 ≤ s.trs.permit) ∧
    ((retrying fun t => t).dueNext .retryWaitEnd [] ∧ (retrying fun t => t).trs.retry = some 50 ∧
      (retrying fun t => t).trs.state ≠ .diverting) ∧
    (let s := retrying (diverting .noDestination);
      s.dueNext .retryWaitEnd [] ∧ s.trs.retry = some 50 ∧ s.trs.state = .diverting ∧ s.trs.divertCause = .noDestination ∧
        s.trs.inflow = none ∧ s.setup.train = some ⟨⟨9, 0⟩, [], 50, 3, 10⟩ ∧ s.destEntry = some ⟨⟨9, 0⟩, []⟩ ∧
        createRefusal s (inflowClaim s ⟨⟨9, 0⟩, [], 50, 3, 10⟩ ⟨⟨9, 0⟩, []⟩) = none) ∧
    (let s := withDue .ratePeriodEnd (withTrain fun t => { producing t with rateTimer := 100 });
      s.dueNext .ratePeriodEnd [] ∧ s.trs.state = .producing ∧ 100 ≤ s.trs.rateTimer) :=
  ⟨⟨⟨rfl, rfl⟩, by decide⟩, ⟨⟨rfl, rfl⟩, by decide⟩, ⟨⟨rfl, rfl⟩, by decide⟩, ⟨rfl, rfl⟩, by decide⟩

theorem test_hyp_TrainRequests :
    ({ small with setup := { smallSetup with train := none } }.ready ∧ { small with setup := { smallSetup with train := none } }.setup.train = none) ∧
      (small.ready ∧ small.bc.busState = .joined ∧ small.setup.train ≠ none ∧ small.trs.state = .stopped ∧
        (small.actWith .feed).isSome = true ∧ stoppable small.trs.state = false) ∧
      (let s := withTrain producing;
        s.ready ∧ s.trs.state ≠ .stopped ∧ stoppable s.trs.state = true ∧ s.trs.state ≠ .fault) ∧
      (let s := withTrain fun t => { t with state := .fault };
        s.ready ∧ s.bc.busState = .joined ∧ s.setup.train ≠ none ∧ s.trs.state = .fault) :=
  ⟨⟨⟨rfl, rfl⟩, rfl⟩, ⟨⟨rfl, rfl⟩, by decide⟩, ⟨⟨rfl, rfl⟩, by decide⟩, ⟨rfl, rfl⟩, by decide⟩

def lowAt (v : Nat) : State := withDue (.fillRetry 0) (levelIs ⟨true, 0, 0, false, v, .below⟩)

def noSource : State := { lowAt 200 with nwt := Vector.replicate 24 none }

theorem test_hyp_FillAttempts :
    ((withDue (.fillRetry 0) small).dueNext (.fillRetry 0) [] ∧ (withDue (.fillRetry 0) small).mayFill 0 = false) ∧
      ((lowAt 700).dueNext (.fillRetry 0) [] ∧ (lowAt 700).mayFill 0 = true ∧
        ((lowAt 700).plan 0).fillTarget ≤ ((lowAt 700).levelCh 0).accepted) ∧
      (noSource.dueNext (.fillRetry 0) [] ∧ noSource.mayFill 0 = true ∧ (noSource.levelCh 0).accepted < (noSource.plan 0).fillTarget ∧
        chooseSource noSource 0 ((noSource.plan 0).fillTarget - (noSource.levelCh 0).accepted) = none) ∧
      ((lowAt 699).dueNext (.fillRetry 0) [] ∧ (lowAt 699).mayFill 0 = true ∧
        ((lowAt 699).levelCh 0).accepted < ((lowAt 699).plan 0).fillTarget ∧
        chooseSource (lowAt 699) 0 (((lowAt 699).plan 0).fillTarget - ((lowAt 699).levelCh 0).accepted) = some (0, ⟨⟨9, 0⟩, []⟩, 1) ∧
        createRefusal (lowAt 699) (fillClaim (lowAt 699) 0 ⟨⟨9, 0⟩, []⟩ 1 .fill) = none) :=
  ⟨⟨⟨rfl, rfl⟩, by decide⟩, ⟨⟨rfl, rfl⟩, by decide⟩, ⟨⟨rfl, rfl⟩, by decide⟩, ⟨rfl, rfl⟩, by decide⟩

def swapping : State := { small with pls := { smallPlans with pending := true } }

theorem test_hyp_PlansChange :
    (swapping.ready ∧ swapping.bc.busState = .joined ∧ swapping.pls.pending = true) ∧
      (small.ready ∧ small.bc.busState = .joined ∧ small.pls.pending = false ∧ small.hasTank 0 = true ∧ small.hasTank 1 = false) ∧
      (let s := withDue .planExchange swapping;
        s.dueNext .planExchange [] ∧ s.pls.pending = true ∧ s.serving = true ∧ s.port.ring.length < 32) ∧
      ((withDue .planExchange small).dueNext .planExchange [] ∧ (withDue .planExchange small).pls.pending = false) :=
  ⟨⟨⟨rfl, rfl⟩, by decide⟩, ⟨⟨rfl, rfl⟩, by decide⟩, ⟨⟨rfl, rfl⟩, by decide⟩, ⟨rfl, rfl⟩, by decide⟩

set_option maxRecDepth 20000 in
theorem test_more_PlansChange :
    (swapping.ready ∧ swapping.serving = true ∧ swapping.graceEnds 104 = false ∧ swapping.graceEnds 100 = false ∧
        readMark (encMark 99 4) = some (99, 4) ∧ 4 ≠ swapping.ident.address) ∧
      (let s := failingSwap (some (.mark 41)) false 2000;
        s.ready ∧ s.serving = true ∧ s.graceEnds 100 = false ∧ s.bc.line = some (.mark 41) ∧ s.bc.dormantNext = false) ∧
      (let s := failingSwap (some (.mark 41)) true 2000;
        s.ready ∧ s.serving = true ∧ readMark (encMark 41 5) = some (41, s.ident.address) ∧ s.bc.line = some (.mark 41) ∧
          s.bc.dormantNext = true ∧ s.pls.pending = true) ∧
      ∀ v, v = 1996 ∨ v = 1999 → (let s := failingSwap none false v;
        s.ready ∧ s.serving = true ∧ s.failing = true ∧ s.bc.line = none ∧ s.bc.clock = some 100 ∧ s.port.supplyTimer < 2000 ∧
          s.port.supplyTimer + (2100 - v - 100) = 2000 ∧ s.pls.pending = true) := by
  refine ⟨⟨⟨rfl, rfl⟩, by decide⟩, ⟨⟨rfl, rfl⟩, by decide⟩, ⟨⟨rfl, rfl⟩, by decide⟩, ?_⟩
  rintro v (rfl | rfl) <;> exact ⟨⟨rfl, rfl⟩, by decide⟩

def standbyIs (p : PlanEntry) : State :=
  { small with pls := { smallPlans with bankB := put (Vector.replicate 2 none) 0 (some p) } }

/-- Each check of Table 10-3 fails at its boundary and holds one beside it. -/
theorem test_hyp_PlanSwaps :
    (swapping.ready ∧ swapping.pls.pending = true) ∧ (small.ready ∧ swapCheck small = none) ∧
      swapCheck (standbyIs { smallPlan with floor := ⟨1, 0, 100, 100, 200⟩ }) = some (.floorOrder, 0) ∧
      swapCheck (standbyIs { smallPlan with floor := ⟨0, 0, 0, 0, 1000⟩ }) = some (.floorHigh, 0) ∧
      swapCheck (standbyIs { smallPlan with floor := ⟨0, 0, 0, 0, 999⟩ }) = none ∧
      swapCheck (standbyIs { smallPlan with hysteresis := 251 }) = some (.marks, 0) ∧
      swapCheck (standbyIs { smallPlan with hysteresis := 250 }) = none ∧
      swapCheck (standbyIs { smallPlan with topMargin := 1000 }) = some (.topMargin, 0) ∧
      swapCheck (standbyIs { smallPlan with topMargin := 301 }) = some (.fillTarget, 0) ∧
      swapCheck (standbyIs { smallPlan with topMargin := 300 }) = none :=
  ⟨⟨⟨rfl, rfl⟩, rfl⟩, ⟨⟨rfl, rfl⟩, by decide⟩, by decide⟩

theorem test_hyp_PlanReads :
    small.ready ∧ small.hearing = true ∧ small.hasTank 1 = false ∧ small.hasTank 0 = true ∧
      look (small.pls.entries .b) none 0 = some smallPlan := ⟨⟨rfl, rfl⟩, by decide⟩

def portIs (f : Port → Port) : State := { small with port := f Port.powerOn }

theorem test_hyp_PortTransactions :
    (small.ready ∧ small.port.txn = .idle ∧ small.port.restart = false) ∧
      (∀ x, (portIs fun p => { p with txn := x }).ready ∧ (portIs fun p => { p with txn := x }).port.txn = x) ∧
      ((portIs fun p => { p with txn := .arguments, length := 2 }).port.args.length + 1 ≠
        (portIs fun p => { p with txn := .arguments, length := 2 }).port.length.toNat) ∧
      ((portIs fun p => { p with txn := .arguments, length := 1 }).port.args.length + 1 =
        (portIs fun p => { p with txn := .arguments, length := 1 }).port.length.toNat) ∧
      (∀ n, n < 2 → (portIs fun p => { p with txn := .taking, fillers := n }).port.fillers = n) ∧
      ((portIs fun p => { p with txn := .answering, left := [1, 2] }).port.left = 1 :: [2]) ∧
      ((portIs fun p => { p with txn := .answering, left := [1], taking := true }).port.left = [1]) ∧
      (portIs fun p => { p with taking := true }).port.taking = true ∧ small.bc.busState ≠ .dormant :=
  ⟨⟨⟨rfl, rfl⟩, rfl, rfl⟩, fun _ => ⟨⟨rfl, rfl⟩, rfl⟩, by decide, by decide, fun _ _ => rfl, rfl, rfl, rfl, by decide⟩

theorem test_hyp_RequestsOutOfState :
    (small.ready ∧ requestRow .run = some .run ∧ small.bc.busState ≠ .offline) ∧
      ((withState .dormant).ready ∧ requestRow .reportTake = some .reportTake ∧ requestRow .claimRead = some .claimRead) ∧
      (State.reset.ready ∧ State.reset.bc.busState = .offline ∧ requestRow (.nwtRead 9) = some (.nwtRead 9)) ∧
      ((withState .holding).ready ∧ requestRow .planSwap = some .planSwap ∧ (withState .holding).bc.busState ≠ .joined) :=
  ⟨⟨⟨rfl, rfl⟩, rfl, by decide⟩, ⟨⟨rfl, rfl⟩, rfl, rfl⟩, ⟨⟨rfl, rfl⟩, rfl, rfl⟩, ⟨rfl, rfl⟩, rfl, by decide⟩

theorem test_hyp_RequestsThatRead :
    (small.ready ∧ small.hearing = true ∧ small.bc.busState ≠ .dormant ∧ small.port.ring = []) ∧
      (reported.ready ∧ reported.port.ring = ⟨.plan .a 1, 40, false⟩ :: []) :=
  ⟨⟨⟨rfl, rfl⟩, by decide⟩, ⟨rfl, rfl⟩, rfl⟩

theorem test_hyp_SetupIsWritten :
    (offline.ready ∧ offline.bc.busState = .offline ∧ itemShape (1 : Byte).toNat (0 : Byte).toNat [2, 0, 100] = true ∧
        (writeItem (1 : Byte).toNat (0 : Byte).toNat [2, 0, 100] offline.setup).isSome = true) ∧
      writeItem (1 : Byte).toNat (0 : Byte).toNat [2, 0, 9] offline.setup = none ∧
      itemShape (1 : Byte).toNat (0 : Byte).toNat [2, 0] = false ∧ writesSetup .restart = false :=
  ⟨⟨⟨rfl, rfl⟩, by decide⟩, by decide⟩

def runnable : State := { offline with setup := { Setup.blank with station := some ⟨2, 100⟩ } }

theorem runnable_safe (a : Nat) : (runnable.actOf a).command = .safe := small_safe a

theorem test_hyp_RunStarts :
    (offline.ready ∧ offline.bc.busState = .offline ∧ runFailure offline = some ⟨.noStation, 1, 0⟩) ∧
      (runnable.ready ∧ runnable.bc.busState = .offline ∧ runFailure runnable = none ∧ runnable.nothingHeld) :=
  ⟨⟨⟨rfl, rfl⟩, by decide⟩, ⟨rfl, rfl⟩, by decide, by decide, rfl, fun t => by
    unfold State.tankOf look
    by_cases h : t < 2
    · revert t; decide
    · rw [List.getD_eq_default _ _ (by simp; omega)]; rfl, rfl, rfl, fun i => by
    unfold State.segOf look
    by_cases h : i < 4
    · revert i; decide
    · rw [List.getD_eq_default _ _ (by simp; omega)]; rfl, runnable_safe⟩

theorem test_hyp_OtherBlocksStand :
    (small.ready ∧ blockRow (.cancel 9 3 1) = true ∧ exec (.cancel 9 3 1) small = .next (after (.cancel 9 3 1) small)) ∧
      (eventRow (.stalled 3) = true ∧ exec (.stalled 3) small = .next (after (.stalled 3) small)) ∧
      (requestRow .trainStop = some .trainStop ∧ exec .trainStop small = .next (after .trainStop small)) :=
  ⟨⟨⟨rfl, rfl⟩, rfl, rfl⟩, ⟨rfl, rfl⟩, rfl, rfl⟩

theorem test_hyp_TruthTable :
    (∀ i, i < 4 → (0x5F : Byte).getLsbD i = (0x0F : Byte).getLsbD i) ∧
      (∀ i, i < 8 → i % 4 < 2 → (0x3B : Byte).getLsbD i = (0xFF : Byte).getLsbD i) ∧
      (∀ i, i < 8 → i % 2 = 0 → (0x55 : Byte).getLsbD i = (0xFF : Byte).getLsbD i) := by decide

theorem test_hyp_FramesReadBack : (1 ≤ 1 ∧ 24 ≤ 24) ∧ ownFrame.wf = true ∧ { peerFrame with record := peerRecord }.wf = true := by decide

/-! ## Stations that meet the hypotheses of the statements' further clauses -/

/-- The grace ends at 5 ms from now: before the own slot, the boundary and the local timer. -/
def lateGrace : State :=
  { inGrace none with port := { Port.powerOn with phase := .grace, supplyTimer := 1995 } }

def listening (f : BusCtl → BusCtl) : State := withBc fun b => f { b with busState := .listen }

/-- Station 4 PRESENT too, and heard in this round. -/
def lowerHeard : State :=
  { withBc fun b => { b with heard := [4], markless := 2 } with
    roster := put small.roster 3 ⟨.present, 3, 40, 0, false⟩ }

/-- A boundary now: every other station heard. -/
def heardAll (s : State) : State := { s with bc := { s.bc with heard := List.range 25 } }

theorem heardAll_allHeard (s : State) : (heardAll s).allHeard := by
  intro a v _
  right
  have h : a ≤ 24 := by unfold validAddr at v; simp at v; omega
  exact List.mem_range.mpr (by omega)

set_option maxRecDepth 20000 in
theorem test_more_Bus :
    (validAddr small.ident.address = true ∧ small.graceEnds (4 * small.ident.address) = false ∧ small.graceEnds 104 = false) ∧
      (lateGrace.ready ∧ lateGrace.serving = true ∧ lateGrace.bc.slotTaken = false ∧ lateGrace.bc.line = none ∧
        lateGrace.bc.clock = some 10 ∧ lateGrace.failing = true ∧ lateGrace.graceEnds (4 * lateGrace.ident.address) = true) ∧
      ((holder 0).graceEnds 100 = false ∧ (sending (.station ownFrame) 7 true).bc.failures ≤ 7) ∧
      ((sending (.mark 41) 0 false).serving = true ∧ readMark (encMark 41 5) = some (41, 5) ∧
        (sending (.mark 41) 0 false).graceEnds 100 = false) := by
  repeat' (first | decide | exact ⟨rfl, rfl⟩ | constructor)

/-- MARK and local timer: who takes the flag, and the entry to JOINED or HOLDING. -/
theorem test_more_Boundaries :
    (small.bc.markHolder = false ∧ small.ident.address < 6 ∧ (∀ b, b < 25 → validAddr b = true → b < small.ident.address →
        (small.rosterOf b).presence ≠ .present)) ∧
      (lowerHeard.ready ∧ lowerHeard.bc.busState = .joined ∧ lowerHeard.bc.markHolder = false ∧ 2 ≤ lowerHeard.bc.markless ∧
        4 ∈ lowerHeard.bc.heard ∧ validAddr 4 = true ∧ 4 < lowerHeard.ident.address ∧ (lowerHeard.rosterOf 4).presence = .present) ∧
      ((listening fun b => { b with clock := none, listenCount := 2 }).ready ∧
        (listening fun b => { b with clock := none, listenCount := 2 }).hearing = true) ∧
      (∀ x n, (n = 1 ∨ n = 2) → (listening fun b => { b with listenCount := n, clash := x }).bc.listenCount = n ∧
        (listening fun b => { b with listenCount := n, clash := x }).bc.clock ≠ none) ∧
      (∀ x, { listening (fun b => { b with listenCount := 1 }) with pins := ⟨false, x⟩ }.pins.supplyLow = x) :=
  ⟨by decide, ⟨⟨rfl, rfl⟩, by decide⟩, ⟨⟨rfl, rfl⟩, rfl⟩, (by intro x n h; rcases h with rfl | rfl <;> exact ⟨rfl, (by intro k; cases k)⟩),
    fun _ => rfl⟩

theorem one_claim (c : Claim) : (withClaim c).oneClaimEach := List.nodup_singleton _

theorem claims_notTrain (c : Claim) (h : c.creator ≠ .train) : ∀ x ∈ (withClaim c).cle.list, x.creator ≠ .train := by
  intro x k
  rw [List.mem_singleton.mp k]
  exact h

def restartedFrame : StationFrame := { peerFrame with incarnation := 4 }

def missingOwner : State :=
  { missing .stale 2 [] with cle := ⟨[{ claimIn .flowing 1 with path := [⟨24, 1⟩] }], 4⟩ }

set_option maxRecDepth 20000 in
/-- A peer restarted or lost under a claim that depends on it; frames outside a slot; MARKs that bear the own address. -/
theorem test_more_Peers :
    ((small.rosterOf 9).presence ≠ .absent ∧ (small.rosterOf 9).incarnation ≠ restartedFrame.incarnation ∧
        (∀ m ∈ restartedFrame.messages, m.dest ≠ small.ident.address) ∧
        readFrame (encFrame restartedFrame) = some restartedFrame) ∧
      (∀ i, i < 4 → (small.segOf i).state = .free → (small.segOf i).holder = none) ∧
      (dependsOn 9 (claimIn .flowing 1) = true ∧ dependsOn 9 (claimIn .pathing 0) = true ∧
        dependsOn 24 { claimIn .flowing 1 with path := [⟨24, 1⟩] } = true) ∧
      (missingOwner.ready ∧ missingOwner.hearing = true ∧ 24 ∉ missingOwner.bc.heard ∧
        (missingOwner.rosterOf 24).presence = .stale ∧ 2 ≤ (missingOwner.rosterOf 24).missed ∧ missingOwner.graceEnds 104 = false) ∧
      (small.bc.clock ≠ none ∧ slotAt 39 ≠ slotAt 40 ∧ slotAt 96 = 24 ∧ slotAt 99 = 24 ∧ slotAt 100 ≠ 24) ∧
      (readMark (encMark 41 5) = some (41, 5) ∧ small.bc.line ≠ some (.mark 41) ∧ small.port.phase = .normal ∧
        (listening fun b => b).bc.clash = false ∧ (withState .silent).bc.busState = .silent) := by
  repeat' (first | decide | exact ⟨rfl, rfl⟩ | constructor)

def faultRecord : StatusRecord := { ownRecord with segments := [⟨1, .fault⟩] }

def claimRecord (st : ClaimStatus) (i : Nat) : StatusRecord := { ownRecord with claims := [⟨1, .draw, st, 2, ⟨5, i⟩⟩] }

def remembering (n : Nat) : State := { small with tkm := { Tanks.initial with memory := [⟨⟨9, 3, 1⟩, 0, n⟩] } }

set_option maxRecDepth 20000 in
/-- A record at the blocks: segment FAULT under a held path, the delivered figure, both sweeps and the revocation memory. -/
theorem test_more_RecordReplacesEntry :
    ((⟨9, 1⟩ : SegId) ∈ (claimIn .flowing 1).path.take (claimIn .flowing 1).held ∧
        (⟨1, .fault⟩ : SegItem) ∈ faultRecord.segments ∧ (∀ i ∈ ownRecord.segments, i.index = 1 → i.status ≠ .fault)) ∧
      ((granted.tankOf 0).grants = [grantOf9] ∧
        (∀ d, (claimRecord (.flowing d) 0).claims.find? (fun i => i.sequence = 1 ∧ i.tank = ⟨5, 0⟩) =
          some ⟨1, .draw, .flowing d, 2, ⟨5, 0⟩⟩) ∧
        ownRecord.claims.find? (fun i => i.sequence = 1 ∧ i.tank = ⟨5, 0⟩) = none) ∧
      (∀ n, (n = 0 ∨ n = 5) → (remembering n).ready ∧ (remembering n).tkm.memory = [⟨⟨9, 3, 1⟩, 0, n⟩] ∧
        (remembering n).cle.list = [] ∧ (remembering n).serving = true ∧ (remembering n).bc.queue.length < 16) ∧
      ((heldSegment.segOf 0).holder = some ⟨9, 3, 1⟩ ∧ (heldSegment.segOf 0).absentCount = 0 ∧
        (∃ x ∈ (claimRecord .pathing 1).claims, x.sequence = 1) ∧ (∀ x ∈ ownRecord.claims, x.sequence ≠ 1)) ∧
      (∀ k, (k = .held ∨ k = .fault) → ((segmentIs ⟨k, some ⟨9, 3, 1⟩, 1⟩ []).segOf 0).state = k ∧
        1 ≤ ((segmentIs ⟨k, some ⟨9, 3, 1⟩, 1⟩ []).segOf 0).absentCount) :=
  ⟨by decide, ⟨by decide, fun _ => rfl, by decide⟩, (by rintro n (rfl | rfl) <;> exact ⟨⟨rfl, rfl⟩, by decide⟩),
    ⟨by decide, by decide, ⟨⟨1, .draw, .pathing, 2, ⟨5, 1⟩⟩, by decide⟩, by decide⟩, (by rintro k (rfl | rfl) <;> decide)⟩

theorem test_more_HoldFreeIsHandled :
    let s := withDue (.travelStuck 2) (withAct 2 ⟨.drive, .opening, 250⟩ heldSegment)
    s.actWith (.segment 0) = some 2 ∧ s.ident.resetLow = false ∧ s.due = [.travelStuck 2] ∧ s.serving = true ∧
      s.hasSegment 0 = true ∧ (s.segOf 0).holder = some ⟨9, 3, 1⟩ ∧ (s.segOf 0).state = .held ∧ (∀ w ∈ s.sga.waits, w.segment ≠ 0) ∧
      s.actSetup 2 = valve (.segment 0) ∧ (s.actOf 2).travel = .opening ∧ 10 * 5 + 200 ≤ (s.actOf 2).timer := by
  intro s; exact ⟨rfl, rfl, rfl, by decide⟩

/-- A *stuck* of segment 0's valve is due, and an entry waits for the segment. -/
def stuckWaited : State := withDue (.travelStuck 2) (withAct 2 ⟨.drive, .opening, 250⟩ (heldWith [waiter 2]))

theorem test_more_HoldFreeWaiter :
    stuckWaited.actWith (.segment 0) = some 2 ∧ stuckWaited.ident.resetLow = false ∧ stuckWaited.due = [.travelStuck 2] ∧
      stuckWaited.serving = true ∧ stuckWaited.hasSegment 0 = true ∧ (stuckWaited.segOf 0).holder = some ⟨9, 3, 1⟩ ∧
      (stuckWaited.segOf 0).state = .held ∧ stuckWaited.actSetup 2 = valve (.segment 0) ∧ (stuckWaited.actOf 2).travel = .opening ∧
      10 * 5 + 200 ≤ (stuckWaited.actOf 2).timer ∧
      stuckWaited.sga.waits.find? (fun w => w.segment == 0) = some (waiter 2) ∧
      stuckWaited.permitted ⟨.valve, .segment 0, 5, none⟩ = true ∧ stuckWaited.atEnd 2 .valve true = false :=
  ⟨rfl, rfl, rfl, by decide⟩

/-- R141: the waiter given the segment at the instant of the *stuck* keeps it. -/
theorem test_stuck_waiter_keeps :
    (match exec (.holdFree 9 3 1 0) stuckWaited with
      | .next t => decide (t.segOf 0 = ⟨.held, some (waiter 2).id, 0⟩ ∧ t.actOf 2 = ⟨.drive, .opening, 0⟩ ∧ t.sga.waits = [])
      | _ => false) = true := by decide

/-- A *stuck* of segment 0's valve is due while its closed limit stands made; the valve's permissive is `p`. -/
def stuckAtLimit (p : Option Nat) : State :=
  let s := withDue (.travelStuck 2) (withAct 2 ⟨.drive, .opening, 250⟩ heldSegment)
  { s with
    setup := { s.setup with
      contacts := put s.setup.contacts 20 ⟨.closedLimit 2, false, false⟩
      actuators := put s.setup.actuators 2 (some ⟨.valve, .segment 0, 5, p⟩) }
    fsc := { s.fsc with contacts := put s.fsc.contacts 20 ⟨true, 0, 0⟩ } }

theorem test_more_HoldFreeAtLimit (p : Option Nat) (h : p = none ∨ p = some 0) :
    (stuckAtLimit p).actWith (.segment 0) = some 2 ∧ (stuckAtLimit p).ident.resetLow = false ∧
      (stuckAtLimit p).due = [.travelStuck 2] ∧ (stuckAtLimit p).serving = true ∧ (stuckAtLimit p).hasSegment 0 = true ∧
      ((stuckAtLimit p).segOf 0).holder = some ⟨9, 3, 1⟩ ∧ ((stuckAtLimit p).segOf 0).state = .held ∧
      (∀ w ∈ (stuckAtLimit p).sga.waits, w.segment ≠ 0) ∧ ((stuckAtLimit p).actOf 2).travel = .opening ∧
      (stuckAtLimit p).atEnd 2 .valve false = true ∧ (stuckAtLimit p).permitted ⟨.valve, .segment 0, 5, p⟩ = p.isNone := by
  rcases h with rfl | rfl <;> exact ⟨rfl, rfl, rfl, by decide⟩

/-- R137, R141: the *travel done* of the release's close request follows the older *stuck*, and clears the fault where it may. -/
theorem test_stuck_at_limit_clears :
    (match exec (.holdFree 9 3 1 0) (stuckAtLimit none) with
      | .next t => decide (t.segOf 0 = ⟨.free, none, 0⟩ ∧ (t.actOf 2).travel = .closed)
      | _ => false) = true := by decide

/-- R119: of two equal entries the one whose REVOKE the queue refuses keeps its timer at 0. -/
theorem test_memory_by_entry :
    (examineEntries 9 3 [⟨1, .draw, .flowing 0, 2, ⟨5, 0⟩⟩] [⟨⟨9, 3, 1⟩, 0, 0⟩, ⟨⟨9, 3, 1⟩, 0, 0⟩] (queued 15)).2 =
      [⟨⟨9, 3, 1⟩, 0, 5⟩, ⟨⟨9, 3, 1⟩, 0, 0⟩] := by decide

/-- The fill claim of tank 0 and the flush claim. -/
def fillIn (st : ClaimState) (k : Creator) : Claim :=
  { claimIn st 0 with kind := .transfer, target := .fillInlet 0, path := [], creator := k }
def flushIn (st : ClaimState) : Claim := { claimIn st 0 with target := .flush, path := [], creator := .train }

def deniedAt (a : Nat) (r : Role) (s : State) : State :=
  { s with setup := { s.setup with actuators := put s.setup.actuators a (some ⟨.valve, r, 5, some 0⟩) } }

/-- The train's inflow claim in ASKING, in a diversion. -/
def asksIn (c : DivertCause) : State :=
  { withTrain fun t => { diverting c t with inflow := some 3, passCount := 1 } with cle := ⟨[inflowIn .asking], 4⟩ }

set_option maxRecDepth 20000 in
theorem test_more_GrantIsHandled :
    ((withClaim (flushIn .asking)).claimOf 3 = some (flushIn .asking) ∧ (withClaim (flushIn .asking)).trs.inflow ≠ some 3 ∧
        (withClaim (flushIn .asking)).actWith (targetRole (flushIn .asking).target) = some 6 ∧
        (withClaim (flushIn .asking)).actSetup 6 = valve .flush) ∧
      ((asksIn .quality).claimOf 3 = some (inflowIn .asking) ∧ (asksIn .quality).trs.inflow = some 3 ∧
        (asksIn .quality).trs.state = .diverting ∧ (asksIn .quality).trs.divertCause = .quality ∧
        (asksIn .quality).permitted ⟨.valve, .divert, 5, none⟩ = true ∧
        ∀ x ∈ (asksIn .quality).cle.list, x.target = (inflowIn .asking).target → x.sequence = 3) ∧
      (let s := deniedAt 1 (.fill 0) (withClaim (fillIn .asking .fill));
        s.claimOf 3 = some (fillIn .asking .fill) ∧ s.actWith (.fill 0) = some 1 ∧ s.permitted ⟨.valve, .fill 0, 5, some 0⟩ = false ∧
          (s.actOf 1).command ≠ .drive ∧ (s.actOf 1).travel = .closed ∧
          ∀ x ∈ s.cle.list, x.target = (fillIn .asking .fill).target → x.sequence = 3) ∧
      (let s := deniedAt 5 .divert (asksIn .noDestination);
        s.claimOf 3 = some (inflowIn .asking) ∧ s.actWith .divert = some 5 ∧ s.permitted ⟨.valve, .divert, 5, some 0⟩ = false ∧
          (s.actOf 5).command ≠ .drive ∧ (s.actOf 5).travel = .closed ∧ s.trs.divertCause = .noDestination ∧
          s.setup.destinations.length ≤ s.trs.passCount + 1) := by decide

/-- A claim of 255 rounds, its outlet CLOSED while it flows; claims of automatic fill, of the train, and a boundary. -/
theorem test_more_Claims :
    (let s := withClaim (claimIn .flowing 1);
      s.ready ∧ s.bc.busState = .joined ∧ s.claimOf 3 = some (claimIn .flowing 1) ∧ (s.actOf 0).travel = .closed ∧
        s.actSetup 0 = valve (.outlet 0) ∧ s.bc.queue.length < 16 ∧ s.port.ring.length < 32) ∧
      (∀ k, (k = .fill ∨ k = .port) → (withClaim (fillIn .asking k)).ready ∧
        (withClaim (fillIn .asking k)).claimOf 3 = some (fillIn .asking k) ∧ (fillIn .asking k).creator = k) ∧
      ((withClaim (flushIn .asking)).ready ∧ (flushIn .asking).target = .flush) ∧
      ((asksIn .noDestination).ready ∧ (asksIn .noDestination).trs.ownStop = false ∧ (asksIn .noDestination).trs.inflow = some 3 ∧
        (asksIn .noDestination).bc.busState = .joined) ∧
      (let s := { withClaim { fillIn .asking .fill with age := 100 } with
          tkm := { Tanks.initial with tank := put Tanks.initial.tank 0 { TankState.initial with fill := .filling, live := some 2 } } };
        (withDue (.timeout 3) s).dueNext (.timeout 3) [] ∧ (s.tankOf 0).live = some 2) ∧
      ((heardAll withFlow).ready ∧ (heardAll withFlow).serving = true ∧ (heardAll withFlow).graceEnds 104 = false ∧
        (heardAll withFlow).travelOf (targetRole (claimIn .flowing 1).target) = .opened) :=
  ⟨⟨⟨rfl, rfl⟩, by decide⟩, (by rintro k (rfl | rfl) <;> exact ⟨⟨rfl, rfl⟩, by decide, rfl⟩), ⟨⟨rfl, rfl⟩, rfl⟩, ⟨⟨rfl, rfl⟩, by decide⟩,
    ⟨⟨rfl, rfl⟩, by decide⟩, ⟨rfl, rfl⟩, by decide⟩

/-- The boundaries that the statements take: the local timer, another station's MARK, and the own good one. -/
theorem heardAll_atBoundary (s : State) (p : Bool) (r : s.ready) (h : s.serving = true) (g : s.graceEnds 104 = false) :
    (heardAll s).atBoundary (.localRoundTimer p) p := ⟨r, h, heardAll_allHeard s, 100, rfl, rfl, g⟩

set_option maxRecDepth 20000 in
theorem mark_atBoundary (s : State) (ms : Nat) (p : Bool) (r : s.ready) (h : s.serving = true) (g : s.graceEnds ms = false)
    (a : s.ident.address = 5) : (heardAll s).atBoundary (.validMark (encMark 99 4) ms p) p :=
  ⟨r, h, heardAll_allHeard s, ms, rfl, rfl, g, 99, 4, by decide, fun (e : 4 = s.ident.address) => by rw [← e] at a; cases a⟩

set_option maxRecDepth 20000 in
theorem ownMark_atBoundary (p : Bool) :
    (heardAll (sending (.mark 41) 0 false)).atBoundary (.validMark (encMark 41 5) 100 p) p :=
  ⟨⟨rfl, rfl⟩, rfl, heardAll_allHeard _, 100, rfl, rfl, rfl, 41, 5, by decide, fun _ => ⟨rfl, rfl⟩⟩

/-- Two waiters of tank 0, the first too large; grants above what tank 0 can give, by class and by inflow. -/
def scanned : State :=
  { small with tkm := { Tanks.initial with waits := [tankWaiter 1, { tankWaiter 2 with volume := 100 }] } }

def overGranted (k : ClaimKind) (v : Nat) : State :=
  { small with tkm := { Tanks.initial with tank := put Tanks.initial.tank 0 { TankState.initial with
      grants := [grantOf9, { grantOf9 with id := ⟨9, 3, 2⟩, kind := k, volume := v, remaining := v }] } } }

set_option maxRecDepth 20000 in
theorem test_more_Tanks :
    (scanned.tkm.waits = [tankWaiter 1] ++ { tankWaiter 2 with volume := 100 } :: [] ∧
        scanned.fits (tankWaiter 1).tank (tankWaiter 1).kind (tankWaiter 1).cls (tankWaiter 1).volume = false ∧
        scanned.fits 0 .draw 2 100 = true) ∧
      ((overGranted .draw 501).tankOf 0).grants.length ≤ 8 ∧
      ((600 : Int) - forClass (small.plan 0).floor 2 = 600 ∧
        ((((overGranted .draw 501).tankOf 0).grants.filter fun g => g.kind ≠ .inflow ∧ g.cls ≤ 2).map (·.remaining)).sum = 601) ∧
      ((small.capacity 0 : Int) - (small.plan 0).topMargin - (small.levelCh 0).accepted = 350 ∧
        ((((overGranted .inflow 351).tankOf 0).grants.filter fun g => g.kind = .inflow).map (·.remaining)).sum = 351) ∧
      (∀ n, (n = 15 ∨ n = 16) → (queued n).serving = true ∧ (queued n).bc.queue.length = n) ∧
      (withState .listen).serving = false :=
  ⟨by decide, by decide, by decide, by decide, (by rintro n (rfl | rfl) <;> decide), rfl⟩

/-- A quality reading that leaves INSIDE for ABOVE under a watch, and DIVERT closing under a claim in CLOSING. -/
def divertCloses (f : Train → Train) (st : ClaimState) : State :=
  withAct 5 ⟨.safe, .closing, 0⟩ { withTrain f with cle := ⟨[inflowIn st], 4⟩ }

set_option maxRecDepth 20000 in
theorem test_more_QualityReadingCompletes :
    (let s := withDue .qualityReading (qualityIs ⟨true, 4000, 1, false, 100, .below⟩ producing);
      s.watching = true ∧ s.mch.quality.rail = false ∧ s.mch.quality.window ≠ .above ∧
        windowAfter s.mch.quality.window 200 800 50 (qualityOf (s.mch.quality.accumulator / 2 ^ 0)) = .above) ∧
      (∃ c ∈ (divertCloses producing .closing).cle.list, c.state = .closing ∧ c.target = .product) ∧
      ((divertCloses producing .closing).commandOf .divert = .safe ∧ (divertCloses producing .closing).travelOf .divert = .closing) :=
  ⟨by decide, ⟨inflowIn .closing, by decide⟩, by decide⟩

theorem small_closingStill (f : Train → Train) : (withTrain f).closingStill := by
  rintro ⟨c, h, _⟩
  cases h

def overflowing : State :=
  { granted with
    setup := { smallSetup with contacts := put smallSetup.contacts 24 ⟨.overflow 0, false, false⟩ }
    fsc := { Scanner.initial with group := 3, contacts := put Scanner.initial.contacts 24 ⟨false, 1, 0⟩ } }

set_option maxRecDepth 20000 in
/-- Group 3, an OVERFLOW contact at its change, and an alarm and a travel one step before their limits. -/
theorem test_more_ContactsAreSampled :
    ((inGroup 3).ready ∧ (inGroup 3).hearing = true ∧ (inGroup 3).fsc.group = 3 ∧
        (∀ r, r < 8 → ((inGroup 3).contactSetup (24 + r)).role = .none) ∧
        (∀ a, a < 12 → ∀ u, (inGroup 3).actSetup a = some u → u.permissive = none)) ∧
      (overflowing.hearing = true ∧ (overflowing.contactSetup 24).role = .overflow 0 ∧
        (debounce (true != (overflowing.contactSetup 24).inverted) (overflowing.contact 24)).2 = true) ∧
      ((small.actOf 0).travel ≠ .opening ∧ (withAct 0 ⟨.drive, .opening, 49⟩ small).endLimit 0 .valve true = none ∧
        10 * 5 ≤ ((withAct 0 ⟨.drive, .opening, 49⟩ small).actOf 0).timer + 1) ∧
      ((granted.tankOf 0).grants.filter fun g => g.kind = .inflow ∧ 0 < g.remaining).reverse = [] := by
  repeat' (first | decide | exact ⟨rfl, rfl⟩ | constructor)

/-- Notices of the train's actuators in FAULT, outside it, and in PRODUCING. -/
theorem test_more_TimedTrainFaults :
    (withTrain fun t => { t with state := .fault }).trs.state = .fault ∧ (withTrain producing).trs.state ≠ .fault ∧
      (withTrain producing).trs.state = .producing := by decide

/-- Every state of the train at a boundary, one boundary before the limits of its timers. -/
theorem test_more_TrainComesUp :
    (∀ x, (heardAll (withTrain fun t => { t with state := x })).ready ∧
        (heardAll (withTrain fun t => { t with state := x })).serving = true ∧
        (heardAll (withTrain fun t => { t with state := x })).graceEnds 104 = false ∧
        (heardAll (withTrain fun t => { t with state := x })).trs.state = x) ∧
      (small.made .feedOk = false ∧
        { small with fsc := { Scanner.initial with contacts := put Scanner.initial.contacts 0 ⟨true, 0, 0⟩ } }.made .feedOk = true) ∧
      ((withAct 4 ⟨.held, .closed, 0⟩ small).commandOf .highpress = .held ∧ small.commandOf .highpress ≠ .held) :=
  ⟨fun _ => ⟨⟨rfl, rfl⟩, rfl, rfl, rfl⟩, by decide, by decide⟩

/-- The diversion limit as a run reaches it, DIVERT commanded to reject: CLOSED or CLOSING under each state of the inflow claim. -/
def limited (v : Travel) (st : ClaimState) : State :=
  withDue .diversionLimit (withAct 5 ⟨.safe, v, 0⟩
    { withTrain fun t => { diverting .quality t with diversion := 600, inflow := some 3 } with cle := ⟨[inflowIn st], 4⟩ })

theorem test_more_Diversions :
    (∀ v, (v = .closed ∨ v = .closing) → ∀ st, (limited v st).dueNext .diversionLimit [] ∧ (limited v st).diverted = true ∧
        600 ≤ (limited v st).trs.diversion ∧ (limited v st).trs.inflow = some 3 ∧ (limited v st).claimOf 3 = some (inflowIn st) ∧
        (inflowIn st).target = .product ∧ (inflowIn st).creator = .train ∧ (inflowIn st).state = st ∧
        (limited v st).commandOf .divert = .safe ∧ (limited v st).travelOf .divert = v) ∧
      (let s := deniedAt 5 .divert (withDue .goodResume (inflowFlows fun t => { diverting .quality t with good := some 600, inflow := some 3 }));
        s.dueNext .goodResume [] ∧ s.inflowFlowing = true ∧ s.permitted ⟨.valve, .divert, 5, some 0⟩ = false) ∧
      (let s := deniedAt 5 .divert (withAct 5 ⟨.safe, .closing, 0⟩ (inflowFlows producing)); (s.actOf 5).command ≠ .drive) :=
  ⟨(by rintro v (rfl | rfl) st <;> exact ⟨⟨rfl, rfl⟩, rfl, Nat.le_refl 600, rfl, rfl, rfl, rfl, rfl, rfl, rfl⟩), ⟨⟨rfl, rfl⟩, by decide⟩, by decide⟩

/-- An outcome of the inflow claim, in FAULT, in STOPPING, in PRODUCING and in both diversions; the last destination of a pass and the one
before it; and the next claim that can be made. -/
theorem test_more_TrainTimers :
    (∀ x, (withTrain fun t => { t with state := x, inflow := some 3 }).trs.inflow = some 3 ∧
        (withTrain fun t => { t with state := x, inflow := some 3 }).trs.state = x) ∧
      (small.trs.inflow ≠ some 3 ∧ (asksIn .quality).trs.divertCause = .quality) ∧
      ((asksIn .noDestination).setup.destinations.length ≤ (asksIn .noDestination).trs.passCount + 1 ∧
        (withTrain producing).trs.passCount + 1 < (withTrain producing).setup.destinations.length) ∧
      (let s := withTrain producing;
        s.trs.retry = none ∧ s.cle.nextSeq < 256 ∧ s.bc.busState = .joined ∧ s.setup.train = some ⟨⟨9, 0⟩, [], 50, 3, 10⟩ ∧
          s.setup.station = some ⟨2, 100⟩ ∧ s.setup.destinations[s.trs.destIndex]? = some ⟨⟨9, 0⟩, []⟩ ∧
          s.setup.destinations[(s.trs.destIndex + 1) % s.setup.destinations.length]? = some ⟨⟨9, 1⟩, []⟩ ∧
          createRefusal s ⟨.inflow, .product, ⟨9, 0⟩, 3, 2000, 100, [], .train⟩ = none ∧
          createRefusal s ⟨.inflow, .product, ⟨9, 1⟩, 3, 2000, 100, [], .train⟩ = none) :=
  ⟨fun _ => ⟨rfl, rfl⟩, by decide, by decide, by decide⟩

/-- The flush claim of a stop, created and refused, and its outcome with the pumps STOPPED and not. -/
theorem test_more_TrainRequests :
    (let s := withTrain fun t => { t with state := .producing };
      s.trs.inflow = none ∧ (∀ c ∈ s.cle.list, c.state ≠ .closing) ∧
        createRefusal s ⟨.draw, .flush, ⟨9, 0⟩, 4, 50, 100, [], .train⟩ = none ∧ s.cle.nextSeq < 256 ∧
        createRefusal { s with cle := ⟨List.replicate 8 (claimIn .asking 1), 4⟩ } ⟨.draw, .flush, ⟨9, 0⟩, 4, 50, 100, [], .train⟩ ≠ none ∧
        ∀ c ∈ ({ s with cle := ⟨List.replicate 8 (claimIn .asking 1), 4⟩ }).cle.list, c.state ≠ .closing) ∧
      (let s := withTrain fun t => { t with state := .stopping, flush := some 3 };
        s.trs.flush = some 3 ∧ s.trs.state = .stopping ∧ s.travelOf .feed = .closed ∧ s.travelOf .highpress = .closed ∧
          (withAct 3 ⟨.safe, .closing, 0⟩ s).travelOf .feed ≠ .closed) ∧
      small.trs.flush ≠ some 3 := by decide

def fillSrc : List Source := [⟨⟨9, 0⟩, []⟩, ⟨⟨9, 1⟩, []⟩]

/-- A tank that wants 700 less its level, with two sources that publish the given figures. -/
def sources (v a b : Nat) : State :=
  { lowAt v with
    setup := { smallSetup with fills := put smallSetup.fills 0 (some ⟨4, fillSrc⟩) }
    nwt := put small.nwt 8 (some ⟨{ peerRecord with tanks :=
      [⟨0, 2000, 1500, .inside, ⟨0, 0, 0, a, 0⟩, 500, .idle⟩, ⟨1, 2000, 1500, .above, ⟨0, 0, 0, b, 0⟩, 500, .idle⟩] }, 40, 40, false⟩) }

theorem sources_attempts (v a b : Nat) : (sources v a b).attempts 0 :=
  ⟨⟨rfl, ⟨4, fillSrc⟩, rfl, (by intro h; cases h)⟩, rfl, (by intro h; cases h), rfl, rfl, (by intro c h; cases h)⟩

theorem sources_give (v a b : Nat) :
    (sources v a b).sourceGives 0 0 ⟨⟨9, 0⟩, []⟩ a ∧ (sources v a b).sourceGives 0 1 ⟨⟨9, 1⟩, []⟩ b :=
  ⟨⟨rfl, _, rfl, rfl, _, rfl, Or.inl rfl, rfl⟩, ⟨rfl, _, rfl, rfl, _, rfl, Or.inr rfl, rfl⟩⟩

set_option maxRecDepth 20000 in
/-- A choice at its boundaries: 100 L wanted of 99 and 99, 100 and 100; 200 L wanted of 99 and 100; and a creation refused. -/
theorem test_more_FillAttempts :
    (∀ v a b, (sources v a b).dueNext (.fillRetry 0) [] ∧ (sources v a b).fillSetup 0 = some ⟨4, fillSrc⟩ ∧
        ((sources v a b).plan 0).fillTarget = 700 ∧ ((sources v a b).levelCh 0).accepted = v) ∧
      (chooseSource (sources 600 99 99) 0 100 = none ∧ chooseSource (sources 600 100 100) 0 100 = some (0, ⟨⟨9, 0⟩, []⟩, 100) ∧
        chooseSource (sources 500 99 100) 0 200 = some (1, ⟨⟨9, 1⟩, []⟩, 100)) ∧
      (createRefusal { sources 600 100 100 with cle := ⟨List.replicate 8 (claimIn .asking 1), 4⟩ }
          ⟨.transfer, .fillInlet 0, ⟨9, 0⟩, 4, 100, 100, [], .fill⟩ = some .full ∧
        createRefusal (sources 600 100 100) ⟨.transfer, .fillInlet 0, ⟨9, 0⟩, 4, 100, 100, [⟨9, 1⟩, ⟨9, 0⟩], .fill⟩ = some .badPath ∧
        createRefusal (sources 600 100 100) ⟨.transfer, .fillInlet 0, ⟨9, 0⟩, 4, 100, 100, [], .fill⟩ = none) ∧
      ((fillIn .asking .fill).creator = .fill ∧ (fillIn .asking .fill).target = .fillInlet 0) ∧ ¬ (withDue (.fillRetry 0) small).attempts 0 :=
  ⟨fun _ _ _ => ⟨⟨rfl, rfl⟩, rfl, rfl, rfl⟩, by decide, by decide, ⟨rfl, rfl⟩, fun h => by cases h.2.2.2.1⟩

set_option maxRecDepth 20000 in
/-- A content in range and one outside for each item, at a limit. -/
theorem test_more_SetupIsWritten :
    (trainItemBytes ⟨⟨9, 0⟩, [⟨9, 3⟩], 400, 5, 50⟩ = [9, 0, 1, 144, 5, 50, 1, 9, 3] ∧
        (writeItem 5 0 [9, 0, 1, 144, 5, 50, 1, 9, 3] Setup.blank).isSome = true ∧
        writeItem 5 0 [9, 0, 1, 145, 5, 50, 0] Setup.blank = none) ∧
      (actuatorBytes ⟨.pump, .feed, 600, none⟩ = [1, 4, 0, 2, 88, 255] ∧ (writeItem 7 11 [1, 4, 0, 2, 88, 255] Setup.blank).isSome = true ∧
        writeItem 7 11 [1, 4, 0, 2, 89, 255] Setup.blank = none ∧ writeItem 7 12 [1, 4, 0, 2, 88, 255] Setup.blank = none) ∧
      (levelBytes ⟨7, [(0, 0), (4095, 65535)]⟩ = [7, 2, 0, 0, 0, 0, 15, 255, 255, 255] ∧
        (writeItem 10 1 [7, 2, 0, 0, 0, 0, 15, 255, 255, 255] Setup.blank).isSome = true ∧
        writeItem 10 1 [7, 1, 0, 0, 0, 0] Setup.blank = none) ∧
      (qualityBytes ⟨0, 2000, 0, 0⟩ = [0, 7, 208, 0, 0, 0, 0] ∧ (writeItem 10 2 [0, 7, 208, 0, 0, 0, 0] Setup.blank).isSome = true ∧
        writeItem 10 2 [0, 7, 209, 0, 0, 0, 0] Setup.blank = none) ∧
      (fillBytes ⟨5, []⟩ = [5, 0] ∧ (writeItem 11 1 [5, 0] Setup.blank).isSome = true ∧ writeItem 11 1 [6, 0] Setup.blank = none ∧
        writeItem 6 0 [0] Setup.blank = none) := by decide

/-- Waiters of both queues, of two classes and of two rounds. -/
def waiting : State :=
  { heldWith [{ waiter 2 with fresh := false }, waiter 3] with
    tkm := { Tanks.initial with waits := [tankWaiter 1, { tankWaiter 2 with cls := 3, fresh := false }] } }

theorem test_more_BoundsAreKept :
    waiting.waitsOrdered ∧ ∃ t, step { waiting with pending := [.holdReq 9 3 5 0 2] } = .next t :=
  ⟨⟨by simp [waiting, tankWaiter, TankWait.ahead], by simp [waiting, heldWith, waiter, HoldWait.ahead]⟩, _, rfl⟩

/-- Entries on both sides of a new one of class 2 from address 9: a lower class, an earlier round, the same round with an equal and with a
higher address, and a higher class. -/
def holdLine : List HoldWait :=
  [{ waiter 1 with cls := 1 }, { waiter 2 with id := ⟨20, 3, 2⟩, fresh := false }, waiter 3, { waiter 4 with id := ⟨10, 3, 4⟩ },
    { waiter 5 with cls := 3, fresh := false }]

def tankLine : List TankWait :=
  [{ tankWaiter 1 with cls := 1 }, { tankWaiter 2 with id := ⟨20, 3, 2⟩, fresh := false }, tankWaiter 3,
    { tankWaiter 4 with id := ⟨10, 3, 4⟩ }, { tankWaiter 5 with cls := 3, fresh := false }]

/-- R129, R109: the new entry takes the fourth place. -/
theorem test_more_Queues :
    (insertHold (waiter 9) holdLine = holdLine.take 3 ++ waiter 9 :: holdLine.drop 3 ∧ (waiter 9).fresh = true) ∧
      (insertTankWait (tankWaiter 9) tankLine = tankLine.take 3 ++ tankWaiter 9 :: tankLine.drop 3 ∧ (tankWaiter 9).fresh = true) ∧
      holdLine.Pairwise HoldWait.ahead ∧ tankLine.Pairwise TankWait.ahead :=
  ⟨by decide, by decide, by simp [holdLine, waiter, HoldWait.ahead], by simp [tankLine, tankWaiter, TankWait.ahead]⟩

set_option maxRecDepth 20000 in
/-- Another station's MARK in LISTEN; a MARK that cuts slot 24 short, and one that does not. -/
theorem test_more_MarkIsAdopted :
    (∀ ck, (listening fun b => { b with clock := ck, listenCount := 1 }).ready ∧
        (listening fun b => { b with clock := ck, listenCount := 1 }).hearing = true ∧
        (listening fun b => { b with clock := ck, listenCount := 1 }).graceEnds 99 = false ∧
        (listening fun b => { b with clock := ck, listenCount := 1 }).bc.clock = ck) ∧
      (∀ ms p, (missing .present 0 []).boundaryBy p ms (.validMark (encMark 99 4) ms p)) ∧
      (∀ p, (missing .present 0 []).boundaryBy p 100 (.localRoundTimer p)) ∧
      (sending (.mark 41) 0 false).boundaryBy true 100 (.validMark (encMark 41 5) 100 true) ∧ (99 < 4 * (24 + 1) ∧ 4 * (24 + 1) ≤ 100) :=
  ⟨fun _ => ⟨⟨rfl, rfl⟩, rfl, rfl, rfl⟩,
    fun _ _ => ⟨rfl, rfl, rfl, 99, 4, by decide, fun (e : 4 = 5) => by cases e⟩, fun _ => ⟨rfl, rfl, rfl⟩,
    ⟨rfl, rfl, rfl, 41, 5, by decide, fun _ => ⟨rfl, rfl⟩⟩, by decide⟩

set_option maxRecDepth 20000 in
/-- A MARK joins a listening station, and leaves the roster entry of a slot it cuts short (R11, R26). -/
theorem test_marks :
    (after (.validMark (encMark 99 9) 99 true) (listening fun b => { b with listenCount := 1 })).bc.busState = .joined ∧
      ((after (.validMark (encMark 99 4) 99 true) (missing .present 0 [])).rosterOf 24).presence = .present ∧
      ((after (.validMark (encMark 99 4) 100 true) (missing .present 0 [])).rosterOf 24).presence = .stale := by decide

theorem test_more_SamplesAreTaken :
    (let s := withAct 4 ⟨.held, .closed, 0⟩ small;
      s.ready ∧ s.hearing = true ∧ s.highpressOn = true ∧ s.setup.quality = some ⟨0, 200, 800, 50⟩ ∧ s.mch.quality.count + 1 = 2 ^ 0) :=
  ⟨⟨rfl, rfl⟩, by decide⟩

/-- A claim in CLOSING with 7 L metered, its valve `a` in a travel. -/
def closes (a n : Nat) (e : Due) (c : Claim) (f : Train → Train) : State :=
  withDue e (withAct a ⟨.safe, .closing, n⟩ { withTrain f with cle := ⟨[{ c with delivered := 7, reason := some .done }], 4⟩ })

theorem alone (c : Claim) : ∀ x ∈ [c], targetRole x.target = targetRole c.target → x = c := fun _ h _ => List.mem_singleton.mp h

set_option maxRecDepth 20000 in
/-- The end of closing at an outlet, a fill valve, DIVERT and the flush valve; DIVERT in PRODUCING and in FAULT. -/
theorem test_more_ActuatorsMove :
    (let s := closes 0 50 (.travelTimeEnd 0) (claimIn .closing 1) fun t => t;
      s.dueNext (.travelTimeEnd 0) [] ∧ s.actWith (.outlet 0) = some 0 ∧ s.actSetup 0 = valve (.outlet 0) ∧
        s.claimOf 3 = some { claimIn .closing 1 with delivered := 7, reason := some .done } ∧ (s.actOf 0).travel = .closing ∧
        s.endLimit 0 .valve false = none ∧ 10 * 5 ≤ (s.actOf 0).timer ∧ s.port.ring.length < 29) ∧
      (let s := closes 1 250 (.travelStuck 1) (fillIn .closing .fill) fun t => t;
        s.dueNext (.travelStuck 1) [] ∧ s.actWith (.fill 0) = some 1 ∧ s.actSetup 1 = valve (.fill 0) ∧
          s.claimOf 3 = some { fillIn .closing .fill with delivered := 7, reason := some .done } ∧ (s.actOf 1).travel = .closing ∧
          10 * 5 + 200 ≤ (s.actOf 1).timer) ∧
      (∀ x, let s := closes 5 250 (.travelStuck 5) (inflowIn .closing) fun t => { t with state := x, inflow := some 3 };
        s.dueNext (.travelStuck 5) [] ∧ s.actWith .divert = some 5 ∧ s.actSetup 5 = valve .divert ∧
          s.claimOf 3 = some { inflowIn .closing with delivered := 7, reason := some .done } ∧ s.trs.state = x ∧
          s.trs.flush = none ∧ s.trs.inflow = some 3 ∧ 10 * 5 + 200 ≤ (s.actOf 5).timer) ∧
      (let s := closes 6 50 (.travelTimeEnd 6) (flushIn .closing) fun t => { t with state := .stopping, flush := some 3 };
        s.dueNext (.travelTimeEnd 6) [] ∧ s.actWith .flush = some 6 ∧ s.actSetup 6 = valve .flush ∧ s.endLimit 6 .valve false = none) :=
  ⟨⟨⟨rfl, rfl⟩, by decide⟩, ⟨⟨rfl, rfl⟩, by decide⟩, fun _ => ⟨⟨rfl, rfl⟩, rfl, rfl, rfl, rfl, rfl, rfl, Nat.le_refl 250⟩,
    ⟨rfl, rfl⟩, by decide⟩

set_option maxRecDepth 20000 in
/-- R82, R94: the end of closing, and a claim stopped in ASKING. -/
theorem test_final_messages :
    (let t := after (.travelTimeEnd 0) (closes 0 50 (.travelTimeEnd 0) (claimIn .closing 1) fun t => t);
      t.bc.queue = [⟨9, .endMsg 3 7 .done⟩, ⟨9, .holdFree 3 1⟩] ∧ t.cle.list = [] ∧ t.port.ring.length = 1) ∧
      (let t := after (.travelStuck 5) (closes 5 250 (.travelStuck 5) (inflowIn .closing) producing);
        t.bc.queue = [⟨9, .endMsg 3 7 .done⟩] ∧ t.cle.list = [] ∧ t.trs.faultCause = .divert) ∧
      (after (.stopClaim 3) asking).bc.queue = [⟨9, .cancel 3⟩, ⟨9, .holdFree 3 1⟩] := by decide

/-- Listening, at the boundary that enters JOINED, or HOLDING where SUPPLY-LOW is asserted; the third markless one. -/
def entering (low : Bool) : State :=
  { listening (fun b => { b with listenCount := 1, markless := 2 }) with pins := ⟨false, low⟩ }

theorem small_noGrants (t : Nat) : (small.tankOf t).grants = [] := by
  by_cases h : t < 2
  · revert t; decide
  · unfold State.tankOf look
    rw [List.getD_eq_default _ _ (by simp; omega)]
    rfl

theorem small_noHolder (i : Nat) : (small.segOf i).holder = none := by
  by_cases h : i < 4
  · revert i; decide
  · unfold State.segOf look
    rw [List.getD_eq_default _ _ (by simp; omega)]
    rfl

theorem listening_lawEleven (f : BusCtl → BusCtl) : (listening f).lawEleven :=
  ⟨fun _ => ⟨⟨rfl, small_noGrants, rfl, rfl, small_noHolder, small_safe⟩, .inl rfl⟩, fun a _ => small_safe a, fun _ => rfl⟩

set_option maxRecDepth 20000 in
/-- The takeover test in JOINED and at the entry to JOINED, and none where it leads to HOLDING or in HOLDING; a ring with place. -/
theorem test_more_Takeover :
    (small.testsTakeover ∧ (entering false).ready ∧ (entering false).hearing = true ∧ (entering false).graceEnds 104 = false ∧
        (entering false).joinsNow ∧ (entering false).testsTakeover ∧ 2 ≤ (entering false).bc.markless ∧ (entering false).cle.list = [] ∧
        ∀ a, a < 25 → a < 5 → ((entering false).rosterOf a).presence ≠ .present) ∧
      ((entering true).joinsNow ∧ ¬(entering true).testsTakeover ∧ ¬(withState .holding).testsTakeover) ∧
      (∀ n, n < 32 → (ringed n).port.ring.length + 0 < 32) ∧ (heardAll small).allHeard := by
  refine ⟨⟨⟨rfl, .inl rfl⟩, ⟨rfl, rfl⟩, rfl, rfl, ?_, ⟨rfl, .inr ⟨?_, rfl⟩⟩, by decide, rfl, by decide⟩, ⟨?_, ?_, ?_⟩, by decide, heardAll_allHeard _⟩
  · exact ⟨rfl, by decide, rfl, rfl⟩
  · exact ⟨rfl, by decide, rfl, rfl⟩
  · exact ⟨rfl, by decide, rfl, rfl⟩
  · rintro ⟨_, h | h⟩
    · cases h
    · cases h.2
  · rintro ⟨_, h | h⟩
    · cases h
    · cases h.1.1

set_option maxRecDepth 20000 in
/-- R16, R17: the flag is taken at the entry to JOINED with one BUS record, and not at the entry to HOLDING. -/
theorem test_takeover_at_join :
    (let t := after (.localRoundTimer true) (entering false); t.bc.busState = .joined ∧ t.bc.markHolder = true ∧
        t.port.ring = [⟨.bus .takeover, 41, false⟩]) ∧
      (let t := after (.localRoundTimer true) (entering true); t.bc.busState = .holding ∧ t.bc.markHolder = false) ∧
      (let t := after (.validMark (encMark 99 9) 100 true) (entering false); t.bc.markHolder = true ∧
        t.port.ring = [⟨.bus .takeover, 99, false⟩]) := by decide

def talkingFrame : StationFrame := { peerFrame with messages := [⟨5, .claim 1 .draw 0 2 100⟩, ⟨6, .cancel 1⟩, ⟨5, .cancel 1⟩] }

set_option maxRecDepth 20000 in
/-- A frame with messages to this station and to another; a peer that joins; LISTEN under Law 11. -/
theorem test_more_StationFrameIsTaken :
    (readFrame (encFrame talkingFrame) = some talkingFrame ∧
        (talkingFrame.messages.filter fun m => m.dest = small.ident.address).length = 2 ∧ small.serving = true ∧
        (listening fun b => b).serving = false ∧ (listening fun b => b).hearing = true) ∧
      ((small.rosterOf 9).presence ≠ .absent ∧ (small.rosterOf 8).presence = .absent ∧ (withState .silent).bc.busState = .silent) ∧
      (listening fun b => b).lawEleven ∧
      ((after (.stationFrameReceived (encFrame talkingFrame) 36 39) small).bc.queue = [⟨9, .grant 1 100⟩] ∧
        ((after (.stationFrameReceived (encFrame talkingFrame) 36 39) small).tankOf 0).grants = []) :=
  ⟨by decide, by decide, listening_lawEleven _, by decide⟩

/-- Memory entries of the sender and of another, shown FLOWING and not, with the timer running and at 0. -/
def memoryOf9 : State :=
  { queued 15 with tkm := { Tanks.initial with
      memory := [⟨⟨9, 3, 1⟩, 0, 0⟩, ⟨⟨9, 2, 1⟩, 0, 0⟩, ⟨⟨9, 3, 1⟩, 0, 3⟩, ⟨⟨9, 3, 2⟩, 0, 0⟩, ⟨⟨9, 3, 1⟩, 0, 0⟩] } }

set_option maxRecDepth 20000 in
/-- R119: one place of the queue is free, and the older of two due entries has it. -/
theorem test_memory_after :
    (memoryOf9.memoryAfter 9 3 (claimRecord (.flowing 0) 0).claims 1 memoryOf9.tkm.memory =
        [⟨⟨9, 3, 1⟩, 0, 5⟩, ⟨⟨9, 2, 1⟩, 0, 0⟩, ⟨⟨9, 3, 1⟩, 0, 3⟩, ⟨⟨9, 3, 1⟩, 0, 0⟩]) ∧
      (after (.statusRecord 9 3 41 (claimRecord (.flowing 0) 0)) memoryOf9).tkm.memory =
        memoryOf9.memoryAfter 9 3 (claimRecord (.flowing 0) 0).claims 1 memoryOf9.tkm.memory := by decide

set_option maxRecDepth 20000 in
/-- The records' hypotheses: losses, readings with and without a change of window, contacts, and the train. -/
theorem test_more_Records :
    ((∀ b, b < 25 → b < 24 → b ∈ (missing .stale 2 []).bc.heard ∨ ((missing .stale 2 []).rosterOf b).presence ≠ .stale ∨
          ((missing .stale 2 []).rosterOf b).missed < 2) ∧ (missing .stale 2 []).serving = true ∧ (missing .stale 2 []).cle.list = []) ∧
      ((listening fun b => { b with listenCount := 2 }).bc.listenCount ≠ 1 ∧ (listening fun b => { b with listenCount := 2 }).bc.busState = .listen) ∧
      (windowAfter .inside 300 800 20 500 = .inside ∧ windowAfter .inside 300 800 20 801 = .above ∧
        volumeOf [(100, 0), (4000, 1000)] 2050 = 500) ∧
      (windowAfter .below 200 800 50 (qualityOf 100) = .below ∧ windowAfter .below 200 800 50 (qualityOf 4000) = .above) ∧
      ((overflowing.contactSetup 24).role ≠ .none ∧
        (debounce (true != (overflowing.contactSetup 24).inverted) (overflowing.contact 24)).2 = true ∧
        (debounce (false != (overflowing.contactSetup 24).inverted) (overflowing.contact 24)).2 = false ∧
        overflowing.port.ring.length < 32) ∧
      ((withTrain producing).flowingOn .divert = false ∧ (inflowFlows producing).flowingOn .divert = true) ∧
      (let s := withAct 4 ⟨.drive, .opened, 0⟩ (qualityIs ⟨true, 0, 0, false, 100, .below⟩ producing);
        s.highpressOn = true ∧ s.mch.quality.window ≠ .initial ∧ stoppable s.trs.state = true ∧ s.bc.busState = .joined) := by decide

/-- R55: a reading that changes the window makes one WINDOW record, and one that does not makes none. -/
theorem test_window_records :
    (after (.levelReadingComplete 0) (withDue (.levelReading 0) (levelIs ⟨true, 4095, 1, false, 600, .inside⟩))).port.ring =
        [⟨.window 0 .inside .above 1000 .reading (some 0), 40, false⟩] ∧
      (after (.levelReadingComplete 0) (withDue (.levelReading 0) (levelIs ⟨true, 2050, 1, false, 600, .inside⟩))).port.ring = [] := by
  decide

/-- R145: a stop whose flush claim is made leaves one TRAIN record. -/
theorem test_train_record :
    (after .trainStop (withTrain fun t => { t with state := .producing })).port.ring =
      [⟨.train .producing .stopping .none .none .command ⟨0, 0⟩ true, 40, false⟩] := by decide

/-- The order of Table 11-3 has an end that is reached, and its first row fails at its boundary. -/
theorem test_more_RunStarts :
    runOrder.length = 53 ∧ runOrder[0]? = some ⟨.badAddress, 0, 0⟩ ∧ runOrder[52]? = some ⟨.badPath, 6, 0⟩ ∧
      ({ runnable with ident := ⟨25, 1, false, false⟩ } : State).failsTest ⟨.badAddress, 0, 0⟩ ∧
      ¬ runnable.failsTest ⟨.badAddress, 0, 0⟩ :=
  ⟨rfl, rfl, rfl, Or.inr (by decide), (by rintro (h | h) <;> revert h <;> decide)⟩

end Sys2Proof.Tests
end

section

namespace Sys2Proof.Machine

/-! ## The laws every step keeps -/

/-- Every command answers a next state, and a step on an empty queue too. -/
theorem exec_next (c : Instr) (s : State) : ∃ t, exec c s = .next t := by
  cases c <;> exact ⟨_, rfl⟩

theorem step_cons {c : Instr} {rest : List Instr} {s : State} (h : s.pending = c :: rest) :
    step s = exec c (s.setPending rest) := by
  unfold step
  rw [h]

theorem step_nil {s : State} (h : s.pending = []) : step s = .next (idle s) := by
  unfold step
  rw [h]

/-- A property of the queue of commands' rest that every command and every idle millisecond keep, every step keeps. -/
theorem step_keeps {P : State → Prop} (pending : ∀ {s} l, P s → P (s.setPending l))
    (command : ∀ (c : Instr) (s t : State), exec c s = .next t → P s → P t) (wait : ∀ {s}, P s → P (idle s))
    {s t : State} (h : P s) (e : step s = .next t) : P t := by
  cases p : s.pending with
  | nil =>
    rw [step_nil p] at e
    cases e
    exact wait h
  | cons c rest =>
    rw [step_cons p] at e
    exact command c _ t e (pending rest h)

/-- A `Plain` property that speaks neither of the setup nor of identity and pins is kept by every command, where the power-on values have it. -/
theorem Plain.command {P : State → Prop} (k : Plain P) (setup : ∀ {s} x, P s → P (s.setSetup x))
    (ident : ∀ {s} x, P s → P (s.setIdent x))
    (cold : ∀ i p l, P { State.reset with ident := i, pins := p, pending := l })
    (c : Instr) (s t : State) (e : Sys2Proof.Machine.exec c s = .next t) (h : P s) : P t := by
  by_cases b : ∀ x, c ≠ .powerOn x ∧ c ≠ .coldReset ∧ c ≠ .resetRise x
  · obtain ⟨u, eu, hu⟩ := k.execAny setup c h (fun x => (b x).1) (b 0).2.1 (fun x => (b x).2.2)
    rw [eu] at e
    cases e
    exact hu
  · cases c
    case powerOn straps =>
      cases e
      exact cold _ _ _
    case coldReset =>
      cases e
      unfold goCold
      split
      · exact cold _ _ _
      · exact h
    case resetRise straps =>
      cases e
      unfold resetRises
      dsimp only
      repeat' split
      · exact ident _ (ident _ h)
      · exact ident _ h
      · exact h
    all_goals exact absurd (fun x => ⟨nofun, nofun, nofun⟩) b

/-- The bounds of the lists (Law 10). -/
theorem bounded_plain : Plain (fun s => s.bounded = true) where
  works w h := w.bounds h
  due _ h := h
  fsc _ h := h
  ila _ h := h
  pls _ h := h
  pins _ h := h
  bc x _ q _ h := by
    rw [bounded_iff] at h ⊢
    exact ⟨q.length_le.trans h.1, h.2⟩
  port x q h := by
    rw [bounded_iff] at h ⊢
    exact ⟨h.1, q.length_le.trans h.2.1, h.2.2⟩
  roster _ h := h
  nwt _ h := h
  busState _ h := h
  warm h := h
  hold _ _ h := h

/-- The order of the wait queues. -/
theorem waitsOrdered_plain : Plain State.waitsOrdered where
  works w h := w.order h
  due _ h := h
  fsc _ h := h
  ila _ h := h
  pls _ h := h
  pins _ h := h
  bc _ _ _ _ h := h
  port _ _ h := h
  roster _ h := h
  nwt _ h := h
  busState _ h := h
  warm h := h
  hold _ _ h := h

theorem reset_bounded : State.reset.bounded = true := by decide

theorem reset_waitsOrdered : State.reset.waitsOrdered := ⟨List.Pairwise.nil, List.Pairwise.nil⟩

/-- Settles O4: both properties are `Plain`, so that every command and every idle millisecond keeps them. -/
theorem boundsAreKept : Obligations.BoundsAreKept :=
  ⟨fun _ _ h e => step_keeps (P := fun s => s.bounded = true) (fun _ h => h)
      (bounded_plain.command (fun _ h => h) (fun _ h => h) fun _ _ _ => reset_bounded) bounded_plain.idle h e,
    fun _ _ h e => step_keeps (P := State.waitsOrdered) (fun _ h => h)
      (waitsOrdered_plain.command (fun _ h => h) (fun _ h => h) fun _ _ _ => reset_waitsOrdered) waitsOrdered_plain.idle h e⟩

end Sys2Proof.Machine
end

section

namespace Sys2Proof.Machine

/-! ## The step and its start -/

/-- A millisecond outside GRACE moves the clock and nothing else. -/
theorem passSupply_normal {s : State} (n : s.port.phase = .normal) (ms : Nat) : passSupply ms s = s := by
  unfold passSupply
  rw [if_neg (by simp [n])]

theorem setBc_clock_same {s : State} {o : Option Nat} (h : s.bc.clock = o) : s.setBc { s.bc with clock := o } = s := by
  subst h
  rfl

theorem tickMs_normal {s : State} (n : s.port.phase = .normal) :
    tickMs s = s.setBc { s.bc with clock := s.bc.clock.map fun c => if c < 103 then c + 1 else c } := by
  unfold tickMs
  cases h : s.bc.clock with
  | none =>
    rw [Option.map_none, setBc_clock_same h]
    exact passSupply_normal n 1
  | some c =>
    rw [Option.map_some]
    dsimp only
    split
    · rw [timeTo_normal h n, Nat.max_eq_right (Nat.le_succ c)]
    · rw [setBc_clock_same h]
      exact passSupply_normal n 1

theorem idle_ready {s : State} (h : s.ready) : idle s = tickMs s := by
  unfold idle State.held
  rw [h.1, settle_none h.2]
  rfl

/-- Settles O2: every arm of `exec` answers a next state, and an idle millisecond moves the clock. -/
theorem stepsGoOn : Obligations.StepsGoOn := by
  refine ⟨fun s => ?_, fun s h p n => ?_⟩
  · cases p : s.pending with
    | nil => exact ⟨_, step_nil p⟩
    | cons c rest => rw [step_cons p]; exact exec_next c _
  · rw [step_nil p, idle_ready h, tickMs_normal n]
    cases k : s.bc.clock with
    | none => simp [State.setBc]
    | some c => by_cases l : c < 103 <;> simp [State.setBc, l]

theorem reset_rosterSound : State.reset.rosterSound :=
  rosterSound_empty rfl rfl rfl (by rintro (h | h) <;> cases h) (fun h => by cases h)

theorem reset_lawEleven : State.reset.lawEleven :=
  (lawEleven_iff _).2 (.inr (reset_hush rfl rfl rfl rfl rfl rfl))

/-- Settles O3. -/
theorem resetIsSound : Obligations.ResetIsSound :=
  ⟨reset_bounded, reset_rosterSound, reset_lawEleven, ⟨by decide, by decide, by decide⟩, reset_waitsOrdered⟩

/-! ## Transmit queue, report ring and ATTN -/

theorem offer_joins {s : State} (m : Message) (v : s.serving = true) (r : s.bc.queue.length < 16) :
    offer m s = (s.setBc { s.bc with queue := s.bc.queue ++ [m] }, true) := by
  unfold offer
  rw [if_pos (by simp [v, r])]

theorem offer_refused {s : State} (m : Message) (h : s.serving = false ∨ 16 ≤ s.bc.queue.length) : offer m s = (s, false) := by
  unfold offer
  rw [if_neg]
  rcases h with h | h
  · simp [h]
  · simp; intro; omega

/-- The loss mark falls on the newest record. -/
theorem markLoss_append (front : List Report) (last : Report) :
    markLoss (front ++ [last]) = front ++ [{ last with loss := true }] := by
  induction front with
  | nil => rfl
  | cons r front ih =>
    cases front with
    | nil => rfl
    | cons q front => simp only [List.cons_append, markLoss] at ih ⊢; rw [ih]

theorem report_joins {s : State} (b : ReportBody) (h : s.port.ring.length < 32) :
    report b s = s.setPort { s.port with ring := s.port.ring ++ [⟨b, s.bc.round, false⟩] } := by
  unfold report
  rw [if_pos h]

theorem report_full {s : State} (b : ReportBody) (h : 32 ≤ s.port.ring.length) :
    report b s = s.setPort { s.port with ring := markLoss s.port.ring } := by
  unfold report
  rw [if_neg (by omega)]

theorem attn_iff (s : State) : s.attn = true ↔ s.ident.resetLow = false ∧ s.bc.busState ≠ .dormant ∧
    ∃ r ∈ s.port.ring, s.port.mask.getLsbD (reportKind r.body - 1) = true := by
  simp [State.attn, and_assoc]

/-- Settles O23. -/
theorem queueAndRing : Obligations.QueueAndRing := by
  refine ⟨fun m s => ⟨offer_joins m, offer_refused m⟩, fun b s => ⟨report_joins b, fun front last e f => ?_⟩, attn_iff,
    fun _ _ _ _ _ => rfl, fun _ _ _ _ _ _ => rfl, fun _ _ => rfl, fun _ _ _ _ _ _ _ => rfl, fun _ _ => rfl, fun _ _ => rfl,
    fun _ => rfl, fun _ _ _ _ => rfl⟩
  rw [report_full b f, e, markLoss_append]
  rfl

end Sys2Proof.Machine
end

section

namespace Sys2Proof.Machine

/-! ## Frames read back -/

theorem validAddr_iff (a : Nat) : validAddr a = true ↔ 1 ≤ a ∧ a ≤ 24 := by
  simp [validAddr]

theorem inByte_of_validAddr {a : Nat} (h : validAddr a = true) : inByte a = true := by
  have := (validAddr_iff a).1 h
  unfold inByte
  simp
  omega

theorem readMark_encMark (r : Word) {a : Nat} (h : validAddr a = true) : readMark (encMark r a) = some (r, a) := by
  have n : (byteOf a).toNat = a := byteOf_toNat (inByte_of_validAddr h)
  have ty : byteOf 1 = 1 := by decide
  simp [encMark, readMark, b1, bw, n, h, wordOf_bytes, ty]

/-- The flag byte of a station frame carries LEAVING in bit 0. -/
theorem leaving_bit (b : Bool) : (byteOf b.toNat).getLsbD 0 = b := by cases b <;> decide

theorem decFields_encBody {f : StationFrame} (h : f.wf = true) (l : List Byte) :
    decFields (encBody f ++ l) = some (f, l) := by
  simp only [StationFrame.wf, Bool.and_eq_true, decide_eq_true_eq] at h
  obtain ⟨⟨⟨⟨v, i⟩, r⟩, n⟩, m⟩ := h
  have ty : ∀ l, r1 (b1 2 ++ l) = some (2, l) := r1_b1 (by decide)
  have flag : ∀ l, rByte (b1 f.leaving.toNat ++ l) = some (byteOf f.leaving.toNat, l) := fun _ => rfl
  have messages := rList_encList (limit := 8) (by omega) (fun a k l => decMessage_encMessage (m := a) k l) f.messages n m
  simp only [decFields, encBody, List.append_assoc, ty, r1_b1 (inByte_of_validAddr v), r1_b1 i, rw_bw, flag, leaving_bit,
    decRecord_encRecord r, messages, Option.bind_eq_bind, Option.bind_some, if_true]

theorem readFrame_encFrame {f : StationFrame} (h : f.wf = true) : readFrame (encFrame f) = some f := by
  have v : validAddr f.source = true := by
    simp only [StationFrame.wf, Bool.and_eq_true] at h
    exact h.1.1.1.1
  have body : (encFrame f).take ((encFrame f).length - 2) = encBody f := by simp [encFrame, bw]
  unfold readFrame
  rw [body]
  rw [encFrame, decFields_encBody h]
  simp [bw, v, wordOf_bytes]

/-- Settles O60. -/
theorem framesReadBack : Obligations.FramesReadBack :=
  ⟨fun r a h k => readMark_encMark r ((validAddr_iff a).2 ⟨h, k⟩), fun _ => readFrame_encFrame⟩

end Sys2Proof.Machine
end

section

namespace Sys2Proof.Machine

/-! ## Power and RESET -/

/-- While RESET is low no command but those of the board does anything (R198). -/
theorem exec_held {c : Instr} {s : State} (h : s.ident.resetLow = true) (b : ofBoard c = false) : exec c s = .next s := by
  cases c
  case powerOn | resetRise | coldReset | supplyLowAsserted | supplyLowReleased => simp [ofBoard] at b
  case ownSlotStart =>
    have k : s.held = true := h
    simp [exec, execOwnSlotStart, k, act_held h]
  case holdFree =>
    have k : s.held = true := h
    simp only [exec, execHoldFree, k, act_held h, if_true]
    split <;> rfl
  all_goals first
    | exact congrArg Host.Outcome.next (act_held h _)
    | exact congrArg Host.Outcome.next (ownEvent_held h _)

/-- Settles O9. -/
theorem powerAndReset : Obligations.PowerAndReset := by
  refine ⟨fun _ _ => rfl, ⟨fun s h k => ?_, fun straps s h => ?_, fun straps s h => ⟨?_, ?_⟩⟩,
    fun c s h => ⟨exec_held h, fun first e => ?_, fun e => ?_⟩⟩
  · simp [exec, execColdReset, goCold, coldReset, State.setIdent, h, k]
  · cases k : s.ident.cold <;> simp [exec, execResetRise, resetRises, sampleStraps, State.setIdent, h, k]
  · simp [exec, execResetRise, resetRises, h]
  · simp [exec, execColdReset, goCold, h]
  · subst e
    exact congrArg Host.Outcome.next (act_held (s := supplyPin true s) h _)
  · subst e
    exact congrArg (fun t => Host.Outcome.next (supplyPin false t)) (act_held h _)

end Sys2Proof.Machine
end

section

namespace Sys2Proof.Machine

/-! ## Actuators sent to safe while nothing is held (R75, R76) -/

/-- No claim in the list, and the train STOPPED: notices then concern the segments only. -/
def State.unclaimed (s : State) : Prop := s.cle.list = [] ∧ s.trs.state = .stopped

/-- Nothing that a *travel done* could concern: no claim, no fault of a segment, the train STOPPED. -/
def State.atRest (s : State) : Prop := s.unclaimed ∧ s.sga = Segments.initial

/-- The actuator is commanded safe, and stands closed or travels there. -/
def State.safeAt (s : State) (a : Nat) : Prop :=
  (s.actOf a).command = .safe ∧ ((s.actOf a).travel = .closed ∨ (s.actOf a).travel = .closing)

/-- An entry that a table does not have reads as the default. -/
theorem look_beyond {α : Type} {n : Nat} (v : Vector α n) (d : α) {i : Nat} (h : n ≤ i) : look v d i = d := by
  unfold look
  simp [List.getD, h]

theorem actSetup_lt {s : State} {a : Nat} (h : (s.actSetup a).isSome = true) : a < 12 := by
  by_contra k
  rw [State.actSetup, look_beyond _ _ (by omega)] at h
  cases h

theorem actOf_putAct_same {s : State} {a : Nat} (h : (s.actSetup a).isSome = true) (x : Actuator) : (s.putAct a x).actOf a = x :=
  look_put_same _ (actSetup_lt h) _ _

theorem actOf_putAct_other {s : State} {a b : Nat} (h : a ≠ b) (x : Actuator) : (s.putAct a x).actOf b = s.actOf b :=
  look_put_other _ h _ _

theorem cleNotice_unclaimed {s : State} (h : s.cle.list = []) (n : Notice) : cleNotice n s = s := by
  unfold cleNotice
  rw [h]
  rfl

theorem tryStopped_other {s : State} (h : s.trs.state ≠ .stopping) : tryStopped s = s := by
  unfold tryStopped
  rw [if_neg (by simp [h])]

/-- A *travel done* of a pump or of DIVERT at a train that is not STOPPING. -/
theorem trsNotice_done {s : State} (h : s.trs.state ≠ .stopping) {n : Notice} {r : Travel} (k : n.kind = .travelDone r) :
    trsNotice n s = s := by
  unfold trsNotice
  rw [k]
  split <;> simp_all [tryStopped_other]

/-- A *travel done* with no claim and the train STOPPED concerns a segment or nothing. -/
theorem dispatch_done {s : State} (h : s.unclaimed) {n : Notice} {r : Travel} (k : n.kind = .travelDone r) :
    dispatch s n = s ∨ ∃ i, dispatch s n = segNotice i (.travelDone r) s := by
  have c : cleNotice n s = s := cleNotice_unclaimed h.1 n
  have t : trsNotice n s = s := trsNotice_done (by simp [h.2]) k
  unfold dispatch
  split
  · exact .inl c
  · exact .inl c
  · exact .inl c
  · exact .inr ⟨_, by rw [k]⟩
  · left
    unfold divertNotice
    rw [c, t, c, ite_self]
  · exact .inl t

theorem segNotice_free {s : State} {i : Nat} (h : (s.segOf i).state = .free) (r : Travel) : segNotice i (.travelDone r) s = s := by
  unfold segNotice
  rw [h]

theorem segOf_initial {s : State} (h : s.sga = Segments.initial) (i : Nat) : s.segOf i = Segment.initial := by
  unfold State.segOf
  rw [h]
  exact look_replicate _ _ _

theorem notify_rest {x : State × List Notice} (h : x.1.atRest) (k : ∀ n ∈ x.2, ∃ r, n.kind = .travelDone r) :
    notify x = x.1 := by
  obtain ⟨s, l⟩ := x
  have one : ∀ n ∈ l, dispatch s n = s := by
    intro n m
    obtain ⟨r, e⟩ := k n m
    rcases dispatch_done h.1 e with d | ⟨i, d⟩
    · exact d
    · rw [d, segNotice_free (by rw [segOf_initial h.2]; rfl)]
  unfold notify
  dsimp only at one ⊢
  clear h k
  induction l with
  | nil => rfl
  | cons n l ih =>
    rw [List.foldl_cons, one n List.mem_cons_self]
    exact ih fun m hm => one m (List.mem_cons_of_mem _ hm)

theorem startTravel_putAct (a : Nat) (u : ActuatorSetup) (o : Bool) (s : State) :
    ∃ x, (startTravel a u o s).1 = s.putAct a x ∧ x.command = (s.actOf a).command ∧
      (x.travel = (if o then .opening else .closing) ∨ x.travel = reached o) ∧
      ∀ n ∈ (startTravel a u o s).2, ∃ r, n.kind = .travelDone r := by
  unfold startTravel
  dsimp only
  split
  · exact ⟨_, rfl, rfl, .inr rfl, by simp⟩
  · exact ⟨_, rfl, rfl, .inl rfl, by simp⟩

/-- From `s` to `t` only the actuators moved: the actuator `a`, if it is set up, to safe, the others not at all. -/
def SafeStep (s : State) (a : Nat) (t : State) : Prop :=
  t = s.setAct t.act ∧ ((s.actSetup a).isSome = true → t.safeAt a) ∧ ∀ b, a ≠ b → t.actOf b = s.actOf b

theorem safeAfresh_rest {s : State} (h : s.atRest) (a : Nat) : SafeStep s a (notify (safeAfresh a s)) := by
  unfold safeAfresh
  cases e : s.actSetup a with
  | none => exact ⟨rfl, by simp [e], fun _ _ => rfl⟩
  | some u =>
    have k : (s.actSetup a).isSome = true := by rw [e]; rfl
    dsimp only
    obtain ⟨x, p, c, t, n⟩ := startTravel_putAct a u false (s.putAct a { s.actOf a with command := .safe })
    rw [notify_rest (by rw [p]; exact h) n, p]
    rw [actOf_putAct_same k] at c
    refine ⟨rfl, fun _ => ?_, fun b d => ?_⟩
    · unfold State.safeAt
      rw [actOf_putAct_same (s := s.putAct a _) k]
      exact ⟨c, t.symm⟩
    · rw [actOf_putAct_other d, actOf_putAct_other d]

/-- Every actuator of a list sent to safe. -/
theorem SafeStep.fold {f : State → Nat → State} {s : State} (q : s.atRest)
    (hf : ∀ s a, s.atRest → SafeStep s a (f s a)) (l : List Nat) :
    l.foldl f s = s.setAct (l.foldl f s).act ∧ (∀ a, a ∈ l → (s.actSetup a).isSome = true → (l.foldl f s).safeAt a) ∧
      ∀ a, (s.actSetup a).isSome = true → s.safeAt a → (l.foldl f s).safeAt a := by
  induction l generalizing s with
  | nil => exact ⟨rfl, by simp, fun _ _ h => h⟩
  | cons a l ih =>
    obtain ⟨e, m, o⟩ := hf s a q
    have q' : (f s a).atRest := by rw [e]; exact q
    have u : ∀ b, (f s a).actSetup b = s.actSetup b := fun b => by rw [e]; rfl
    obtain ⟨e', m', o'⟩ := ih q'
    have keep : ∀ b, (s.actSetup b).isSome = true → s.safeAt b → (l.foldl f (f s a)).safeAt b := by
      intro b k h
      refine o' b (by rw [u]; exact k) ?_
      by_cases d : a = b
      · subst d; exact m k
      · unfold State.safeAt; rw [o b d]; exact h
    simp only [List.foldl_cons]
    refine ⟨?_, fun b hb k => ?_, keep⟩
    · rw [e', e]; rfl
    · rcases List.mem_cons.mp hb with rfl | hb
      · exact o' b (by rw [u]; exact k) (m k)
      · exact m' b hb (by rw [u]; exact k)

/-- With nothing held, the actuators' travel to safe starts afresh and nothing else changes (R75). -/
theorem restartActuators_rest {s : State} (h : s.atRest) :
    restartActuators s = s.setAct (restartActuators s).act ∧ (restartActuators s).safeActuators := by
  obtain ⟨e, m, -⟩ := SafeStep.fold (f := fun s a => notify (safeAfresh a s)) h (fun s a q => safeAfresh_rest q a) (List.range 12)
  have r : restartActuators s = (List.range 12).foldl (fun s a => notify (safeAfresh a s)) s := rfl
  rw [← r] at e m
  refine ⟨e, fun a k => m a (List.mem_range.mpr (actSetup_lt k)) ?_⟩
  rwa [actSetup_works (restartActuators_works (Works.refl s))] at k

/-! ## Values at reset -/

theorem rosterOf_reset {s : State} (h : s.roster = State.reset.roster) (a : Nat) : s.rosterOf a = RosterEntry.absent := by
  unfold State.rosterOf
  rw [h]
  split
  · rfl
  · exact look_replicate _ _ _

theorem nwtOf_reset {s : State} (h : s.nwt = State.reset.nwt) (a : Nat) : s.nwtOf a = none := by
  unfold State.nwtOf
  rw [h]
  split
  · rfl
  · exact look_replicate _ _ _

theorem cell_reset {s : State} (h : s.ila = State.reset.ila) (n : Nat) : s.cell n = CellHistory.initial := by
  unfold State.cell
  rw [h]
  exact look_replicate _ _ _

/-! ## Warm resets (R14, R197 to R199) -/

/-- A warm reset in every block but the actuators. -/
def State.warmed (s : State) : State :=
  { s with
    ident := { s.ident with incarnation := nextIncarnation s.ident.incarnation }
    bc := s.bc.warm s.setup.locked
    roster := State.reset.roster
    nwt := State.reset.nwt
    mch := Channels.initial
    fsc := Scanner.initial
    cle := { s.cle with list := [] }
    tkm := Tanks.initial
    sga := Segments.initial
    trs := Train.initial s.trs.unflushed
    ila := State.reset.ila
    pls := { s.pls with pending := false }
    port := s.port.warm
    due := [] }

theorem warmReset_eq (s : State) : warmReset s = if s.setup.locked then restartActuators s.warmed else s.warmed := rfl

theorem warmed_atRest (s : State) : s.warmed.atRest := ⟨⟨rfl, rfl⟩, rfl⟩

theorem warmed_warmOf (s : State) (v : Vector Actuator 12) : s.warmOf (s.warmed.setAct v) :=
  ⟨rfl, rfl, rfl, rfl, rfl, rfl, rfl, fun a => rosterOf_reset rfl a, fun a => nwtOf_reset rfl a, rfl, rfl, rfl, rfl, rfl, rfl,
    fun n => cell_reset rfl n, rfl, rfl⟩

/-- A warm reset is a warm-reset state, with the actuators set up sent to safe under a locked setup. -/
theorem warmReset_warmOf (s : State) :
    s.warmOf (warmReset s) ∧ (s.setup.locked = true → (warmReset s).safeActuators) ∧
      (warmReset s).ident = s.warmed.ident := by
  rw [warmReset_eq]
  cases l : s.setup.locked
  · exact ⟨warmed_warmOf s s.act, nofun, rfl⟩
  · obtain ⟨e, m⟩ := restartActuators_rest (warmed_atRest s)
    simp only [if_true]
    refine ⟨by rw [e]; exact warmed_warmOf s _, fun _ => m, by rw [e]; rfl⟩

/-- Settles O10. -/
theorem warmResets : Obligations.WarmResets := by
  refine ⟨fun s h => ?_, fun s h k => ?_⟩
  · obtain ⟨w, m, -⟩ := warmReset_warmOf s
    exact ⟨resetFalls s, congrArg Host.Outcome.next (act_ready h _), w, m, rfl, rfl⟩
  · have e : selRises s = warmReset (s.setPort s.port.idle) := by
      unfold selRises
      rw [k]
      rfl
    obtain ⟨w, m, i⟩ := warmReset_warmOf (s.setPort s.port.idle)
    exact ⟨selRises s, congrArg Host.Outcome.next (act_ready h _), by rw [e]; exact w, by rw [e]; exact m,
      by rw [e, i]; exact h.1⟩

end Sys2Proof.Machine
end

section

namespace Sys2Proof.Machine

/-! ## What a command leaves of the other blocks -/

theorem Works.keepsRest {s t : State} (w : Works s t) : s.keepsRest t :=
  ⟨w.setup, w.ident, w.pins, w.roster, w.nwt, w.fsc, w.ila, w.pls, w.pending, w.bc, w.queue, w.port, w.ring⟩

/-- An event of channels, actuators, claims, automatic fill or the train: its taking is a working operation. -/
def Due.works (e : Due) : Prop := (∀ c, e ≠ .alarmRepeat c) ∧ e ≠ .planExchange ∧ e ≠ .graceExpiry

theorem Due.works_of_claim {e : Due} (h : e.ofClaim = true) : e.works := by
  refine ⟨?_, ?_, ?_⟩
  · rintro c rfl
    simp [ofClaim] at h
  · rintro rfl
    simp [ofClaim] at h
  · rintro rfl
    simp [ofClaim] at h

theorem perform_list_works {l : List Due} (h : ∀ e ∈ l, e.works) (s : State) : Works s (l.foldl perform s) := by
  induction l generalizing s with
  | nil => exact Works.refl s
  | cons e l ih =>
    obtain ⟨a, p, g⟩ := h e List.mem_cons_self
    exact (perform_works (Works.refl s) e a p g).trans (ih (fun x m => h x (List.mem_cons_of_mem _ m)) _)

/-- With an event are taken claims' events before it, and itself. -/
theorem mem_takenWith {e x : Due} {l : List Due} (h : x ∈ takenWith e l) : x = e ∨ x.ofClaim = true := by
  induction l with
  | nil => cases h
  | cons y l ih =>
    unfold takenWith at h
    split at h
    · rename_i k
      exact .inl ((List.mem_singleton.mp h).trans k)
    · split at h
      · rename_i k
        rcases List.mem_cons.mp h with rfl | h
        · exact .inr ((Bool.and_eq_true _ _).mp k).2
        · exact ih h
      · exact ih h

/-- Taking such an event changes what working operations change, and the events due. -/
theorem ownEvent_works {e : Due} (h : e.works) (s : State) : ∃ l, Works (s.setDue l) (ownEvent e s) := by
  unfold ownEvent takeDue
  split
  · exact ⟨s.due, Works.refl _⟩
  · split
    · refine ⟨_, perform_list_works (fun x m => ?_) _⟩
      rcases mem_takenWith m with rfl | k
      · exact h
      · exact Due.works_of_claim k
    · exact ⟨s.due, Works.refl _⟩

theorem ownEvent_keepsRest {e : Due} (h : e.works) (s : State) : s.keepsRest (ownEvent e s) := by
  obtain ⟨l, w⟩ := ownEvent_works h s
  exact w.keepsRest

theorem exec_eventRow {c : Instr} (h : eventRow c = true) : ∃ e : Due, e.works ∧ ∀ s, exec c s = .next (ownEvent e s) := by
  cases c <;> simp only [eventRow, Bool.false_eq_true] at h
  all_goals
    refine ⟨_, ?_, fun _ => rfl⟩
    exact ⟨nofun, nofun, nofun⟩

/-- A message or a meter pulse in a ready state is a working operation. -/
theorem exec_blockRow {c : Instr} (h : blockRow c = true) {s : State} (r : s.ready) :
    ∃ t, exec c s = .next t ∧ Works s t := by
  have message : ∀ src inc b, Works s (act (takeMessage src inc b) s) := fun src inc b => by
    rw [act_ready r]
    exact takeMessage_works (Works.refl s) _ _ _
  cases c
  case holdFree src inc q i =>
    refine ⟨_, rfl, ?_⟩
    split
    · rw [if_neg (by simp [State.held, r.1]), beforeStuck, if_neg (by simp [r.2]), settle_none r.2]
      exact takeMessage_works (Works.refl s) _ _ _
    · exact message _ _ _
  case meterPulse m =>
    refine ⟨_, rfl, ?_⟩
    rw [act_ready r]
    exact takePulse_works (Works.refl s) m
  all_goals first
    | exact ⟨_, rfl, message _ _ _⟩
    | cases h

/-- What a request other than SETUP-WRITE and RUN sets outside the working blocks: PERMIT, the plans and the mask. -/
def State.withRequest (s : State) (permit : Bool) (x : Plans) (m : Byte) : State :=
  { s with pins := { s.pins with permit := permit }, pls := x, port := { s.port with mask := m } }

/-- A request other than SETUP-WRITE and RUN: PERMIT, plans and mask are set, the latter two by their own requests only, and a working
operation follows. -/
theorem answer_works {r : Request} (s : State) (n : ∀ i j c, r ≠ .setupWrite i j c) (m : r ≠ .run) :
    ∃ p x k, Works (s.withRequest p x k) (answer r s).1 ∧ ((∀ i e, r ≠ .planWrite i e) → r ≠ .planSwap → x = s.pls) ∧
      ((∀ b, r ≠ .attnMask b) → k = s.port.mask) := by
  have same : ∀ {u}, Works s u → ∃ p x k, Works (s.withRequest p x k) u ∧
      ((∀ i e, r ≠ .planWrite i e) → r ≠ .planSwap → x = s.pls) ∧ ((∀ b, r ≠ .attnMask b) → k = s.port.mask) :=
    fun w => ⟨s.pins.permit, s.pls, s.port.mask, w, fun _ _ => rfl, fun _ => rfl⟩
  unfold answer
  split
  · unfold doRequest
    cases r
    case setupWrite => exact absurd rfl (n _ _ _)
    case run => exact absurd rfl m
    case draw => exact same (createClaim_works (Works.refl s) _)
    case fill => exact same (createClaim_works (Works.refl s) _)
    case stopClaim =>
      dsimp only [askStop]
      split
      · exact same (endSeq_works (Works.refl s) _ _)
      · exact same (Works.refl s)
    case trainStart p _ =>
      refine ⟨p, s.pls, s.port.mask, ?_, fun _ _ => rfl, fun _ => rfl⟩
      dsimp only [askStart]
      repeat' split
      · exact Works.refl _
      · exact Works.refl _
      · exact startPriming_works (Works.refl _)
      · exact Works.refl _
    case trainStop =>
      dsimp only [askTrainStop]
      split
      · exact same (Works.refl s)
      · exact same (stopTrain_works (Works.refl s) _)
    case trainClear =>
      dsimp only [askClear]
      repeat' split
      · exact same (Works.refl s)
      · exact same (clearTrain_works (Works.refl s))
      · exact same (Works.refl s)
    case planWrite t e _ =>
      dsimp only [askPlanWrite]
      repeat' split
      · exact same (Works.refl s)
      · exact same (Works.refl s)
      · exact ⟨s.pins.permit, _, s.port.mask, Works.refl (writeStandby t e s), fun k => absurd rfl (k _ _), fun _ => rfl⟩
    case planSwap =>
      dsimp only [askSwap]
      repeat' split
      · exact same (Works.refl s)
      · exact same (Works.refl s)
      · exact ⟨s.pins.permit, _, s.port.mask, Works.refl (s.setPls _), fun _ k => absurd rfl k, fun _ => rfl⟩
    case attnMask b _ => exact ⟨s.pins.permit, s.pls, b, Works.refl _, fun _ _ => rfl, fun k => absurd rfl (k _)⟩
    all_goals exact same (Works.refl s)
  · exact same (Works.refl s)

theorem exec_requestRow {c : Instr} {r : Request} (h : requestRow c = some r) {s : State} (k : s.ready) :
    exec c s = .next (takeRequest r s) := by
  cases c <;> first
    | (cases h; exact congrArg Host.Outcome.next (act_ready k _))
    | cases h

/-- Settles O8. -/
theorem otherBlocksStand : Obligations.OtherBlocksStand := by
  refine ⟨fun c s t h r e => ?_, fun c s t h e => ?_, fun c r s t h n m k e => ?_⟩
  · obtain ⟨u, eu, w⟩ := exec_blockRow h r
    rw [eu] at e
    cases e
    exact ⟨w.keepsRest, w.due.trans r.2⟩
  · obtain ⟨d, w, eq⟩ := exec_eventRow h
    rw [eq] at e
    cases e
    exact ownEvent_keepsRest w s
  · rw [exec_requestRow h k] at e
    cases e
    obtain ⟨p, x, b, w, plans, mask⟩ := answer_works s m n
    have port : (answer r s).1.port = { s.port with mask := b, ring := (answer r s).1.port.ring } := w.port
    refine ⟨⟨w.setup, w.ident, rfl, w.roster, w.nwt, w.fsc, w.ila, rfl, w.pending, w.bc, w.queue, rfl, w.ring⟩,
      (congrArg (·.supplyLow) w.pins :), w.due.trans k.2, fun h1 h2 => w.pls.trans (plans h1 h2), fun h1 => ?_,
      (congrArg (·.phase) port :), (congrArg (·.supplyTimer) port :)⟩
    exact (congrArg (·.mask) port :).trans (mask h1)

end Sys2Proof.Machine
end

section

namespace Sys2Proof.Machine

/-! ## DORMANT (R13, R202) -/

/-- One actuator released at the entry to DORMANT. -/
def State.letGo (s : State) (a : Nat) : State := if (s.actSetup a).isSome then s.putAct a ⟨.safe, .closing, 0⟩ else s

theorem letGo_fold (l : List Nat) (s : State) : ∃ v, l.foldl State.letGo s = s.setAct v ∧
    ∀ a, (s.actSetup a).isSome = true → a ∈ l ∨ s.actOf a = ⟨.safe, .closing, 0⟩ → look v Actuator.initial a = ⟨.safe, .closing, 0⟩ := by
  induction l generalizing s with
  | nil => exact ⟨s.act, rfl, fun a _ h => h.resolve_left (by simp)⟩
  | cons b l ih =>
    obtain ⟨v, e, m⟩ := ih (s.letGo b)
    have set : s.letGo b = s.setAct (s.letGo b).act := by unfold State.letGo; split <;> rfl
    have gone : ∀ a, (s.actSetup a).isSome = true → a = b ∨ s.actOf a = ⟨.safe, .closing, 0⟩ →
        (s.letGo b).actOf a = ⟨.safe, .closing, 0⟩ := by
      intro a k h
      unfold State.letGo
      by_cases d : b = a
      · subst d
        rw [if_pos k, actOf_putAct_same k]
      · split
        · rw [actOf_putAct_other d]
          exact h.resolve_left (Ne.symm d)
        · exact h.resolve_left (Ne.symm d)
    refine ⟨v, by rw [List.foldl_cons, e, set]; rfl, fun a k h => m a (by rw [set]; exact k) ?_⟩
    rcases h with h | h
    · exact (List.mem_cons.mp h).elim (fun h => .inr (gone a k (.inl h))) .inl
    · exact .inr (gone a k (.inr h))

/-- The actuators set up are released at the entry to DORMANT, and nothing else changes (R76). -/
theorem dormantActuators_released (s : State) : ∃ v, dormantActuators s = s.setAct v ∧
    ∀ a, (s.actSetup a).isSome = true → look v Actuator.initial a = ⟨.safe, .closing, 0⟩ := by
  obtain ⟨v, e, m⟩ := letGo_fold (List.range 12) s
  exact ⟨v, e, fun a k => m a k (.inl (List.mem_range.mpr (actSetup_lt k)))⟩

/-- What the entry to DORMANT leaves, with the actuators as given. -/
def State.dozed (s : State) (v : Vector Actuator 12) : State :=
  { s with
    bc := s.bc.dormant
    roster := State.reset.roster
    nwt := State.reset.nwt
    mch := Channels.initial
    fsc := Scanner.initial
    act := v
    cle := { s.cle with list := [] }
    tkm := Tanks.initial
    sga := Segments.initial
    trs := Train.initial s.trs.unflushed
    ila := State.reset.ila
    pls := { s.pls with pending := false }
    port := s.port.emptied
    due := [] }

theorem enterDormant_eq (s : State) : ∃ v, enterDormant s = s.dozed v ∧
    ∀ a, (s.actSetup a).isSome = true → look v Actuator.initial a = ⟨.safe, .closing, 0⟩ := by
  unfold enterDormant
  simp only [forgetPeers, State.setBc, State.setRoster, State.setNwt, State.setClaims, State.setCle, State.setTkm, State.setSga,
    State.setTrs, State.setMch]
  generalize h : State.mk _ _ _ _ _ _ _ _ _ _ _ _ _ _ _ _ _ _ = u
  obtain ⟨v, e, m⟩ := dormantActuators_released u
  rw [e]
  subst h
  exact ⟨v, rfl, m⟩

/-- The entry to DORMANT is DORMANT's state (R202). -/
theorem enterDormant_dormantOf (s : State) : s.dormantOf (enterDormant s) := by
  obtain ⟨v, e, m⟩ := enterDormant_eq s
  rw [e]
  exact ⟨rfl, rfl, rfl, rfl, rfl, rfl, rfl, rfl, rfl, rfl, fun a => rosterOf_reset rfl a, fun a => nwtOf_reset rfl a, rfl, rfl, rfl,
    rfl, rfl, rfl, fun n => cell_reset rfl n, rfl, rfl, rfl, rfl, rfl, m, rfl, rfl⟩

/-- DORMANT's state does not depend on the time that passed before it. -/
theorem OnlyTime.dormantOf {s u t : State} (h : OnlyTime s u) (d : u.dormantOf t) : s.dormantOf t := by
  rw [h.same] at d
  unfold State.dormantOf State.actSetup at d ⊢
  exact d

/-! ## SUPPLY-LOW released, and the grace's end (R201) -/

theorem failing_iff (s : State) :
    s.failing = true ↔ s.bc.busState = .holding ∧ s.port.phase = .grace ∧ s.pins.supplyLow = true := by
  simp [State.failing, and_assoc]

theorem graceExpiry_other {s : State} (h : s.failing = false) : graceExpiry s = s := by
  unfold graceExpiry
  rw [if_neg (by simp [h])]

theorem graceExpiry_now {s : State} (h : s.failing = true) (n : s.port.supplyTimer = 2000) (l : s.bc.line = none) :
    graceExpiry s = enterDormant s := by
  unfold graceExpiry
  rw [if_pos (by simp [h, n]), if_neg (by simp [l])]

theorem graceExpiry_waits {s : State} (h : s.failing = true) (n : s.port.supplyTimer = 2000) (l : s.bc.line ≠ none) :
    graceExpiry s = s.setBc { s.bc with dormantNext := true } := by
  unfold graceExpiry
  rw [if_pos (by simp [h, n]), if_pos (by cases k : s.bc.line <;> simp_all)]

theorem restOfGrace_failing {s : State} (h : s.failing = true) : restOfGrace s = s.setPort { s.port with supplyTimer := 2000 } := by
  unfold restOfGrace
  rw [if_pos h]

theorem restOfGrace_other {s : State} (h : s.failing = false) : restOfGrace s = s := by
  unfold restOfGrace
  rw [if_neg (by simp [h])]

/-- Settles O12. -/
theorem supplyReturnsOrFails : Obligations.SupplyReturnsOrFails := by
  have expiry : ∀ s : State, s.ready → exec .supplyGraceExpiry s = .next (graceExpiry (restOfGrace s)) := fun s r =>
    congrArg Host.Outcome.next (act_ready r _)
  have release : ∀ s : State, s.ready → exec .supplyLowReleased s = .next (supplyPin false (supplyReturns s)) := fun s r =>
    congrArg (fun t => Host.Outcome.next (supplyPin false t)) (act_ready r _)
  refine ⟨fun s r b d => ?_, fun s r h => ?_, fun s r b p l n => ?_, fun s r b p l n => ?_, fun s r h => ?_⟩
  · rw [release s r, supplyReturns, if_pos (by simp [b, d])]
    rfl
  · rw [release s r, supplyReturns, if_neg (by rcases h with h | h <;> simp [h])]
    rfl
  · have f : s.failing = true := (failing_iff s).2 ⟨b, p, l⟩
    refine ⟨_, expiry s r, ?_⟩
    rw [restOfGrace_failing f, graceExpiry_now (by exact f) (by rfl) (by exact n)]
    exact OnlyTime.dormantOf ⟨rfl, fun k => by rw [p] at k; cases k⟩ (enterDormant_dormantOf _)
  · have f : s.failing = true := (failing_iff s).2 ⟨b, p, l⟩
    rw [expiry s r, restOfGrace_failing f, graceExpiry_waits (by exact f) (by rfl) (by exact n)]
    rfl
  · have f : s.failing = false := by
      by_contra k
      obtain ⟨h1, h2, h3⟩ := (failing_iff s).1 (by simpa using k)
      simp [h1, h2, h3] at h
    rw [expiry s r, restOfGrace_other f, graceExpiry_other f]

end Sys2Proof.Machine
end

section

namespace Sys2Proof.Machine

/-! ## Operations that leave the claim list -/

@[simp] theorem offer_cle (m : Message) (s : State) : (offer m s).1.cle = s.cle := by
  unfold offer
  split <;> rfl

@[simp] theorem send_cle (d : Nat) (b : MsgBody) (s : State) : (send d b s).cle = s.cle := offer_cle _ s

@[simp] theorem report_cle (b : ReportBody) (s : State) : (report b s).cle = s.cle := by
  unfold report
  split <;> rfl

theorem foldl_cle {α : Type} {f : State → α → State} (h : ∀ s a, (f s a).cle = s.cle) (l : List α) (s : State) :
    (l.foldl f s).cle = s.cle := by
  induction l generalizing s with
  | nil => rfl
  | cons a l ih => exact (ih _).trans (h s a)

@[simp] theorem freeSegs_cle (q : Nat) (l : List SegId) (s : State) : (freeSegs q l s).cle = s.cle :=
  foldl_cle (fun s _ => send_cle _ _ s) l s

@[simp] theorem finalMessages_cle (c : Claim) (s : State) : (finalMessages c s).cle = s.cle := by
  unfold finalMessages
  dsimp only
  repeat' split
  all_goals simp

@[simp] theorem qualityOff_cle (s : State) : (qualityOff s).cle = s.cle := by
  unfold qualityOff
  dsimp only
  split
  · rfl
  · unfold reportQuality
    dsimp only
    split <;> simp

@[simp] theorem stopQuality_cle (u : ActuatorSetup) (s : State) : (stopQuality u s).cle = s.cle := by
  unfold stopQuality
  split <;> simp

@[simp] theorem startTravel_cle (a : Nat) (u : ActuatorSetup) (o : Bool) (s : State) : (startTravel a u o s).1.cle = s.cle := by
  unfold startTravel
  dsimp only
  split <;> rfl

@[simp] theorem putAct_cle (s : State) (a : Nat) (x : Actuator) : (s.putAct a x).cle = s.cle := rfl

@[simp] theorem mapTrs_cle (s : State) (f : Train → Train) : (s.mapTrs f).cle = s.cle := rfl

@[simp] theorem openReq_cle (a : Nat) (s : State) : (openReq a s).1.cle = s.cle := by
  unfold openReq
  dsimp only
  repeat' split
  all_goals simp

@[simp] theorem closeReq_cle (a : Nat) (s : State) : (closeReq a s).1.cle = s.cle := by
  unfold closeReq
  dsimp only
  repeat' split
  all_goals simp

@[simp] theorem openRole_cle (r : Role) (s : State) : (openRole r s).1.cle = s.cle := by
  unfold openRole
  split <;> simp

@[simp] theorem closeRole_cle (r : Role) (s : State) : (closeRole r s).1.cle = s.cle := by
  unfold closeRole
  split <;> simp

@[simp] theorem enterTrain_cle (a : TrainState) (b : DivertCause) (c : FaultCause) (d : StopCause) (s : State) :
    (enterTrain a b c d s).cle = s.cle := report_cle _ _

@[simp] theorem tellTrain_cle (a : TrainState) (s : State) : (tellTrain a s).cle = s.cle := report_cle _ _

@[simp] theorem changeTrain_cle (a : TrainState) (b : DivertCause) (c : FaultCause) (d : StopCause) (s : State) :
    (changeTrain a b c d s).cle = s.cle := rfl

@[simp] theorem tryStopped_cle (s : State) : (tryStopped s).cle = s.cle := by
  unfold tryStopped
  split <;> simp

@[simp] theorem fillOutcome_cle (t : Nat) (e : EndReason) (s : State) : (fillOutcome t e s).cle = s.cle := by
  unfold fillOutcome
  dsimp only
  split <;> rfl

/-- Outside JOINED no claim is created (Table 5-2, row 1). -/
theorem createClaim_other {s : State} (h : s.bc.busState ≠ .joined) (n : NewClaim) : createClaim n s = (s, .no .badState) := by
  unfold createClaim createRefusal
  rw [if_pos h]

theorem askNext_cle (fuel : Nat) {s : State} (h : s.bc.busState ≠ .joined) : (askNext fuel s).cle = s.cle := by
  induction fuel generalizing s with
  | zero => rfl
  | succ fuel ih =>
    unfold askNext
    repeat' split
    · dsimp only
      rw [createClaim_other h]
      dsimp only
      split
      · rfl
      · exact ih (s := nextDest (failOnce s)) h
    · rfl
    · rfl

theorem askFlush_cle (c : StopCause) {s : State} (h : s.bc.busState ≠ .joined) : (askFlush c s).cle = s.cle := by
  unfold askFlush
  split
  · rfl
  · dsimp only
    rw [createClaim_other h]
    rfl
  · rfl

theorem stopRevoked_cle {s : State} (h : s.bc.busState ≠ .joined) : (stopRevoked s).cle = s.cle := by
  unfold stopRevoked stopLast stopFirst
  have j : (closeRole .feed (closeRole .divert (closeRole .highpress (enterTrain .stopping .none .none .revoked s)).1).1).1.bc.busState ≠ .joined := by
    rwa [(closeRole_works (closeRole_works (closeRole_works (enterTrain_works (Works.refl s) _ _ _ _) _) _) _).busState]
  rw [tryStopped_cle, mapTrs_cle, askFlush_cle _ j]
  simp

theorem failedDest_cle (r : EndReason) {s : State} (h : s.bc.busState ≠ .joined) : (failedDest r s).cle = s.cle := by
  unfold failedDest
  dsimp only
  repeat' split
  · rfl
  · rfl
  · exact askNext_cle _ (s := nextDest (failOnce s)) h

theorem inflowEffect_cle (r : EndReason) {s : State} (h : s.bc.busState ≠ .joined) : (inflowEffect r s).cle = s.cle := by
  unfold inflowEffect
  split
  · rfl
  · exact askNext_cle _ (s := s.mapTrs _) h
  · split
    · exact askNext_cle _ (s := s.mapTrs _) h
    · rfl
  · exact failedDest_cle _ h

theorem runningOutcome_cle (r : EndReason) {s : State} (h : s.bc.busState ≠ .joined) : (runningOutcome r s).cle = s.cle := by
  have key : ∀ t, Works s t → t.cle = s.cle → (if stopsTrain r s then stopRevoked t else t).cle = s.cle := by
    intro t w e
    split
    · rw [stopRevoked_cle (by rwa [w.busState]), e]
    · exact e
  unfold runningOutcome
  dsimp only
  by_cases l : leavesProducing r s = true
  · rw [if_pos l]
    refine key _ (tellTrain_works (inflowEffect_works (changeTrain_works (Works.refl s) _ _ _ _) _) _) ?_
    rw [tellTrain_cle, inflowEffect_cle r (by exact h), changeTrain_cle]
  · rw [if_neg l]
    exact key _ (inflowEffect_works (Works.refl s) _) (inflowEffect_cle r h)

theorem inflowOutcome_cle (r : EndReason) {s : State} (h : s.bc.busState ≠ .joined) : (inflowOutcome r s).cle = s.cle := by
  unfold inflowOutcome
  dsimp only
  split
  · rfl
  · exact runningOutcome_cle r (s := s.mapTrs _) h
  · exact runningOutcome_cle r (s := s.mapTrs _) h
  · rfl

@[simp] theorem flushOutcome_cle (r : EndReason) (s : State) : (flushOutcome r s).cle = s.cle := by
  unfold flushOutcome
  dsimp only
  split <;> simp

/-- An outcome makes no new claim outside JOINED, and none where its claim is not the train's. -/
theorem handOutcome_cle {c : Claim} {s : State} (h : s.bc.busState ≠ .joined ∨ c.creator ≠ .train) (r : EndReason) :
    (handOutcome c r s).cle = s.cle := by
  unfold handOutcome
  split
  · rfl
  · simp
  · rfl
  · rename_i e
    have j := h.resolve_right (by simp [e])
    unfold trainOutcome
    repeat' split
    · exact inflowOutcome_cle r j
    · rfl
    · simp
    · rfl
    · rfl

/-! ## Claims found by their sequence -/

theorem claimOf_congr {s t : State} (h : t.cle = s.cle) (q : Nat) : t.claimOf q = s.claimOf q := by
  unfold State.claimOf
  rw [h]

theorem claimOf_sequence {s : State} {q : Nat} {c : Claim} (h : s.claimOf q = some c) : c.sequence = q := by
  simpa using List.find?_some h

theorem claimOf_dropClaim (s : State) (p q : Nat) : (s.dropClaim p).claimOf q = if p = q then none else s.claimOf q := by
  unfold State.claimOf State.dropClaim State.setClaims
  simp only [State.setCle_cle]
  rw [List.find?_filter]
  split
  · rename_i e
    subst e
    simp
  · rename_i e
    congr 1
    funext c
    by_cases k : c.sequence = q <;> simp [k, Ne.symm e]

theorem claimOf_putClaim (s : State) (c : Claim) (q : Nat) :
    (s.putClaim c).claimOf q = if c.sequence = q then (s.claimOf q).map fun _ => c else s.claimOf q := by
  unfold State.claimOf State.putClaim State.setClaims
  simp only [State.setCle_cle]
  induction s.cle.list with
  | nil => simp
  | cons x l ih =>
    rw [List.map_cons, List.find?_cons, List.find?_cons, ih]
    by_cases k : c.sequence = q
    · by_cases d : x.sequence = c.sequence
      · simp [d, k]
      · have e : (x.sequence == q) = false := by simpa [← k] using d
        rw [if_neg d, e]
    · have b : (c.sequence == q) = false := by simpa using k
      by_cases d : x.sequence = c.sequence
      · simp [d, k, b]
      · simp [d, k]

/-- The claim that a sequence finds, if it finds one, is in CLOSING. -/
def State.closingAt (s : State) (q : Nat) : Prop := ∀ c, s.claimOf q = some c → c.state = .closing

/-- Outcomes make no new claim: the station is not JOINED, or no claim is the train's. -/
def State.makesNone (s : State) : Prop := s.bc.busState ≠ .joined ∨ ∀ c ∈ s.cle.list, c.creator ≠ .train

theorem State.makesNone.of {s : State} (h : s.makesNone) {c : Claim} {q : Nat} (k : s.claimOf q = some c) :
    s.bc.busState ≠ .joined ∨ c.creator ≠ .train := h.imp_right fun h => h c (List.mem_of_find?_eq_some k)

/-- A claim that leaves takes every record of its sequence with it, and no other. -/
theorem leaveList_claimOf {s : State} {c : Claim} (h : s.bc.busState ≠ .joined ∨ c.creator ≠ .train) (q : Nat) :
    (leaveList c s).claimOf q = if c.sequence = q then none else s.claimOf q := by
  unfold leaveList
  dsimp only
  have w : Works s (report (.claimEnd c (endedFrom c.state)) (finalMessages c s)) := report_works (finalMessages_works (Works.refl s) c) _
  have e : (report (.claimEnd c (endedFrom c.state)) (finalMessages c s)).cle = s.cle := by simp
  generalize report (.claimEnd c (endedFrom c.state)) (finalMessages c s) = u at w e
  rw [claimOf_congr (handOutcome_cle (h.imp_left fun h => by rwa [(dropClaim_works w c.sequence).busState]) c.endReason),
    claimOf_dropClaim, claimOf_congr e]

/-- A claim in CLOSING with a reason. -/
def Claim.closes (c : Claim) (r : EndReason) : Claim := { c with state := .closing, reason := some r }

/-- The state once a claim is put into CLOSING and its valve has its close request (R94). -/
def closeValve (c : Claim) (r : EndReason) (s : State) : State := (closeRole (targetRole c.target) (s.putClaim (c.closes r))).1

theorem toClosing_eq (c : Claim) (r : EndReason) (s : State) :
    toClosing c r s = if (closeValve c r s).travelOf (targetRole c.target) = .closed then leaveList (c.closes r) (closeValve c r s)
      else closeValve c r s := rfl

theorem closeValve_works (c : Claim) (r : EndReason) (s : State) : Works s (closeValve c r s) :=
  closeRole_works (putClaim_works (Works.refl s) _) _

theorem closeValve_claimOf (c : Claim) (r : EndReason) (s : State) (q : Nat) :
    (closeValve c r s).claimOf q = if c.sequence = q then (s.claimOf q).map fun _ => c.closes r else s.claimOf q := by
  unfold closeValve
  rw [claimOf_congr (closeRole_cle _ _), claimOf_putClaim]
  rfl

/-- A claim on its way to CLOSING: found there with its reason, or gone with its valve closed already (R94). -/
theorem toClosing_claimOf {s : State} {c : Claim} (h : s.bc.busState ≠ .joined ∨ c.creator ≠ .train) (r : EndReason) (q : Nat) :
    (c.sequence ≠ q → (toClosing c r s).claimOf q = s.claimOf q) ∧
      (c.sequence = q → (toClosing c r s).claimOf q = none ∨ (toClosing c r s).claimOf q = some (c.closes r)) := by
  have l := leaveList_claimOf (s := closeValve c r s) (c := c.closes r)
    (h.imp_left fun h => by rwa [(closeValve_works c r s).busState]) q
  have e := closeValve_claimOf c r s q
  rw [toClosing_eq]
  by_cases k : c.sequence = q
  · rw [if_pos k] at e
    refine ⟨fun d => absurd k d, fun _ => ?_⟩
    split
    · exact .inl (l.trans (if_pos k))
    · rw [e]
      cases s.claimOf q <;> simp
  · rw [if_neg k] at e
    refine ⟨fun _ => ?_, fun d => absurd d k⟩
    split
    · exact (l.trans (if_neg k)).trans e
    · exact e

/-- A cause that ends the claim of a sequence leaves the claims of other sequences, and of its own none, or the claim in CLOSING: as it
stood, or out of FLOWING with the cause's reason (R83). -/
theorem endSeq_claimOf {s : State} (h : s.makesNone) (r : EndReason) (p q : Nat) :
    (p ≠ q → (endSeq r s p).claimOf q = s.claimOf q) ∧
      (p = q → (endSeq r s p).claimOf q = none ∨ ∃ c, s.claimOf q = some c ∧
        ((c.state = .closing ∧ (endSeq r s p).claimOf q = some c) ∨
          (c.state = .flowing ∧ (endSeq r s p).claimOf q = some (c.closes r)))) := by
  unfold endSeq
  cases k : s.claimOf p with
  | none => exact ⟨fun _ => rfl, fun e => .inl (by rw [← e, k])⟩
  | some c =>
    have m := h.of k
    have cs := claimOf_sequence k
    dsimp only
    unfold endClaim
    split
    · rename_i f
      obtain ⟨other, own⟩ := toClosing_claimOf m r q
      refine ⟨fun d => other (by rwa [cs]), fun d => ?_⟩
      exact (own (by rwa [cs])).imp_right fun n => ⟨c, by rw [← d, k], .inr ⟨f, n⟩⟩
    · rename_i f
      exact ⟨fun _ => rfl, fun d => .inr ⟨c, by rw [← d, k], .inl ⟨f, by rw [← d, k]⟩⟩⟩
    · have l := leaveList_claimOf (s := s) (c := { c with reason := some r, owner := none }) m q
      exact ⟨fun d => by rw [l, if_neg (by rwa [cs])], fun d => .inl (by rw [l, if_pos (by rwa [cs])])⟩

theorem endSeq_closingAt {s : State} (h : s.makesNone) (r : EndReason) (p : Nat) : (endSeq r s p).closingAt p := by
  intro x e
  rcases (endSeq_claimOf h r p p).2 rfl with n | ⟨c, -, ⟨f, n⟩ | ⟨-, n⟩⟩
  · rw [n] at e; cases e
  · rw [n] at e; cases e; exact f
  · rw [n] at e; cases e; rfl

theorem endSeq_keepsClosing {s : State} (h : s.makesNone) (r : EndReason) (p : Nat) {q : Nat} (k : s.closingAt q) :
    (endSeq r s p).closingAt q := by
  by_cases d : p = q
  · subst d
    exact endSeq_closingAt h r p
  · unfold State.closingAt
    rw [(endSeq_claimOf h r p q).1 d]
    exact k

end Sys2Proof.Machine
end

section

namespace Sys2Proof.Machine

/-! ## Operations that leave the train's state -/

@[simp] theorem offer_trs (m : Message) (s : State) : (offer m s).1.trs = s.trs := by
  unfold offer
  split <;> rfl

@[simp] theorem send_trs (d : Nat) (b : MsgBody) (s : State) : (send d b s).trs = s.trs := offer_trs _ s

@[simp] theorem report_trs (b : ReportBody) (s : State) : (report b s).trs = s.trs := by
  unfold report
  split <;> rfl

theorem foldl_trs {α : Type} {f : State → α → State} (h : ∀ s a, (f s a).trs = s.trs) (l : List α) (s : State) :
    (l.foldl f s).trs = s.trs := by
  induction l generalizing s with
  | nil => rfl
  | cons a l ih => exact (ih _).trans (h s a)

@[simp] theorem freeSegs_trs (q : Nat) (l : List SegId) (s : State) : (freeSegs q l s).trs = s.trs :=
  foldl_trs (fun s _ => send_trs _ _ s) l s

@[simp] theorem finalMessages_trs (c : Claim) (s : State) : (finalMessages c s).trs = s.trs := by
  unfold finalMessages
  dsimp only
  repeat' split
  all_goals simp

@[simp] theorem qualityOff_trsState (s : State) : (qualityOff s).trs.state = s.trs.state := by
  unfold qualityOff
  dsimp only
  split
  · rfl
  · rfl

@[simp] theorem stopQuality_trsState (u : ActuatorSetup) (s : State) : (stopQuality u s).trs.state = s.trs.state := by
  unfold stopQuality
  split <;> simp

@[simp] theorem putAct_trs (s : State) (a : Nat) (x : Actuator) : (s.putAct a x).trs = s.trs := rfl

@[simp] theorem startTravel_trs (a : Nat) (u : ActuatorSetup) (o : Bool) (s : State) : (startTravel a u o s).1.trs = s.trs := by
  unfold startTravel
  dsimp only
  split <;> rfl

@[simp] theorem closeReq_trsState (a : Nat) (s : State) : (closeReq a s).1.trs.state = s.trs.state := by
  unfold closeReq
  dsimp only
  repeat' split
  all_goals simp

@[simp] theorem closeRole_trsState (r : Role) (s : State) : (closeRole r s).1.trs.state = s.trs.state := by
  unfold closeRole
  split <;> simp

@[simp] theorem enterTrain_trsState (a : TrainState) (b : DivertCause) (c : FaultCause) (d : StopCause) (s : State) :
    (enterTrain a b c d s).trs.state = a := by
  unfold enterTrain tellTrain changeTrain
  simp [changed]

theorem tryStopped_unstoppable {s : State} (h : stoppable s.trs.state = false) : stoppable (tryStopped s).trs.state = false := by
  unfold tryStopped
  split
  · simp [stoppable]
  · exact h

@[simp] theorem fillOutcome_trs (t : Nat) (e : EndReason) (s : State) : (fillOutcome t e s).trs = s.trs := by
  unfold fillOutcome
  dsimp only
  split <;> rfl

/-- In a state that no stop cause leaves, no outcome takes the train to one that a stop cause leaves. -/
theorem handOutcome_unstoppable (c : Claim) (r : EndReason) {s : State} (h : stoppable s.trs.state = false) :
    stoppable (handOutcome c r s).trs.state = false := by
  have inflow : stoppable (inflowOutcome r s).trs.state = false := by
    unfold inflowOutcome
    dsimp only
    split
    · exact h
    · rename_i e
      exact absurd (h.symm.trans (congrArg stoppable e)) nofun
    · rename_i e
      exact absurd (h.symm.trans (congrArg stoppable e)) nofun
    · exact h
  have flush : stoppable (flushOutcome r s).trs.state = false := by
    unfold flushOutcome
    dsimp only
    split
    · exact tryStopped_unstoppable h
    · exact h
  unfold handOutcome trainOutcome
  split
  · exact h
  · rw [fillOutcome_trs]
    exact h
  · exact h
  · split
    · split
      · exact inflow
      · exact h
    · split
      · exact flush
      · exact h
    · exact h

/-! ## What a cause that ends claims keeps outside JOINED -/

/-- Outside JOINED: the working operations' frame; claims stay in CLOSING, and the train in a state that no stop cause leaves. -/
structure Halts (s t : State) : Prop where
  works : Works s t
  closes : ∀ q, s.closingAt q → t.closingAt q
  stays : stoppable s.trs.state = false → stoppable t.trs.state = false

theorem Halts.refl (s : State) : Halts s s := ⟨Works.refl s, fun _ => id, id⟩

theorem Halts.trans {s t u : State} (h : Halts s t) (k : Halts t u) : Halts s u :=
  ⟨h.works.trans k.works, fun q c => k.closes q (h.closes q c), fun c => k.stays (h.stays c)⟩

/-- An operation that leaves the claims. -/
theorem Halts.of {s t : State} (w : Works s t) (c : t.cle = s.cle) (k : stoppable s.trs.state = false → stoppable t.trs.state = false) :
    Halts s t :=
  ⟨w, fun q h x e => h x (by rwa [claimOf_congr c] at e), k⟩

theorem Halts.busState {s t : State} (h : Halts s t) (j : s.bc.busState ≠ .joined) : t.bc.busState ≠ .joined := by
  rwa [h.works.busState]

theorem closeRole_halts (r : Role) (s : State) : Halts s (closeRole r s).1 :=
  .of (closeRole_works (Works.refl s) r) (closeRole_cle r s) (by simp)

theorem leaveList_halts {s : State} (j : s.bc.busState ≠ .joined) (c : Claim) : Halts s (leaveList c s) := by
  refine ⟨leaveList_works (Works.refl s) c, fun q h x e => ?_, fun h => ?_⟩
  · rw [leaveList_claimOf (.inl j)] at e
    split at e
    · cases e
    · exact h x e
  · exact handOutcome_unstoppable _ _ (by simpa [State.dropClaim, State.setClaims] using h)

theorem toClosing_halts {s : State} (j : s.bc.busState ≠ .joined) (c : Claim) (r : EndReason) : Halts s (toClosing c r s) := by
  refine ⟨toClosing_works (Works.refl s) c r, fun q h x e => ?_, fun h => ?_⟩
  · obtain ⟨other, own⟩ := toClosing_claimOf (c := c) (.inl j) r q
    by_cases k : c.sequence = q
    · rcases own k with n | n <;> rw [n] at e <;> cases e
      rfl
    · rw [other k] at e
      exact h x e
  · have v : stoppable (closeValve c r s).trs.state = false := by
      unfold closeValve
      rw [closeRole_trsState]
      exact h
    rw [toClosing_eq]
    split
    · exact (leaveList_halts (by rwa [(closeValve_works c r s).busState]) _).stays v
    · exact v

theorem endSeq_halts {s : State} (j : s.bc.busState ≠ .joined) (r : EndReason) (q : Nat) : Halts s (endSeq r s q) := by
  refine ⟨endSeq_works (Works.refl s) r q, fun p => endSeq_keepsClosing (.inl j) r q, fun h => ?_⟩
  unfold endSeq endClaim
  repeat' split
  · exact (toClosing_halts j _ _).stays h
  · exact h
  · exact (leaveList_halts j _).stays h
  · exact h

theorem endSeqs_halts {s : State} (j : s.bc.busState ≠ .joined) (r : EndReason) (l : List Nat) : Halts s (l.foldl (endSeq r) s) := by
  induction l generalizing s with
  | nil => exact .refl s
  | cons q l ih => exact (endSeq_halts j r q).trans (ih ((endSeq_halts j r q).busState j))

theorem endSeqs_closingAt {s : State} (j : s.bc.busState ≠ .joined) (r : EndReason) {l : List Nat} {q : Nat} (h : q ∈ l) :
    (l.foldl (endSeq r) s).closingAt q := by
  induction l generalizing s with
  | nil => cases h
  | cons p l ih =>
    have b := (endSeq_halts j r p).busState j
    rcases List.mem_cons.mp h with rfl | h
    · exact (endSeqs_halts b r l).closes q (endSeq_closingAt (.inl j) r q)
    · exact ih b h

theorem mem_seqs {s : State} {q : Nat} {c : Claim} (h : s.claimOf q = some c) : q ∈ s.seqsWhere fun _ => true := by
  unfold State.seqsWhere
  rw [List.mem_map]
  exact ⟨c, by simpa using List.mem_of_find?_eq_some h, claimOf_sequence h⟩

theorem stopAll_halts {s : State} (j : s.bc.busState ≠ .joined) : Halts s (stopAll s) := endSeqs_halts j _ _

/-- Every claim that a stop of all of them leaves in the list is in CLOSING (R91). -/
theorem stopAll_closing {s : State} (j : s.bc.busState ≠ .joined) (q : Nat) : (stopAll s).closingAt q := by
  by_cases h : ∃ c, s.claimOf q = some c
  · obtain ⟨c, h⟩ := h
    exact endSeqs_closingAt j _ (mem_seqs h)
  · exact (stopAll_halts j).closes q fun c e => absurd ⟨c, e⟩ h

/-! ## The train's stop -/

/-- The notices of a close request are ends of closing travels. -/
theorem closeRole_notices (r : Role) (s : State) : ∀ n ∈ (closeRole r s).2, n.kind = .travelDone .closed := by
  unfold closeRole closeReq startTravel
  dsimp only
  repeat' split
  all_goals simp [reached]

theorem cleNotice_halts {s : State} (j : s.bc.busState ≠ .joined) {n : Notice} (h : n.kind = .travelDone .closed) :
    Halts s (cleNotice n s) := by
  unfold cleNotice claimNotice
  rw [h]
  split
  · rename_i c _
    cases c.state
    case closing => exact leaveList_halts j _
    all_goals exact .refl s
  · exact .refl s

theorem cleNotices_halts {s : State} (j : s.bc.busState ≠ .joined) {l : List Notice} (h : ∀ n ∈ l, n.kind = .travelDone .closed) :
    Halts s (cleNotices l s) := by
  unfold cleNotices
  induction l generalizing s with
  | nil => exact .refl s
  | cons n l ih =>
    have k := cleNotice_halts j (h n (by simp))
    exact k.trans (ih (k.busState j) fun m hm => h m (by simp [hm]))

theorem stopInflow_halts {s : State} (j : s.bc.busState ≠ .joined) : Halts s (stopInflow s) := by
  unfold stopInflow
  split
  · rename_i q _
    exact Halts.trans (t := s.mapTrs fun t => { t with ownStop := true })
      (.of (mapTrs_works (Works.refl s) _) rfl id) (endSeq_halts (by exact j) _ _)
  · exact .refl s

theorem askFlush_supply (s : State) : askFlush .supply s = s.mapTrs fun t => { t with flushResult := .failed } := by
  unfold askFlush
  rfl

theorem stopLast_halts (s : State) : Halts s (stopLast .supply s) := by
  refine .of (stopLast_works (Works.refl s) _) ?_ fun h => ?_
  · unfold stopLast
    rw [tryStopped_cle, askFlush_supply]
    simp
  · unfold stopLast
    refine tryStopped_unstoppable ?_
    rw [askFlush_supply]
    exact (closeRole_halts .feed s).stays h

/-- A supply stop of the train leaves it in a state that no stop cause leaves, and the claims in CLOSING as they are (R160). -/
theorem stopTrain_halts {s : State} (j : s.bc.busState ≠ .joined) :
    Halts s (stopTrain .supply s) ∧ stoppable (stopTrain .supply s).trs.state = false := by
  unfold stopTrain
  split
  · have e : Works s (enterTrain .stopping .none .none .supply s) := enterTrain_works (Works.refl s) _ _ _ _
    have c : (enterTrain .stopping .none .none .supply s).cle = s.cle := by simp
    have k : stoppable (enterTrain .stopping .none .none .supply s).trs.state = false := by simp [stoppable]
    generalize enterTrain .stopping .none .none .supply s = u at e c k
    have ju : u.bc.busState ≠ .joined := by rwa [e.busState]
    have first : Halts u (stopFirst u).1 := (closeRole_halts .highpress u).trans (closeRole_halts .divert _)
    have second := first.trans (cleNotices_halts (first.busState ju) (closeRole_notices .divert (closeRole .highpress u).1))
    have third := second.trans (stopInflow_halts (second.busState ju))
    have all := third.trans (stopLast_halts _)
    exact ⟨(Halts.of e c fun _ => k).trans all, all.stays k⟩
  · rename_i h
    exact ⟨.refl s, by simpa using h⟩

/-! ## Entry to HOLDING -/

/-- The state at the entry to HOLDING, before claims and train are stopped. -/
def State.entersHolding (s : State) : State :=
  markLeaving ((s.setBc { s.bc with busState := .holding }).setPort { s.port with phase := .grace, supplyTimer := 0 })

theorem enterHolding_halts (first : Bool) (s : State) :
    Halts s.entersHolding (enterHolding first s) ∧ (∀ q, (enterHolding first s).closingAt q) ∧
      stoppable (enterHolding first s).trs.state = false := by
  have j : s.entersHolding.bc.busState ≠ .joined := by
    unfold State.entersHolding markLeaving
    simp
  have e : enterHolding first s = if first then stopAll (stopTrain .supply s.entersHolding) else stopTrain .supply (stopAll s.entersHolding) := rfl
  rw [e]
  split
  · obtain ⟨h, k⟩ := stopTrain_halts j
    have b := h.busState j
    exact ⟨h.trans (stopAll_halts b), stopAll_closing b, (stopAll_halts b).stays k⟩
  · have h := stopAll_halts j
    obtain ⟨k, l⟩ := stopTrain_halts (h.busState j)
    exact ⟨h.trans k, fun q => k.closes q (stopAll_closing j q), l⟩

theorem entersHolding_rosterOf (s : State) (a : Nat) : s.entersHolding.rosterOf a =
    if s.ident.address = a ∧ validAddr s.ident.address = true then { s.rosterOf s.ident.address with leaving := true }
    else s.rosterOf a :=
  rosterOf_putRoster _ _ _ _

/-- The entry touches bus state, port phase and the roster. -/
theorem entersHolding_eq (s : State) : ∃ v, s.entersHolding =
    { s with bc := { s.bc with busState := .holding }, port := { s.port with phase := .grace, supplyTimer := 0 }, roster := v } :=
  ⟨_, putRoster_eq _ _ _⟩

/-- Settles O11: the two stops run outside JOINED, where what the one has stopped the other leaves stopped. -/
theorem supplyFails_obligation : Obligations.SupplyFails := by
  have fails : ∀ first (s : State), s.ready →
      exec (.supplyLowAsserted first) s = .next (supplyFails first (supplyPin true s)) := fun first s r =>
    congrArg Host.Outcome.next (act_ready (by exact r) _)
  refine ⟨fun first s r j => ?_, fun first s r j => ?_⟩
  · rw [fails first s r, supplyFails, if_neg (by exact j)]
    rfl
  · refine ⟨_, fails first s r, ?_⟩
    rw [supplyFails, if_pos (by exact j)]
    obtain ⟨h, closing, stopped⟩ := enterHolding_halts first (supplyPin true s)
    have roster : ∀ a, (enterHolding first (supplyPin true s)).rosterOf a = (supplyPin true s).entersHolding.rosterOf a := fun a => by
      unfold State.rosterOf
      rw [h.works.roster]
    have marks := fun a => (roster a).trans (entersHolding_rosterOf (supplyPin true s) a)
    obtain ⟨v, e⟩ := entersHolding_eq (supplyPin true s)
    obtain ⟨w, -, -⟩ := h
    rw [e] at w
    refine ⟨by rw [w.busState], by rw [w.port], by rw [w.port], by rw [w.pins]; rfl, closing, stopped, fun k => ?_, fun a k => ?_,
      w.nwt, w.setup, w.pls⟩
    · rw [marks, if_pos ⟨rfl, k⟩]
      rfl
    · rw [marks, if_neg fun c => k c.1.symm]
      rfl

end Sys2Proof.Machine
end

section

namespace Sys2Proof.Machine

/-! ## The messages of a frame (R4) -/

/-- The bytes of messages. -/
def messageBytes (l : List Message) : Nat := (l.flatMap encMessage).length

theorem messageBytes_cons (m : Message) (l : List Message) : messageBytes (m :: l) = (encMessage m).length + messageBytes l := by
  simp [messageBytes]

theorem encMessage_pos (m : Message) : 0 < (encMessage m).length := by
  simp [encMessage, b1]

/-- At most the number asked for, within the room, and no message left that still had its place. -/
theorem takeQueue_spec (n room : Nat) (l : List Message) :
    (takeQueue n room l).1.length ≤ n ∧ messageBytes (takeQueue n room l).1 ≤ room ∧
      ∀ m more, (takeQueue n room l).2 = m :: more →
        (takeQueue n room l).1.length = n ∨ room < messageBytes (takeQueue n room l).1 + (encMessage m).length := by
  induction n generalizing room l with
  | zero => exact ⟨Nat.le_refl 0, Nat.zero_le _, fun _ _ _ => .inl rfl⟩
  | succ n ih =>
    cases l with
    | nil => exact ⟨Nat.zero_le _, Nat.zero_le _, nofun⟩
    | cons x l =>
      unfold takeQueue
      dsimp only
      split
      · rename_i k
        obtain ⟨few, fits, full⟩ := ih (room - (encMessage x).length) l
        refine ⟨Nat.succ_le_succ few, ?_, fun m more e => ?_⟩
        · rw [messageBytes_cons]
          omega
        · rw [messageBytes_cons]
          exact (full m more e).imp (congrArg Nat.succ) fun w => by omega
      · rename_i k
        refine ⟨Nat.zero_le _, Nat.zero_le _, fun m more e => .inr ?_⟩
        cases e
        simpa [messageBytes] using k

/-- A frame without its messages. -/
def StationFrame.bare (f : StationFrame) : StationFrame := { f with messages := [] }

theorem encFrame_length (f : StationFrame) : (encFrame f).length = (encFrame f.bare).length + messageBytes f.messages := by
  simp [encFrame, encBody, encList, b1, bw, messageBytes, StationFrame.bare]
  omega

theorem compose_takes (s : State) : ((compose s).1.messages, (compose s).2) =
    takeQueue 8 (350 - (encFrame (compose s).1.bare).length) s.bc.queue := rfl

/-- The frame composed: head and record of the present state; the longest run from the head of the queue that has its place (R4, R20). -/
theorem compose_messages (s : State) : (compose s).1.messages.length ≤ 8 ∧
    ((compose s).1.messages = [] ∨ (encFrame (compose s).1).length ≤ 350) ∧
    (compose s).1.messages ++ (compose s).2 = s.bc.queue ∧
    ∀ m more, (compose s).2 = m :: more →
      (compose s).1.messages.length = 8 ∨ 350 < (encFrame (compose s).1).length + (encMessage m).length := by
  have len := encFrame_length (compose s).1
  obtain ⟨few, fits, full⟩ := takeQueue_spec 8 (350 - (encFrame (compose s).1.bare).length) s.bc.queue
  have all := Plain.takeQueue_suffix 8 (350 - (encFrame (compose s).1.bare).length) s.bc.queue
  rw [← compose_takes s] at few fits full all
  dsimp only at few fits full all
  refine ⟨few, ?_, all, fun m more e => (full m more e).imp_right fun w => by omega⟩
  cases k : (compose s).1.messages with
  | nil => exact .inl rfl
  | cons x l =>
    rw [k, messageBytes_cons] at fits len
    have := encMessage_pos x
    exact .inr (by omega)

/-! ## Entries after working operations -/

theorem Works.rosterOf {s t : State} (w : Works s t) (a : Nat) : t.rosterOf a = s.rosterOf a := by
  unfold State.rosterOf
  rw [w.roster]

theorem Works.nwtOf {s t : State} (w : Works s t) (a : Nat) : t.nwtOf a = s.nwtOf a := by
  unfold State.nwtOf
  rw [w.nwt]

/-! ## A record taken (R32) -/

/-- A record taken is its NWT entry, and then the work of the blocks. -/
theorem takeRecord_works (a inc : Nat) (w : Word) (r : StatusRecord) (s : State) :
    Works (s.putNwt a (some ⟨r, w, s.bc.round, false⟩)) (takeRecord a inc w r s) :=
  passRecord_works (Works.refl _) a inc r

/-! ## The own slot (R4, R20, R28, R35) -/

theorem startSlot_spec {s : State} (v : validAddr s.ident.address = true) :
    (startSlot s).ident = s.ident ∧
      (startSlot s).bc = { s.bc with queue := (startSlot s).bc.queue, line := some (.station (compose s).1), slotTaken := true } ∧
      (compose s).2 <+: (startSlot s).bc.queue ∧
      (startSlot s).rosterOf s.ident.address =
        { s.rosterOf s.ident.address with lastHeard := s.bc.round, leaving := s.bc.busState == .holding } ∧
      (startSlot s).nwtOf s.ident.address = some ⟨s.sampleRecord, s.bc.round, s.bc.round, false⟩ := by
  have w : Works _ (startSlot s) := takeRecord_works _ _ _ _ _
  have b := w.bc
  have q := w.queue
  rw [putNwt_bc, putRoster_bc] at b q
  refine ⟨?_, b, q, ?_, ?_⟩
  · rw [w.ident, putNwt_ident, putRoster_ident]
    rfl
  · rw [w.rosterOf, putNwt_rosterOf, rosterOf_putRoster, if_pos ⟨rfl, v⟩]
    rfl
  · rw [w.nwtOf, nwtOf_putNwt, if_pos ⟨rfl, v⟩, putRoster_bc]
    rfl

theorem exec_ownSlotStart {s : State} (h : s.ready) (b : Bool) : exec (.ownSlotStart b) s = .next (ownSlot s) := by
  refine congrArg Host.Outcome.next ?_
  rw [act_ready h]
  exact ite_self _

theorem slotReady_iff (s : State) : s.slotReady = true ↔ s.serving = true ∧ s.bc.slotTaken = false ∧ s.bc.line = none ∧
    ∃ c, s.bc.clock = some c ∧ c ≤ 4 * s.ident.address := by
  unfold State.slotReady
  cases s.bc.clock <;> simp [and_assoc]

theorem ownSlot_other {s : State} (h : s.slotReady = false) : ownSlot s = s := by
  unfold ownSlot
  rw [if_neg (by simp [h])]

/-- Time that passes does not show in what the own slot samples and composes. -/
theorem OnlyTime.compose {s u : State} (h : OnlyTime s u) : compose u = compose s := by
  rw [h.same]
  rfl

theorem OnlyTime.sampleRecord {s u : State} (h : OnlyTime s u) : u.sampleRecord = s.sampleRecord := by
  rw [h.same]
  rfl

theorem OnlyTime.ident {s u : State} (h : OnlyTime s u) : u.ident = s.ident := by
  rw [h.same]

theorem OnlyTime.rosterOf {s u : State} (h : OnlyTime s u) (a : Nat) : u.rosterOf a = s.rosterOf a := by
  rw [h.same]
  rfl

theorem OnlyTime.nwtOf {s u : State} (h : OnlyTime s u) (a : Nat) : u.nwtOf a = s.nwtOf a := by
  rw [h.same]
  rfl

/-- The clock moved on to an instant. -/
theorem timeTo_clock {s : State} {c ms : Nat} (k : s.bc.clock = some c) (h : c ≤ ms) (g : s.graceEnds ms = false) :
    (timeTo ms s).bc = { s.bc with clock := some ms } := by
  rw [timeTo_bc k ms g, Nat.max_eq_right h]

/-- The own slot starts once its instant is reached, unless the grace ends before it. -/
theorem ownSlot_starts {s : State} (h : s.slotReady = true) (g : s.graceEnds (4 * s.ident.address) = false) :
    ownSlot s = startSlot (timeTo (4 * s.ident.address) s) := by
  obtain ⟨sv, taken, line, c, k, le⟩ := (slotReady_iff s).1 h
  have b := timeTo_clock k le g
  have i := (timeTo_only g).ident
  have r : (timeTo (4 * s.ident.address) s).slotReady = true := by
    refine (slotReady_iff _).2 ⟨?_, ?_, ?_, 4 * s.ident.address, ?_, ?_⟩
    · unfold State.serving at sv ⊢
      rw [b]
      exact sv
    · rw [b]; exact taken
    · rw [b]; exact line
    · rw [b]
    · rw [i]
  unfold ownSlot
  rw [if_pos h]
  dsimp only
  rw [if_pos r]

/-- A supply timer that would pass 2000 ms stops there, and the grace is over (R201). -/
theorem passSupply_late {s : State} {ms : Nat} (p : s.port.phase = .grace) (l : s.port.supplyTimer < 2000)
    (h : 2000 < s.port.supplyTimer + ms) : passSupply ms s = graceExpiry (s.setPort { s.port with supplyTimer := 2000 }) := by
  unfold passSupply
  rw [if_pos (by simp [p, l])]
  dsimp only
  rw [if_pos h, Nat.min_eq_left (by omega)]

/-- A supply that still fails when the grace ends, with no frame being sent: DORMANT before the instant (R201). -/
theorem timeTo_dormant {s : State} {ms : Nat} (f : s.failing = true) (line : s.bc.line = none) (g : s.graceEnds ms = true) :
    s.dormantOf (timeTo ms s) := by
  simp only [State.graceEnds, Bool.and_eq_true, decide_eq_true_eq, beq_iff_eq] at g
  obtain ⟨⟨⟨phase, less⟩, late⟩, aligned⟩ := g
  obtain ⟨c, k⟩ := Option.isSome_iff_exists.mp aligned
  have e : State.elapsed s = c := by simp [State.elapsed, k]
  unfold timeTo
  rw [k]
  dsimp only
  rw [passSupply_late (by exact phase) (by exact less) (by rw [← e]; exact late), graceExpiry_now (by exact f) rfl (by exact line)]
  exact OnlyTime.dormantOf ⟨rfl, fun n => by rw [phase] at n; cases n⟩ (enterDormant_dormantOf _)

/-- A grace that ends before the own slot ends in DORMANT, and there is no own slot (R201). -/
theorem ownSlot_failing {s : State} (h : s.slotReady = true) (f : s.failing = true) (g : s.graceEnds (4 * s.ident.address) = true) :
    s.dormantOf (ownSlot s) := by
  obtain ⟨sv, taken, line, c, k, le⟩ := (slotReady_iff s).1 h
  have d : s.dormantOf (timeTo (4 * s.ident.address) s) := timeTo_dormant f line g
  have r : (timeTo (4 * s.ident.address) s).slotReady = false := by
    simp [State.slotReady, State.serving, d.1]
  unfold ownSlot
  rw [if_pos h]
  dsimp only
  rw [if_neg (by simp [r])]
  exact d

/-! ## The record sampled (R37, R38, R39, R106) -/

theorem setBit_getLsbD (b : Byte) (p : Bool) (n : Nat) {i : Nat} (h : i < 8) :
    (if p then b ||| ((1 : Byte) <<< n) else b).getLsbD i = (b.getLsbD i || (p && decide (i = n))) := by
  have one : ((1 : Byte) <<< n).getLsbD i = decide (i = n) := by
    rw [Bool.eq_iff_iff]
    simp [h]
    omega
  split
  · rename_i k
    rw [BitVec.getLsbD_or, one, k, Bool.true_and]
  · rename_i k
    simp [k]

theorem flags_fold (f : Nat → Bool) (n : Nat) {i : Nat} (h : i < 8) :
    ((List.range n).foldl (fun (b : Byte) n => if f n then b ||| ((1 : Byte) <<< n) else b) 0).getLsbD i =
      (decide (i < n) && f i) := by
  induction n with
  | zero => simp
  | succ n ih =>
    rw [List.range_succ, List.foldl_append, List.foldl_cons, List.foldl_nil, setBit_getLsbD _ _ _ h, ih]
    rcases Nat.lt_trichotomy i n with l | rfl | l
    · simp [l, Nat.lt_succ_of_lt l, Nat.ne_of_lt l]
    · simp
    · have k : ¬ i < n + 1 := by omega
      simp [Nat.ne_of_gt l, Nat.not_lt_of_gt l, k]

theorem flags_bit (s : State) {n : Nat} (h : n < 8) :
    s.sampleRecord.flags.getLsbD n = true ↔ (s.program n).publish = true ∧ (s.cell n).output = true := by
  have e := flags_fold s.flag 8 h
  rw [show s.sampleRecord.flags.getLsbD n = s.flags.getLsbD n from rfl]
  unfold State.flags
  rw [e]
  simp [State.flag, h]

theorem available_figure (s : State) (t : Nat) {k : Nat} (h : 1 ≤ k) (l : k ≤ 5) :
    (forClass (s.tankItem t).available k : Int) = max 0 ((s.levelCh t).accepted - forClass (s.plan t).floor k -
      (((s.tankOf t).grants.filter fun g => g.kind ≠ .inflow ∧ g.cls ≤ 5).map (·.remaining)).sum) := by
  have e : forClass (s.tankItem t).available k = s.available t k := by
    have : k = 1 ∨ k = 2 ∨ k = 3 ∨ k = 4 ∨ k = 5 := by omega
    rcases this with rfl | rfl | rfl | rfl | rfl <;> rfl
  have c : s.committed t 5 = (((s.tankOf t).grants.filter fun g => g.kind ≠ .inflow ∧ g.cls ≤ 5).map (·.remaining)).sum := by
    unfold State.committed drawsTo sumRemaining
    congr 3
    funext g
    simp
    rfl
  rw [e, ← c]
  unfold State.available State.limit
  omega

theorem headroom_figure (s : State) (t : Nat) :
    ((s.tankItem t).headroom : Int) = max 0 (((s.tankItem t).capacity : Int) - (s.plan t).topMargin - (s.levelCh t).accepted -
      (((s.tankOf t).grants.filter fun g => g.kind = .inflow).map (·.remaining)).sum) := by
  have e : (s.tankItem t).headroom = s.headroom t := rfl
  have a : (s.tankItem t).capacity = s.capacity t := rfl
  have c : s.committedIn t = (((s.tankOf t).grants.filter fun g => g.kind = .inflow).map (·.remaining)).sum := by
    unfold State.committedIn inflows sumRemaining
    congr 3
  rw [e, a, ← c]
  unfold State.headroom State.room
  omega

/-- A destination is published exactly in PRODUCING and DIVERTING while no retry timer runs (R145). -/
theorem destination_iff (s : State) : s.destination =
    if (s.trs.state = .producing ∨ s.trs.state = .diverting) ∧ s.trs.retry = none then (s.destEntry.map (·.tank)).getD ⟨0, 0⟩
    else ⟨0, 0⟩ := by
  unfold State.destination
  simp

theorem mem_tanks {s : State} {i : TankItem} (h : i ∈ s.sampleRecord.tanks) : ∃ t, i = s.tankItem t := by
  obtain ⟨t, -, e⟩ := List.mem_map.mp h
  exact ⟨t, e.symm⟩

theorem mem_segments {s : State} {i : SegItem} (h : i ∈ s.sampleRecord.segments) : ∃ n, i = s.segItem n := by
  obtain ⟨n, -, e⟩ := List.mem_map.mp h
  exact ⟨n, e.symm⟩

theorem train_published {s : State} (h : s.setup.train ≠ none) : s.sampleRecord.train = some s.trainGroup := by
  unfold State.sampleRecord
  exact if_pos (Option.isSome_iff_ne_none.mpr h)

theorem segItem_status (s : State) (n : Nat) :
    ((s.segOf n).state = .free → (s.segItem n).status = .free) ∧ ((s.segOf n).state = .fault → (s.segItem n).status = .fault) ∧
      ∀ id, (s.segOf n).state = .held → (s.segOf n).holder = some id → (s.segItem n).status = .held id := by
  refine ⟨fun h => ?_, fun h => ?_, fun id h k => ?_⟩
  · simp [State.segItem, h]
  · simp [State.segItem, h]
  · simp [State.segItem, h, k]

/-- Settles O13. -/
theorem ownSlotSends : Obligations.OwnSlotSends := by
  refine ⟨fun b c s r sv taken line k le v => ⟨fun g => ?_, fun f g => ?_⟩, fun b s r h => ?_, ?_⟩
  · have ready : s.slotReady = true := (slotReady_iff s).2 ⟨sv, taken, line, c, k, le⟩
    have o := timeTo_only g
    have clock := timeTo_clock k le g
    have own : exec (.ownSlotStart b) s = .next (startSlot (timeTo (4 * s.ident.address) s)) := by
      rw [exec_ownSlotStart r, ownSlot_starts ready g]
    generalize timeTo (4 * s.ident.address) s = u at o clock own
    obtain ⟨id, bc, queue, roster, nwt⟩ := startSlot_spec (s := u) (by rw [o.ident]; exact v)
    rw [o.ident, o.rosterOf] at roster
    rw [o.ident, o.sampleRecord] at nwt
    rw [clock] at roster nwt bc
    rw [o.compose] at bc queue
    obtain ⟨few, room, all, longest⟩ := compose_messages s
    refine ⟨_, own, ?_, by rw [bc], by rw [bc], (compose s).1, by rw [bc], rfl, rfl, rfl, rfl, rfl, roster, nwt, few, room, ?_⟩
    · unfold State.sbte
      rw [id, o.ident, r.1, bc]
      rfl
    · exact ⟨_, all, queue, longest⟩
  · exact ⟨_, exec_ownSlotStart r b, ownSlot_failing ((slotReady_iff s).2 ⟨sv, taken, line, c, k, le⟩) f g⟩
  · rw [exec_ownSlotStart r, ownSlot_other]
    rw [Bool.eq_false_iff, Ne, slotReady_iff]
    rintro ⟨sv, taken, line, c, k, le⟩
    rcases h with h | h | h | h | ⟨d, h, l⟩
    · simp [sv] at h
    · simp [taken] at h
    · exact h line
    · simp [k] at h
    · rw [k] at h
      cases h
      omega
  · rintro s r rfl
    refine ⟨⟨rfl, rfl, fun n h => flags_bit s h⟩, ⟨?_, fun i m => ?_⟩, ⟨fun h => ?_, fun h => ?_⟩, ⟨?_, fun i m => ?_⟩, rfl⟩
    · exact (List.map_map ..).trans (List.map_id _)
    · obtain ⟨t, rfl⟩ := mem_tanks m
      refine ⟨fun u h => ?_, rfl, rfl, fun h => ?_, fun h => ?_, fun k h l => available_figure s t h l, headroom_figure s t⟩
      · change s.capacity t = _
        unfold State.capacity
        rw [show s.tankSetup t = some u from h]
        rfl
      · exact if_pos h
      · exact if_neg h
    · unfold State.sampleRecord
      simp [h]
    · refine ⟨_, train_published h, rfl, rfl, rfl, rfl, by simp [State.trainGroup], fun d e st n => ?_, fun n => ?_⟩
      · change s.destination = _
        rw [destination_iff, if_pos ⟨st, n⟩]
        unfold State.destEntry
        rw [e]
        rfl
      · change s.destination = _
        rw [destination_iff, if_neg]
        rintro ⟨st, e⟩
        rcases n with ⟨a, b⟩ | n
        · exact st.elim a b
        · exact n e
    · exact (List.map_map ..).trans (List.map_id _)
    · obtain ⟨n, rfl⟩ := mem_segments m
      exact segItem_status s n

end Sys2Proof.Machine
end

section

namespace Sys2Proof.Machine

/-! ## The own MARK (R15, R18) -/

theorem sendMark_bc (s : State) : ∃ v, sendMark s = s.setBc v := by
  unfold sendMark
  split <;> exact ⟨_, rfl⟩

theorem sendMark_sends {s : State} (h : s.bc.backoff = 0) : (sendMark s).bc =
    { s.bc with round := s.bc.round + 1, numberTaken := true, line := some (.mark (s.bc.round + 1)) } := by
  unfold sendMark
  rw [if_neg (by omega)]
  rfl

theorem sendMark_backs {s : State} (h : 0 < s.bc.backoff) : (sendMark s).bc = { s.bc with backoff := s.bc.backoff - 1 } := by
  unfold sendMark
  rw [if_pos h]
  rfl

/-- The expected boundary at the mark holder, the grace not ending before it: the instant is reached, and the MARK or the backoff follows. -/
theorem markNow_sends {s : State} {c : Nat} (sv : s.serving = true) (m : s.bc.markHolder = true) (line : s.bc.line = none)
    (n : s.bc.numberTaken = false) (k : s.bc.clock = some c) (le : c ≤ 100) (g : s.graceEnds 100 = false) :
    markNow s = sendMark (timeTo 100 s) := by
  have sv' : (timeTo 100 s).serving = true := by
    unfold State.serving at sv ⊢
    rw [timeTo_clock k le g]
    exact sv
  unfold markNow
  rw [if_pos (by simp [sv, m, line, n, k])]
  dsimp only
  rw [if_pos sv']

theorem markNow_other {s : State} (h : s.serving = false ∨ s.bc.markHolder = false) : markNow s = s := by
  unfold markNow
  rw [if_neg]
  rcases h with h | h <;> simp [h]

theorem exec_markSend {s : State} (h : s.ready) : exec .markSend s = .next (markNow s) :=
  congrArg Host.Outcome.next (act_ready h _)

theorem exec_readbackMismatch {s : State} (h : s.ready) : exec .readbackMismatch s = .next (mismatch s) :=
  congrArg Host.Outcome.next (act_ready h _)

theorem mismatch_mark {s : State} {r : Word} (h : s.bc.line = some (.mark r)) : mismatch s = markFailed s := by
  unfold mismatch
  rw [h]

theorem mismatch_station {s : State} {f : StationFrame} (h : s.bc.line = some (.station f)) : mismatch s = frameFailed s := by
  unfold mismatch
  rw [h]

theorem mismatch_none {s : State} (h : s.bc.line = none) : mismatch s = s := by
  unfold mismatch
  rw [h]

/-- Settles O14. -/
theorem markIsSent : Obligations.MarkIsSent := by
  refine ⟨⟨fun c s r sv m line n k le g => ?_, fun s r h => ?_⟩, ⟨fun r s h line d => ?_, fun s r line => ?_⟩, fun s => ?_⟩
  · refine ⟨_, (exec_markSend r).trans (congrArg _ (markNow_sends sv m line n k le g)), ?_⟩
    have o := timeTo_only g
    have clock := timeTo_clock k le g
    generalize timeTo 100 s = u at o clock
    refine ⟨?_, fun p => ?_, fun b => ?_, fun b => ?_⟩
    · obtain ⟨v, e⟩ := sendMark_bc u
      rw [e, o.same]
      rfl
    · obtain ⟨v, e⟩ := sendMark_bc u
      rw [e]
      exact o.rest p
    · rw [sendMark_sends (by rw [clock]; exact b), clock]
    · rw [sendMark_backs (by rw [clock]; exact b), clock]
  · rw [exec_markSend r, markNow_other h]
  · rw [exec_readbackMismatch h, mismatch_mark line, markFailed, frameEnded_stays (by exact d)]
    rfl
  · rw [exec_readbackMismatch r, mismatch_none line]
  · cases k : s.bc.line <;> simp [State.sbte, k]

end Sys2Proof.Machine
end

section

namespace Sys2Proof.Machine

/-! ## Actuators withdrawn while nothing is held (R76) -/

/-- From `s` to `t` nothing changed but actuators and segments. -/
def Withdraws (s t : State) : Prop := t = (s.setAct t.act).setSga t.sga

theorem Withdraws.refl (s : State) : Withdraws s s := rfl

theorem Withdraws.trans {s t u : State} (h : Withdraws s t) (k : Withdraws t u) : Withdraws s u := by
  unfold Withdraws at h k ⊢
  rw [k, h]
  rfl

/-- Nothing held, the train STOPPED, and the channels as they start. -/
def State.emptied (s : State) : Prop := s.vacant ∧ s.trs.state = .stopped ∧ s.mch = Channels.initial

theorem Withdraws.emptied {s t : State} (h : Withdraws s t) (k : s.emptied) (v : t.vacant) : t.emptied := by
  unfold Withdraws at h
  refine ⟨v, ?_, ?_⟩
  · rw [h]
    exact k.2.1
  · rw [h]
    exact k.2.2

theorem clearFault_withdraws (i : Nat) (s : State) : Withdraws s (clearFault i s) := by
  unfold clearFault
  dsimp only
  repeat' split
  all_goals rfl

theorem segNotice_withdraws (i : Nat) (r : Travel) (s : State) : Withdraws s (segNotice i (.travelDone r) s) := by
  unfold segNotice
  split
  case h_4 => exact clearFault_withdraws i s
  case h_5 => exact .refl s
  all_goals
    rename_i e
    cases e

theorem notify_withdraws {x : State × List Notice} (h : x.1.emptied) (k : ∀ n ∈ x.2, ∃ r, n.kind = .travelDone r) :
    Withdraws x.1 (notify x) := by
  obtain ⟨s, l⟩ := x
  unfold notify
  dsimp only at h k ⊢
  induction l generalizing s with
  | nil => exact .refl s
  | cons n l ih =>
    obtain ⟨r, e⟩ := k n (by simp)
    have d : Withdraws s (dispatch s n) := by
      rcases dispatch_done ⟨h.1.2.1, h.2.1⟩ e with d | ⟨i, d⟩
      · rw [d]
        exact .refl s
      · rw [d]
        exact segNotice_withdraws i r s
    exact d.trans (ih _ (d.emptied h (h.1.dispatch n r e).1) fun m hm => k m (by simp [hm]))

theorem stopQuality_initial {s : State} (h : s.mch = Channels.initial) (u : ActuatorSetup) : stopQuality u s = s := by
  have e : qualityOff s = s := by
    unfold qualityOff
    rw [h]
    dsimp only
    rw [if_pos (by rfl)]
    unfold State.setMch
    rw [show ({ Channels.initial with quality := Channel.initial } : Channels) = s.mch from h.symm]
  unfold stopQuality
  rw [e, ite_self]

theorem closeReq_withdraws {s : State} (h : s.emptied) (a : Nat) :
    Withdraws s (closeReq a s).1 ∧ (closeReq a s).1.emptied ∧ ∀ n ∈ (closeReq a s).2, ∃ r, n.kind = .travelDone r := by
  have travels : ∀ t u, Withdraws s t → t.emptied →
      Withdraws s (startTravel a u false t).1 ∧ (startTravel a u false t).1.emptied ∧
        ∀ n ∈ (startTravel a u false t).2, ∃ r, n.kind = .travelDone r := by
    intro t u w k
    obtain ⟨x, e, -, -, n⟩ := startTravel_putAct a u false t
    rw [e]
    exact ⟨w.trans rfl, k, n⟩
  unfold closeReq
  split
  · exact ⟨.refl s, h, by simp⟩
  · dsimp only
    rw [stopQuality_initial (by exact h.2.2)]
    split
    · split
      · exact ⟨.refl s, h, by simp⟩
      · exact ⟨rfl, h, by simp⟩
    · split
      · exact travels _ _ (.refl s) h
      · exact travels _ _ rfl h

/-- One actuator withdrawn: it is safe, and nothing but actuators and segments changed. -/
theorem withdrawActuator_withdraws {s : State} (h : s.emptied) (a : Nat) :
    Withdraws s (withdrawActuator s a) ∧ (withdrawActuator s a).emptied ∧
      ((s.actSetup a).isSome = true → ((withdrawActuator s a).actOf a).command = .safe) ∧
      ∀ b, (s.actOf b).command = .safe → ((withdrawActuator s a).actOf b).command = .safe := by
  unfold withdrawActuator
  split
  · rename_i c
    exact ⟨.refl s, h, fun _ => c, fun _ k => k⟩
  · obtain ⟨w, e, n⟩ := closeReq_withdraws h a
    obtain ⟨v, safe, keep⟩ := h.1.closed a
    have all := w.trans (notify_withdraws e n)
    exact ⟨all, all.emptied h v, safe, keep⟩

/-- Every actuator of a list withdrawn. -/
theorem withdrawn_withdraws {s : State} (h : s.emptied) (l : List Nat) :
    Withdraws s (l.foldl withdrawActuator s) ∧ (l.foldl withdrawActuator s).vacant ∧
      ∀ a, (s.actSetup a).isSome = true → a ∈ l ∨ (s.actOf a).command = .safe → ((l.foldl withdrawActuator s).actOf a).command = .safe := by
  induction l generalizing s with
  | nil => exact ⟨.refl s, h.1, fun a _ k => k.resolve_left (by simp)⟩
  | cons b l ih =>
    obtain ⟨w, e, safe, keep⟩ := withdrawActuator_withdraws h b
    obtain ⟨w', v, m⟩ := ih e
    have setup : ∀ a, (withdrawActuator s b).actSetup a = s.actSetup a := fun a => by rw [w]; rfl
    refine ⟨w.trans w', v, fun a k c => m a (by rw [setup]; exact k) ?_⟩
    rcases c with c | c
    · rcases List.mem_cons.mp c with rfl | c
      · exact .inr (safe k)
      · exact .inl c
    · exact .inr (keep a c)

/-! ## SILENT (R9) -/

/-- What the entry to SILENT leaves before its BUS record, with the actuators and segments as given. -/
def State.silenced (s : State) (v : Vector Actuator 12) (g : Segments) : State :=
  { s with
    bc := s.bc.silent
    roster := (s.putRoster s.ident.address RosterEntry.absent).roster
    nwt := (s.putNwt s.ident.address none).nwt
    mch := Channels.initial
    act := v
    cle := { s.cle with list := [] }
    tkm := Tanks.initial
    sga := g
    trs := Train.initial s.trs.unflushed
    pls := { s.pls with pending := false }
    port := s.port.silent }

theorem enterSilent_eq (n : BusNews) (s : State) : ∃ v g, enterSilent n s = report (.bus n) (s.silenced v g) ∧
    g.waits = [] ∧ (∀ i, (look g.seg Segment.initial i).holder = none) ∧
    ∀ a, (s.actSetup a).isSome = true → (look v Actuator.initial a).command = .safe := by
  have drop : dropOwn (s.setBc s.bc.silent) = { s with
      bc := s.bc.silent
      roster := (s.putRoster s.ident.address RosterEntry.absent).roster
      nwt := (s.putNwt s.ident.address none).nwt } := by
    unfold dropOwn State.putNwt State.putRoster
    by_cases e : s.ident.address = 0
    · simp only [State.setBc_ident, e, if_true]
      rfl
    · simp only [State.setBc_ident, e, if_false]
      rfl
  unfold enterSilent
  rw [drop]
  simp only [State.setClaims, State.setCle, State.setTkm, State.setSga, State.setTrs, State.setMch]
  generalize h : State.mk _ _ _ _ _ _ _ _ _ _ _ _ _ _ _ _ _ _ = u
  have e : u.emptied := by
    subst h
    exact ⟨emptied_vacant (s := s.setBc s.bc.silent) rfl s.sga.silent rfl (silent_noHolder _) s.trs.unflushed Channels.initial, rfl, rfl⟩
  obtain ⟨w, v, m⟩ := withdrawn_withdraws e (List.range 12)
  obtain ⟨-, -, -, -, waits, holders, -⟩ := v
  generalize (List.range 12).foldl withdrawActuator u = t at w waits holders m
  refine ⟨t.act, t.sga, ?_, waits, holders, fun a k => ?_⟩
  · rw [w]
    subst h
    rfl
  · subst h
    exact m a k (.inl (List.mem_range.mpr (actSetup_lt k)))

theorem report_ring (b : ReportBody) (s : State) : ∃ l, report b s = s.setPort { s.port with ring := l } := by
  unfold report
  split <;> exact ⟨_, rfl⟩

theorem rosterOf_invalid {a : Nat} (h : validAddr a = false) (s : State) : s.rosterOf a = RosterEntry.absent := by
  unfold State.rosterOf
  split
  · rfl
  · exact look_beyond _ _ (by simp [validAddr] at h; omega)

theorem nwtOf_invalid {a : Nat} (h : validAddr a = false) (s : State) : s.nwtOf a = none := by
  unfold State.nwtOf
  split
  · rfl
  · exact look_beyond _ _ (by simp [validAddr] at h; omega)

theorem putRoster_absent (s : State) (a : Nat) : (s.putRoster a RosterEntry.absent).rosterOf a = RosterEntry.absent := by
  cases v : validAddr a
  · exact rosterOf_invalid v _
  · rw [rosterOf_putRoster, if_pos ⟨rfl, v⟩]

theorem putNwt_none (s : State) (a : Nat) : (s.putNwt a none).nwtOf a = none := by
  cases v : validAddr a
  · exact nwtOf_invalid v _
  · rw [nwtOf_putNwt, if_pos ⟨rfl, v⟩]

theorem rosterOf_putRoster_other (s : State) {a b : Nat} (h : b ≠ a) (e : RosterEntry) : (s.putRoster a e).rosterOf b = s.rosterOf b := by
  rw [rosterOf_putRoster, if_neg fun k => h k.1.symm]

theorem nwtOf_putNwt_other (s : State) {a b : Nat} (h : b ≠ a) (e : Option NwtEntry) : (s.putNwt a e).nwtOf b = s.nwtOf b := by
  rw [nwtOf_putNwt, if_neg fun k => h k.1.symm]

/-- The entry to SILENT is SILENT's state, and its BUS record is the first it makes (R9). -/
theorem enterSilent_silentOf (n : BusNews) (s : State) : s.silentOf (enterSilent n s) ∧ s.tells (enterSilent n s) 0 (.bus n) ∧
    (enterSilent n s).bc = s.bc.silent := by
  obtain ⟨v, g, e, waits, holders, safe⟩ := enterSilent_eq n s
  have t : s.tells (enterSilent n s) 0 (.bus n) := by
    rw [e]
    exact report_tells (s.silenced v g) (.bus n)
  obtain ⟨l, r⟩ := report_ring (.bus n) (s.silenced v g)
  rw [r] at e
  refine ⟨?_, t, by rw [e]; rfl⟩
  rw [e]
  exact ⟨rfl, rfl, rfl, rfl, rfl, rfl, rfl, rfl, rfl, putRoster_absent s _, putNwt_none s _,
    fun a h => ⟨rosterOf_putRoster_other s h _, nwtOf_putNwt_other s h _⟩, rfl, rfl, waits, holders, rfl, rfl, rfl, rfl, rfl, rfl,
    safe, rfl, rfl⟩

end Sys2Proof.Machine
end

section

namespace Sys2Proof.Machine

/-! ## The own good frame (R7) -/

/-- The messages of a frame to this station, handed on in frame order (R6, R7). -/
theorem takeMessages_filter (src inc : Nat) (l : List Message) (s : State) : takeMessages src inc l s =
    (l.filter fun m => m.dest = s.ident.address).foldl (fun s m => takeMessage src inc m.body s) s := by
  unfold takeMessages
  induction l generalizing s with
  | nil => rfl
  | cons m l ih =>
    have i : ∀ b, (takeMessage src inc b s).ident = s.ident := fun b => (takeMessage_works (Works.refl s) src inc b).ident
    rw [List.foldl_cons, ih]
    by_cases h : m.dest = s.ident.address
    · rw [if_pos h, List.filter_cons_of_pos (by simpa using h), i]
      rfl
    · rw [if_neg h, List.filter_cons_of_neg (by simpa using h)]

theorem exec_ownFrameGood {s : State} (h : s.ready) : exec .ownFrameGood s = .next (frameGood s) :=
  congrArg Host.Outcome.next (act_ready h _)

theorem frameGood_stays {s : State} {f : StationFrame} (h : s.bc.line = some (.station f)) (d : s.bc.dormantNext = false) :
    frameGood s = takeMessages f.source f.incarnation f.messages (s.setBc { s.bc with failures := 0, line := none }) := by
  unfold frameGood
  rw [h]
  dsimp only
  rw [if_neg (by simp [d])]

theorem frameGood_dormant {s : State} {f : StationFrame} (h : s.bc.line = some (.station f)) (d : s.bc.dormantNext = true) :
    frameGood s = enterDormant (s.setBc { s.bc with failures := 0, line := none }) := by
  unfold frameGood
  rw [h]
  dsimp only
  rw [if_pos (by exact d)]

theorem frameGood_other {s : State} (h : ∀ f, s.bc.line ≠ some (.station f)) : frameGood s = s := by
  unfold frameGood
  split
  · rename_i f e
    exact absurd e (h f)
  · rfl

/-- Settles O16. -/
theorem ownFrameIsGood : Obligations.OwnFrameIsGood := by
  refine ⟨fun f s r line d => ?_, fun s r h => by rw [exec_ownFrameGood r, frameGood_other h]⟩
  rw [exec_ownFrameGood r, frameGood_stays line d, takeMessages_filter]
  rfl

/-! ## Commands heard -/

theorem exec_stationFrame {s : State} (h : s.ready) (l : List Byte) (a b : Nat) :
    exec (.stationFrameReceived l a b) s = .next (takeStation l a b s) := congrArg Host.Outcome.next (act_ready h _)

theorem exec_validMark {s : State} (h : s.ready) (l : List Byte) (ms : Nat) (p : Bool) :
    exec (.validMark l ms p) s = .next (takeMark l ms p s) := congrArg Host.Outcome.next (act_ready h _)

theorem exec_localRoundTimer {s : State} (h : s.ready) (p : Bool) :
    exec (.localRoundTimer p) s = .next (roundTimer p s) := congrArg Host.Outcome.next (act_ready h _)

/-! ## The address clash (R12) -/

theorem clash_serving {s : State} (h : s.serving = true) :
    clash s = enterSilent .silentClash (report (.peer s.ident.address .clash) s) := by
  unfold clash
  cases e : s.bc.busState <;> simp_all [State.serving]

theorem clash_listen {s : State} (h : s.bc.busState = .listen) (c : s.bc.clash = false) :
    clash s = report (.peer s.ident.address .clash) (s.setBc { s.bc with clash := true }) := by
  unfold clash
  simp [h, c]

theorem clash_silent {s : State} (h : s.bc.busState = .silent ∨ (s.bc.busState = .listen ∧ s.bc.clash = true)) : clash s = s := by
  unfold clash
  rcases h with h | ⟨h, c⟩
  · rw [h]
  · rw [h]
    exact if_pos c

theorem report_length (b : ReportBody) (s : State) :
    s.port.ring.length ≤ (report b s).port.ring.length ∧ (report b s).port.ring.length ≤ s.port.ring.length + 1 := by
  by_cases h : s.port.ring.length < 32
  · rw [report_joins b h]
    simp
  · rw [report_full b (by omega)]
    simp [markLoss_length]

theorem report_setBc (b : ReportBody) {s : State} {x : BusCtl} (h : x.round = s.bc.round) :
    report b (s.setBc x) = (report b s).setBc x := by
  unfold report
  rw [State.setBc_port, State.setBc_bc, h]
  split <;> rfl

/-- What is told on the way into SILENT stays told there. -/
theorem enterSilent_keepsTold {r s : State} {k : Nat} {b : ReportBody} (h : r.tells s k b) (n : BusNews) :
    r.tells (enterSilent n s) k b := by
  obtain ⟨v, g, e, -⟩ := enterSilent_eq n s
  have t : r.tells (s.silenced v g) k b := h
  rw [e]
  exact t.later (report_works (Works.refl _) _)

/-- The clash of a serving station: SILENT's state, the failure count kept, and both records (R9, R12, R29). -/
theorem clash_silentOf {s : State} (h : s.serving = true) : s.silentOf (clash s) ∧ (clash s).bc.failures = s.bc.failures ∧
    (clash s).pins = s.pins ∧ s.tells (clash s) 1 (.peer s.ident.address .clash) ∧ s.tells (clash s) 1 (.bus .silentClash) := by
  rw [clash_serving h]
  have told := report_tells s (.peer s.ident.address .clash)
  have len := report_length (.peer s.ident.address .clash) s
  obtain ⟨l, e⟩ := report_ring (.peer s.ident.address .clash) s
  obtain ⟨silent, bus, bc⟩ := enterSilent_silentOf .silentClash (report (.peer s.ident.address .clash) s)
  have peer := enterSilent_keepsTold told .silentClash
  have pins : (enterSilent .silentClash (report (.peer s.ident.address .clash) s)).pins = (report (.peer s.ident.address .clash) s).pins := by
    obtain ⟨v, g, k, -⟩ := enterSilent_eq .silentClash (report (.peer s.ident.address .clash) s)
    rw [k, (report_works (Works.refl _) _).pins]
    rfl
  refine ⟨?_, ?_, ?_, peer.weaken (Nat.zero_le 1), bus.earlier len.1 len.2⟩
  · rw [e] at silent ⊢
    exact silent
  · rw [bc, report_bc]
    rfl
  · rw [pins, e]
    rfl

/-- A clash in LISTEN sets the flag, and the record is that of the station as it stood. -/
theorem clash_flag {s : State} {x : BusCtl} (h : x.busState = .listen) (c : x.clash = false) (r : x.round = s.bc.round) :
    clash (s.setBc x) = { report (.peer s.ident.address .clash) s with bc := { x with clash := true } } := by
  rw [clash_listen (by exact h) (by exact c)]
  exact report_setBc (x := { x with clash := true }) _ r

theorem hearing_of_serving {s : State} (h : s.serving = true) : s.hearing = true := by
  unfold State.hearing
  unfold State.serving at h
  cases e : s.bc.busState <;> simp_all

theorem hearing_of_silent {s : State} (h : s.bc.busState = .silent ∨ (s.bc.busState = .listen ∧ s.bc.clash = true)) :
    s.hearing = true := by
  unfold State.hearing
  rcases h with h | ⟨h, -⟩ <;> simp [h]

/-- A frame from this station's own address, wherever its slot, is a clash. -/
theorem takeStation_clash {s : State} {l : List Byte} {f : StationFrame} {first last : Nat} (r : readFrame l = some f)
    (own : f.source = s.ident.address) (w : s.bc.clock = none ∨ (first ≤ last ∧ slotAt first = slotAt last ∧ last < 100))
    (g : s.graceEnds last = false) (h : s.hearing = true) : takeStation l first last s = clash s := by
  have slot : withinSlot first last s = true := by
    unfold withinSlot
    rcases w with w | ⟨a, b, c⟩
    · simp [w]
    · simp [a, b, c]
  unfold takeStation
  rw [r]
  dsimp only
  rw [if_pos (by simp [h, slot])]
  unfold frameHeard
  rw [if_pos own, if_neg (by simp [g])]

/-- The bus controller with its clock moved on to an instant, or left unaligned. -/
def BusCtl.clockTo (b : BusCtl) (ms : Nat) : BusCtl := { b with clock := b.clock.map fun c => max c ms }

theorem BusCtl.clockTo_none {b : BusCtl} (h : b.clock = none) (ms : Nat) : b.clockTo ms = b := by
  unfold BusCtl.clockTo
  rw [h, Option.map_none, ← h]

theorem BusCtl.clockTo_some {b : BusCtl} {c : Nat} (h : b.clock = some c) (ms : Nat) :
    b.clockTo ms = { b with clock := some (max c ms) } := by
  unfold BusCtl.clockTo
  rw [h, Option.map_some]

theorem timeTo_unaligned {s : State} (h : s.bc.clock = none) (ms : Nat) : timeTo ms s = s := by
  unfold timeTo
  rw [h]

theorem timeTo_clockTo {s : State} {ms : Nat} (g : s.graceEnds ms = false) : (timeTo ms s).bc = s.bc.clockTo ms := by
  cases k : s.bc.clock with
  | none => rw [timeTo_unaligned k, BusCtl.clockTo_none k]
  | some c => rw [timeTo_bc k ms g, BusCtl.clockTo_some k]

theorem timeTo_quiet {s : State} {ms : Nat} (n : s.port.phase = .normal) : timeTo ms s = s.setBc (s.bc.clockTo ms) := by
  cases k : s.bc.clock with
  | none =>
    rw [timeTo_unaligned k, BusCtl.clockTo_none k]
    rfl
  | some c => rw [timeTo_normal k n, BusCtl.clockTo_some k]

theorem takeMark_hears {s : State} {l : List Byte} {r : Word} {a ms : Nat} (k : readMark l = some (r, a)) (h : s.hearing = true)
    (g : s.graceEnds ms = false) (p : Bool) : takeMark l ms p s = markHeard r a ms p (timeTo ms s) := by
  have h' : (timeTo ms s).hearing = true := by
    unfold State.hearing at h ⊢
    rw [timeTo_clockTo g]
    exact h
  unfold takeMark
  rw [k]
  dsimp only
  rw [if_pos h, if_pos h']

/-- A MARK with this station's address that is not its own good one is a clash. -/
theorem takeMark_clash {s : State} {l : List Byte} {r : Word} {ms : Nat} (k : readMark l = some (r, s.ident.address))
    (line : s.bc.line ≠ some (.mark r)) (g : s.graceEnds ms = false) (p : Bool) (h : s.hearing = true) :
    takeMark l ms p s = clash (timeTo ms s) := by
  rw [takeMark_hears k h g]
  have i := (timeTo_only g).ident
  unfold markHeard State.ownMark
  rw [timeTo_clockTo g, i, if_neg (by simp [BusCtl.clockTo, line]), if_pos rfl]

/-- Settles O20. -/
theorem addressClash : Obligations.AddressClash := by
  refine ⟨fun l f first last s r k own w g => ⟨fun h => ?_, fun h c => ?_, fun h => ?_⟩,
    fun l ms p r s rd k line g => ⟨fun h => ?_, fun h n c => ?_, fun n h => ?_⟩⟩
  · refine ⟨_, (exec_stationFrame r _ _ _).trans (congrArg _ (takeStation_clash k own w g (hearing_of_serving h))), ?_⟩
    obtain ⟨silent, failures, -, peer, bus⟩ := clash_silentOf h
    exact ⟨silent, failures, peer, bus⟩
  · refine ⟨_, (exec_stationFrame r _ _ _).trans (congrArg _ (takeStation_clash k own w g (by simp [State.hearing, h]))), ?_⟩
    have e : clash s = _ := clash_flag (s := s) (x := s.bc) h c rfl
    rw [e]
    exact ⟨rfl, rfl⟩
  · rw [exec_stationFrame r, takeStation_clash k own w g (hearing_of_silent h), clash_silent h]
  · refine ⟨_, (exec_validMark rd _ _ _).trans (congrArg _ (takeMark_clash k line g p (hearing_of_serving h))), ?_⟩
    have o := timeTo_only g
    have bc := timeTo_clockTo g
    have sv : (timeTo ms s).serving = true := by
      unfold State.serving at h ⊢
      rw [bc]
      exact h
    obtain ⟨silent, failures, pins, peer, bus⟩ := clash_silentOf sv
    generalize timeTo ms s = u at o bc silent failures pins peer bus
    have same := o.same
    rw [bc] at same failures
    refine ⟨?_, failures, ?_, ?_, ?_⟩
    · rw [same] at silent ⊢
      exact silent
    · rw [pins, same]
    · rw [same] at peer ⊢
      exact peer
    · rw [same] at bus ⊢
      exact bus
  · refine ⟨_, (exec_validMark rd _ _ _).trans (congrArg _ (takeMark_clash k line g p (by simp [State.hearing, h]))), ?_⟩
    rw [timeTo_quiet n, clash_flag (x := s.bc.clockTo ms) h c rfl]
    exact ⟨rfl, rfl⟩
  · rw [exec_validMark rd, takeMark_clash k line g p (hearing_of_silent h), timeTo_quiet n]
    exact congrArg _ (clash_silent (by exact h))

end Sys2Proof.Machine
end

section

namespace Sys2Proof.Machine

/-! ## What the queue and the ring gain -/

/-- From `s` to `t` the identity, the pins, the bus controller but its queue and the port but its ring stand, and the ring has only grown. -/
structure Grows (s t : State) : Prop where
  ident : t.ident = s.ident
  pins : t.pins = s.pins
  bc : t.bc = { s.bc with queue := t.bc.queue }
  port : t.port = { s.port with ring := t.port.ring }
  ring : s.port.ring.map Report.made <+: t.port.ring.map Report.made

theorem Works.grows {s t : State} (w : Works s t) : Grows s t := ⟨w.ident, w.pins, w.bc, w.port, w.ring⟩

namespace Grows

theorem refl (s : State) : Grows s s := (Works.refl s).grows

theorem trans {s t u : State} (h : Grows s t) (k : Grows t u) : Grows s u where
  ident := k.ident.trans h.ident
  pins := k.pins.trans h.pins
  bc := by rw [k.bc, h.bc]
  port := by rw [k.port, h.port]
  ring := h.ring.trans k.ring

theorem fold {α : Type} {f : State → α → State} (hf : ∀ s a, Grows s (f s a)) (l : List α) (s : State) : Grows s (l.foldl f s) := by
  induction l generalizing s with
  | nil => exact .refl s
  | cons a l ih => exact (hf s a).trans (ih _)

theorem putRoster (s : State) (a : Nat) (e : RosterEntry) : Grows s (s.putRoster a e) := by
  rw [putRoster_eq]
  exact ⟨rfl, rfl, rfl, rfl, List.prefix_refl _⟩

theorem putNwt (s : State) (a : Nat) (e : Option NwtEntry) : Grows s (s.putNwt a e) := by
  rw [putNwt_eq]
  exact ⟨rfl, rfl, rfl, rfl, List.prefix_refl _⟩

theorem dueIf (c : Bool) (e : Due) (s : State) : Grows s (dueIf c e s) := by
  unfold Sys2Proof.Machine.dueIf
  split
  · exact ⟨rfl, rfl, rfl, rfl, List.prefix_refl _⟩
  · exact .refl s

end Grows

/-- A record told stays told while the ring only grows. -/
theorem State.tells.grows {s t u : State} {n : Nat} {b : ReportBody} (h : s.tells t n b) (w : Grows t u) : s.tells u n b := by
  intro r
  obtain ⟨x, hx, rfl, hr⟩ := h r
  have p := (List.IsPrefix.drop w.ring s.port.ring.length).subset
    (show x.made ∈ (t.port.ring.map Report.made).drop s.port.ring.length by
      rw [← List.map_drop]; exact List.mem_map_of_mem hx)
  rw [← List.map_drop] at p
  obtain ⟨y, hy, e⟩ := List.mem_map.mp p
  have round : u.bc.round = t.bc.round := by rw [w.bc]
  exact ⟨y, hy, congrArg Prod.fst e, by rw [round, ← hr]; exact congrArg Prod.snd e⟩

/-! ## Missed slots (R26, R27) -/

/-- The slot of an address is not counted as missed: its own, not occurred, or heard. -/
theorem missSlot_kept {ran : Nat} {s : State} {a : Nat} (h : a = s.ident.address ∨ a ∈ s.bc.heard) : missSlot ran s a = s := by
  unfold missSlot
  rw [if_pos]
  rcases h with h | h <;> simp [h]

theorem missSlot_absent {ran : Nat} {s : State} {a : Nat} (h : (s.rosterOf a).presence = .absent) : missSlot ran s a = s := by
  unfold missSlot
  dsimp only
  rw [h]
  exact ite_self _

theorem missSlot_grows (ran : Nat) (s : State) (a : Nat) : Grows s (missSlot ran s a) := by
  unfold missSlot
  dsimp only
  repeat' split
  · exact .refl s
  · exact .refl s
  · exact (Grows.putRoster s a _).trans (.putNwt _ a _)
  · exact .putRoster s a _
  · exact ((Grows.putRoster s a _).trans (.putNwt _ a _)).trans (peerGone_works (reportPeer_works (Works.refl _) _ _) _).grows

/-- The entries of the other addresses stand. -/
theorem missSlot_other (ran : Nat) (s : State) {a b : Nat} (h : b ≠ a) : (missSlot ran s a).rosterOf b = s.rosterOf b := by
  unfold missSlot
  dsimp only
  repeat' split
  · rfl
  · rfl
  · rw [putNwt_rosterOf, rosterOf_putRoster_other s h]
  · rw [rosterOf_putRoster_other s h]
  · rw [(peerGone_works (reportPeer_works (Works.refl _) _ _) _).rosterOf, putNwt_rosterOf, rosterOf_putRoster_other s h]

/-- A missed slot makes no address PRESENT. -/
theorem missSlot_present {ran : Nat} {s : State} {a b : Nat} (h : ((missSlot ran s a).rosterOf b).presence = .present) :
    (s.rosterOf b).presence = .present := by
  by_cases d : b = a
  · subst d
    by_contra n
    have put : ∀ e : RosterEntry, e.presence ≠ .present → ((s.putRoster b e).rosterOf b).presence ≠ .present := by
      intro e k
      rw [rosterOf_putRoster]
      split
      · exact k
      · exact n
    revert h
    unfold missSlot
    dsimp only
    repeat' split
    · exact n
    · exact n
    · rename_i k
      exact absurd k n
    · rename_i k _
      exact put _ (by simp [k])
    · rw [(peerGone_works (reportPeer_works (Works.refl _) _ _) _).rosterOf, putNwt_rosterOf]
      exact put _ (by simp [RosterEntry.absent])
  · rwa [missSlot_other ran s d] at h

theorem missedSlots_after (ran : Nat) (s : State) :
    Works (addresses.foldl (missSlot ran) s) (missedSlots ran s) := by
  unfold missedSlots
  dsimp only
  split
  · exact scanQueue_works (Works.refl _)
  · exact Works.refl _

theorem missedSlots_grows (ran : Nat) (s : State) : Grows s (missedSlots ran s) :=
  (Grows.fold (missSlot_grows ran) addresses s).trans (missedSlots_after ran s).grows

/-- The own entry and those of the addresses heard stand. -/
theorem missSlots_kept (ran : Nat) (l : List Nat) {s : State} {b : Nat} (h : b = s.ident.address ∨ b ∈ s.bc.heard) :
    (l.foldl (missSlot ran) s).rosterOf b = s.rosterOf b := by
  induction l generalizing s with
  | nil => rfl
  | cons a l ih =>
    have g := missSlot_grows ran s a
    have step : (missSlot ran s a).rosterOf b = s.rosterOf b := by
      by_cases d : b = a
      · rw [missSlot_kept (d ▸ h)]
      · exact missSlot_other ran s d
    exact (ih (by rw [g.ident, g.bc]; exact h)).trans step

theorem missedSlots_kept (ran : Nat) {s : State} {b : Nat} (h : b = s.ident.address ∨ b ∈ s.bc.heard) :
    (missedSlots ran s).rosterOf b = s.rosterOf b :=
  ((missedSlots_after ran s).rosterOf b).trans (missSlots_kept ran _ h)

theorem missSlots_present {ran : Nat} {l : List Nat} {s : State} {b : Nat}
    (h : ((l.foldl (missSlot ran) s).rosterOf b).presence = .present) : (s.rosterOf b).presence = .present := by
  induction l generalizing s with
  | nil => exact h
  | cons a l ih => exact missSlot_present (ih h)

theorem missedSlots_present {ran : Nat} {s : State} {b : Nat} (h : ((missedSlots ran s).rosterOf b).presence = .present) :
    (s.rosterOf b).presence = .present := by
  rw [(missedSlots_after ran s).rosterOf] at h
  exact missSlots_present h

theorem mem_addresses {a : Nat} : a ∈ addresses ↔ validAddr a = true := by
  unfold addresses validAddr
  simp
  constructor
  · rintro ⟨n, h, rfl⟩
    omega
  · exact fun h => ⟨a - 1, by omega, by omega⟩

theorem foldl_fixed {α β : Type} {f : β → α → β} {s : β} {l : List α} (h : ∀ a ∈ l, f s a = s) : l.foldl f s = s := by
  induction l with
  | nil => rfl
  | cons a l ih =>
    rw [List.foldl_cons, h a List.mem_cons_self]
    exact ih fun b m => h b (List.mem_cons_of_mem a m)

/-- With every station heard no slot is missed. -/
theorem missedSlots_allHeard (ran : Nat) {s : State} (h : s.allHeard) : missedSlots ran s = s := by
  have none : ∀ a ∈ addresses, missSlot ran s a = s ∧ losesPeer ran s a = false := by
    intro a m
    by_cases own : a = s.ident.address
    · exact ⟨missSlot_kept (.inl own), by simp [losesPeer, own]⟩
    · rcases h a (mem_addresses.mp m) own with k | k
      · exact ⟨missSlot_absent k, by simp [losesPeer, k]⟩
      · exact ⟨missSlot_kept (.inr k), by simp [losesPeer, k]⟩
  unfold missedSlots
  dsimp only
  rw [foldl_fixed fun a m => (none a m).1, if_neg]
  intro k
  obtain ⟨k, -⟩ := (Bool.and_eq_true _ _).mp k
  obtain ⟨a, m, k⟩ := List.any_eq_true.mp k
  rw [(none a m).2] at k
  cases k

end Sys2Proof.Machine
end

section

namespace Sys2Proof.Machine

/-! ## What the arbiter and the Tank Manager touch -/

/-- From `s` to `t` nothing changed but actuators, segments, tanks and the transmit queue. -/
def Serves (s t : State) : Prop :=
  t = { s with act := t.act, sga := t.sga, tkm := t.tkm, bc := { s.bc with queue := t.bc.queue } }

namespace Serves

theorem refl (s : State) : Serves s s := rfl

theorem trans {s t u : State} (h : Serves s t) (k : Serves t u) : Serves s u := by
  unfold Serves at h k ⊢
  rw [k, h]

theorem fold {α : Type} {f : State → α → State} (hf : ∀ s a, Serves s (f s a)) (l : List α) (s : State) : Serves s (l.foldl f s) := by
  induction l generalizing s with
  | nil => exact .refl s
  | cons a l ih => exact (hf s a).trans (ih _)

theorem putAct (s : State) (a : Nat) (x : Actuator) : Serves s (s.putAct a x) := rfl
theorem putSeg (s : State) (i : Nat) (x : Segment) : Serves s (s.putSeg i x) := rfl
theorem holdWaits (s : State) (l : List HoldWait) : Serves s (s.setHoldWaits l) := rfl
theorem tkm (s : State) (x : Tanks) : Serves s (s.setTkm x) := rfl

theorem port {s t : State} (h : Serves s t) : t.port = s.port := by rw [h]

theorem cle {s t : State} (h : Serves s t) : t.cle = s.cle := by rw [h]

theorem busState {s t : State} (h : Serves s t) : t.bc.busState = s.bc.busState := by rw [h]

end Serves

theorem offer_serves (m : Message) (s : State) : Serves s (offer m s).1 := by
  unfold offer
  split <;> rfl

theorem send_serves (d : Nat) (b : MsgBody) (s : State) : Serves s (send d b s) := offer_serves _ s

theorem startTravel_serves (a : Nat) (u : ActuatorSetup) (o : Bool) (s : State) : Serves s (startTravel a u o s).1 := by
  unfold startTravel
  dsimp only
  split <;> rfl

theorem openRole_serves (r : Role) (s : State) : Serves s (openRole r s).1 := by
  unfold openRole openReq
  split
  · split
    · rfl
    · dsimp only
      split
      · rfl
      · split
        · split
          · rfl
          · exact (Serves.putAct s _ _).trans (startTravel_serves _ _ _ _)
        · rfl
  · rfl

/-- The actuator of a role has that role. -/
theorem actWith_role {s : State} {r : Role} {a : Nat} (h : s.actWith r = some a) {u : ActuatorSetup} (k : s.actSetup a = some u) :
    u.role = r := by
  have e := List.find?_some h
  rw [k] at e
  simpa using e

/-- A close request of any role but HIGHPRESS stops no channel. -/
theorem closeRole_serves {r : Role} (h : r ≠ .highpress) (s : State) : Serves s (closeRole r s).1 := by
  unfold closeRole closeReq
  split
  · rename_i a e
    split
    · rfl
    · rename_i u k
      have q : u.role ≠ .highpress := by rwa [actWith_role e k]
      unfold stopQuality
      dsimp only
      rw [if_neg q]
      split <;> split
      · rfl
      · rfl
      · exact startTravel_serves _ _ _ _
      · exact (Serves.putAct s a _).trans (startTravel_serves _ _ _ _)
  · rfl

theorem refuseWaiters_serves (i : Nat) (s : State) : Serves s (refuseWaiters i s) :=
  (Serves.holdWaits s _).trans (Serves.fold (fun s _ => send_serves _ _ s) _ _)

theorem giveAttempt_serves (i : Nat) (id : ClaimId) (s : State) : Serves s (giveAttempt i id s) := by
  have o := openRole_serves (.segment i) s
  unfold giveAttempt
  dsimp only
  generalize (openRole (.segment i) s).1 = u at o
  have c := (o.trans (closeRole_serves (r := .segment i) (by simp) u)).trans (Serves.putSeg _ i ⟨.fault, none, 0⟩)
  split
  · exact (o.trans (Serves.putSeg u i _)).trans (send_serves _ _ _)
  · split
    · exact c.trans (send_serves _ _ _)
    · exact (c.trans (send_serves _ _ _)).trans (refuseWaiters_serves i _)

theorem clearFault_serves (i : Nat) (s : State) : Serves s (clearFault i s) := by
  unfold clearFault
  dsimp only
  repeat' split
  all_goals rfl

theorem releaseSeg_serves (i : Nat) (s : State) : Serves s (releaseSeg i s) := by
  have c : ∀ s, Serves s (closeRole (.segment i) s).1 := closeRole_serves (by simp)
  unfold releaseSeg
  split
  · dsimp only
    have f := (c s).trans (Serves.putSeg _ i ⟨.free, none, 0⟩)
    split
    · exact (f.trans (Serves.holdWaits _ _)).trans (giveAttempt_serves _ _ _)
    · exact f
  · exact ((Serves.putSeg s i ⟨.fault, none, 0⟩).trans (c _)).trans (clearFault_serves _ _)
  · rfl

theorem peerSegments_serves (a : Nat) (s : State) : Serves s (peerSegments a s) := by
  refine (Serves.holdWaits s _).trans (Serves.fold (fun s i => ?_) _ _)
  unfold dropHold
  repeat' split
  · exact releaseSeg_serves i s
  · rfl
  · rfl

theorem sweepSegments_serves (src inc : Nat) (l : List ClaimItem) (s : State) : Serves s (sweepSegments src inc l s) := by
  refine (Serves.holdWaits s _).trans (Serves.fold (fun s i => ?_) _ _)
  unfold sweepHold
  dsimp only
  repeat' split
  · rfl
  · rfl
  · exact releaseSeg_serves i s
  · rfl
  · rfl

theorem scanQueue_serves (s : State) : Serves s (scanQueue s) := by
  refine Serves.fold (fun s w => ?_) _ s
  unfold scanEntry
  split
  · exact ((Serves.tkm s _).trans (Serves.tkm _ _)).trans (send_serves _ _ _)
  · rfl

theorem peerTanks_serves (a : Nat) (s : State) : Serves s (peerTanks a s) := rfl

/-- A memory entry examined offers at most a REVOKE (R119). -/
theorem examineMemory_state (src inc : Nat) (l : List ClaimItem) (x : Revoked) (s : State) :
    (examineMemory src inc l x s).1 = s ∨ ∃ m, (examineMemory src inc l x s).1 = (offer m s).1 := by
  unfold examineMemory
  split
  · split
    · split
      · exact .inr ⟨_, rfl⟩
      · exact .inl rfl
    · exact .inl rfl
  · exact .inl rfl

theorem examineEntries_serves (src inc : Nat) (l : List ClaimItem) (m : List Revoked) (s : State) :
    Serves s (examineEntries src inc l m s).1 := by
  induction m generalizing s with
  | nil => rfl
  | cons x m ih =>
    refine Serves.trans ?_ (ih _)
    rcases examineMemory_state src inc l x s with e | ⟨o, e⟩
    · rw [e]
      rfl
    · rw [e]
      exact offer_serves o s

theorem recordTanks_serves (src inc : Nat) (l : List ClaimItem) (s : State) : Serves s (recordTanks src inc l s) := by
  have e : ∀ s, Serves s (examineRevoked src inc l s) := fun s => (examineEntries_serves _ _ _ _ s).trans (Serves.tkm _ _)
  unfold recordTanks
  dsimp only
  split
  · exact (((Serves.tkm s _).trans (Serves.tkm _ _)).trans (Serves.tkm _ _)).trans ((e _).trans (scanQueue_serves _))
  · exact (((Serves.tkm s _).trans (Serves.tkm _ _)).trans (Serves.tkm _ _)).trans (e _)

/-! ## A peer gone, where no claim is listed -/

theorem endWhere_noClaims {s : State} (h : s.cle.list = []) (p : Claim → Bool) (r : EndReason) : endWhere p r s = s := by
  unfold endWhere State.seqsWhere
  rw [h]
  rfl

theorem peerGone_serves {s : State} (h : s.cle.list = []) (a : Nat) : Serves s (peerGone a s) := by
  unfold peerGone peerClaims
  rw [endWhere_noClaims h]
  exact (peerTanks_serves a s).trans (peerSegments_serves a _)

theorem passRecord_serves {s : State} (h : s.cle.list = []) (a inc : Nat) (r : StatusRecord) : Serves s (passRecord a inc r s) := by
  unfold passRecord recordClaims
  rw [endWhere_noClaims h]
  exact (recordTanks_serves _ _ _ s).trans (sweepSegments_serves _ _ _ _)

end Sys2Proof.Machine
end

section

namespace Sys2Proof.Machine

/-! ## The records of losses (R29) -/

/-- In LISTEN a peer event makes no record (R29). -/
theorem reportPeer_listen {s : State} (h : s.bc.busState = .listen) (a : Nat) (n : PeerNews) : reportPeer a n s = s := by
  unfold reportPeer
  rw [if_neg (by simp [State.serving, h])]

theorem reportPeer_cle (a : Nat) (n : PeerNews) (s : State) : (reportPeer a n s).cle = s.cle := by
  unfold reportPeer
  split <;> simp

theorem reportPeer_length (a : Nat) (n : PeerNews) (s : State) :
    s.port.ring.length ≤ (reportPeer a n s).port.ring.length ∧ (reportPeer a n s).port.ring.length ≤ s.port.ring.length + 1 := by
  unfold reportPeer
  split
  · exact report_length _ s
  · exact ⟨Nat.le_refl _, Nat.le_succ _⟩

/-- From `s` to `t` no claim came, at most `n` records joined the ring, and none in LISTEN. -/
structure Unclaims (n : Nat) (s t : State) : Prop where
  claims : t.cle.list = []
  busState : t.bc.busState = s.bc.busState
  longer : s.port.ring.length ≤ t.port.ring.length
  few : t.port.ring.length ≤ s.port.ring.length + n
  listen : s.bc.busState = .listen → t.port = s.port

theorem Unclaims.refl {s : State} (h : s.cle.list = []) : Unclaims 0 s s := ⟨h, rfl, Nat.le_refl _, Nat.le_refl _, fun _ => rfl⟩

theorem Unclaims.trans {s t u : State} {n m : Nat} (h : Unclaims n s t) (k : Unclaims m t u) : Unclaims (n + m) s u :=
  ⟨k.claims, k.busState.trans h.busState, h.longer.trans k.longer, by have := h.few; have := k.few; omega,
    fun l => (k.listen (h.busState.trans l)).trans (h.listen l)⟩

theorem Unclaims.weaken {s t : State} {n m : Nat} (h : Unclaims n s t) (k : n ≤ m) : Unclaims m s t :=
  ⟨h.claims, h.busState, h.longer, h.few.trans (by omega), h.listen⟩

theorem Serves.unclaims {s t : State} (h : Serves s t) (k : s.cle.list = []) : Unclaims 0 s t :=
  ⟨by rw [h.cle]; exact k, h.busState, by rw [h.port], by rw [h.port]; exact Nat.le_refl _, fun _ => h.port⟩

theorem putRoster_unclaims {s : State} (k : s.cle.list = []) (a : Nat) (e : RosterEntry) : Unclaims 0 s (s.putRoster a e) := by
  rw [putRoster_eq]
  exact ⟨k, rfl, Nat.le_refl _, Nat.le_refl _, fun _ => rfl⟩

theorem putNwt_unclaims {s : State} (k : s.cle.list = []) (a : Nat) (e : Option NwtEntry) : Unclaims 0 s (s.putNwt a e) := by
  rw [putNwt_eq]
  exact ⟨k, rfl, Nat.le_refl _, Nat.le_refl _, fun _ => rfl⟩

theorem reportPeer_unclaims {s : State} (k : s.cle.list = []) (a : Nat) (n : PeerNews) : Unclaims 1 s (reportPeer a n s) :=
  ⟨by rw [reportPeer_cle]; exact k, (reportPeer_works (Works.refl s) a n).busState, (reportPeer_length a n s).1,
    (reportPeer_length a n s).2, fun l => by rw [reportPeer_listen l]⟩

theorem missSlot_unclaims {s : State} (k : s.cle.list = []) (ran a : Nat) : Unclaims 1 s (missSlot ran s a) := by
  unfold missSlot
  dsimp only
  repeat' split
  · exact (Unclaims.refl k).weaken (by omega)
  · exact (Unclaims.refl k).weaken (by omega)
  · have r := putRoster_unclaims k a
    exact ((r _).trans (putNwt_unclaims (r _).claims a _)).weaken (by omega)
  · exact (putRoster_unclaims k a _).weaken (by omega)
  · have r := putRoster_unclaims k a RosterEntry.absent
    have n := r.trans (putNwt_unclaims r.claims a none)
    have l := n.trans (reportPeer_unclaims n.claims a (.lost (s.rosterOf a).incarnation (s.rosterOf a).leaving))
    exact l.trans ((peerGone_serves l.claims a).unclaims l.claims)

theorem missSlots_unclaims {s : State} (k : s.cle.list = []) (ran : Nat) (l : List Nat) :
    Unclaims l.length s (l.foldl (missSlot ran) s) := by
  induction l generalizing s with
  | nil => exact .refl k
  | cons a l ih =>
    have m := missSlot_unclaims k ran a
    exact (m.trans (ih m.claims)).weaken (by simp; omega)

/-- The count of missed slots with no claim listed: at most 24 losses and their records, and no record in LISTEN. -/
theorem missedSlots_unclaims {s : State} (k : s.cle.list = []) (ran : Nat) : Unclaims 24 s (missedSlots ran s) := by
  have m : Unclaims 24 s (addresses.foldl (missSlot ran) s) := missSlots_unclaims k ran addresses
  unfold missedSlots
  dsimp only
  split
  · exact m.trans ((scanQueue_serves _).unclaims m.claims)
  · exact m

/-! ## The record of a hushed station (R37) -/

/-- What the sampled record is made of. -/
structure SameRecord (s t : State) : Prop where
  pls : t.pls = s.pls
  setup : t.setup = s.setup
  ila : t.ila = s.ila
  mch : t.mch = s.mch
  trs : t.trs = s.trs
  seg : t.sga.seg = s.sga.seg
  claims : t.cle.list = s.cle.list
  fill : ∀ i, (t.tankOf i).fill = (s.tankOf i).fill
  grants : ∀ i, (t.tankOf i).grants = (s.tankOf i).grants

theorem SameRecord.refl (s : State) : SameRecord s s := ⟨rfl, rfl, rfl, rfl, rfl, rfl, rfl, fun _ => rfl, fun _ => rfl⟩

theorem SameRecord.trans {s t u : State} (h : SameRecord s t) (k : SameRecord t u) : SameRecord s u :=
  ⟨k.pls.trans h.pls, k.setup.trans h.setup, k.ila.trans h.ila, k.mch.trans h.mch, k.trs.trans h.trs, k.seg.trans h.seg,
    k.claims.trans h.claims, fun i => (k.fill i).trans (h.fill i), fun i => (k.grants i).trans (h.grants i)⟩

theorem SameRecord.sampleRecord {s t : State} (h : SameRecord s t) : t.sampleRecord = s.sampleRecord := by
  obtain ⟨pls, setup, ila, mch, trs, seg, claims, fill, grants⟩ := h
  have flags : t.flags = s.flags := by
    unfold State.flags State.flag State.program State.cell
    rw [setup, ila]
  have tanks : t.tankItem = s.tankItem := by
    funext i
    unfold State.tankItem State.available State.headroom State.limit State.room State.committed State.committedIn State.capacity
      State.levelCh State.plan State.tankSetup
    rw [fill, grants, setup, mch, pls]
  have segments : t.segItem = s.segItem := by
    funext i
    unfold State.segItem State.segOf
    rw [seg]
  have train : t.trainGroup = s.trainGroup := by
    unfold State.trainGroup State.destination State.destEntry
    rw [setup, mch, trs]
  unfold State.sampleRecord State.hasTank State.hasSegment State.tankSetup
  rw [flags, tanks, segments, train, claims, setup, pls]

theorem SameRecord.putRoster (s : State) (a : Nat) (e : RosterEntry) : SameRecord s (s.putRoster a e) := by
  rw [putRoster_eq]
  exact ⟨rfl, rfl, rfl, rfl, rfl, rfl, rfl, fun _ => rfl, fun _ => rfl⟩

theorem SameRecord.putNwt (s : State) (a : Nat) (e : Option NwtEntry) : SameRecord s (s.putNwt a e) := by
  rw [putNwt_eq]
  exact ⟨rfl, rfl, rfl, rfl, rfl, rfl, rfl, fun _ => rfl, fun _ => rfl⟩

theorem SameRecord.setBc (s : State) (x : BusCtl) : SameRecord s (s.setBc x) :=
  ⟨rfl, rfl, rfl, rfl, rfl, rfl, rfl, fun _ => rfl, fun _ => rfl⟩

theorem SameRecord.setPins (s : State) (x : Pins) : SameRecord s (s.setPins x) :=
  ⟨rfl, rfl, rfl, rfl, rfl, rfl, rfl, fun _ => rfl, fun _ => rfl⟩

/-- Grants filtered where there are none. -/
theorem SameRecord.noGrants {s : State} (h : ∀ i, (s.tankOf i).grants = []) (t : Nat) (f : Grant → Bool) :
    SameRecord s (s.setGrants t ((s.tankOf t).grants.filter f)) := by
  have tank : ∀ i, (s.setGrants t ((s.tankOf t).grants.filter f)).tankOf i = s.tankOf i := by
    intro i
    rw [h]
    unfold State.setGrants State.putTank State.tankOf
    simp only [State.setTkm_tkm, look_put]
    split
    · rename_i e
      have g : (look s.tkm.tank TankState.initial t).grants = [] := h t
      rw [← e.1, List.filter_nil, ← g]
    · rfl
  exact ⟨rfl, rfl, rfl, rfl, rfl, rfl, rfl, fun i => by rw [tank], fun i => by rw [tank]⟩

theorem peerGone_hush {s : State} (h : s.hush) (a : Nat) : SameRecord s (peerGone a s) := by
  have claims : peerClaims a s = s := h.endWhere _ _
  have tanks : SameRecord s (peerTanks a s) := by
    have q := SameRecord.noGrants h.noGrants 0 fun g => !(g.id.address == a)
    have r := SameRecord.noGrants (fun i => by rw [q.grants]; exact h.noGrants i) 1 fun g => !(g.id.address == a)
    exact (q.trans r).trans ⟨rfl, rfl, rfl, rfl, rfl, rfl, rfl, fun _ => rfl, fun _ => rfl⟩
  have segments : ∀ t : State, t.hush → SameRecord t (peerSegments a t) := by
    intro t k
    have f : peerSegments a t = t.setHoldWaits (t.sga.waits.filter (·.id.address != a)) := by
      refine foldl_fixed fun i _ => ?_
      unfold dropHold
      rw [show ((t.setHoldWaits (t.sga.waits.filter (·.id.address != a))).segOf i).holder = none from k.noHolder i]
    rw [f]
    exact ⟨rfl, rfl, rfl, rfl, rfl, rfl, rfl, fun _ => rfl, fun _ => rfl⟩
  unfold peerGone
  rw [claims]
  exact tanks.trans (segments _ (h.peerTanks a))

/-- In LISTEN a missed slot does not show in the record. -/
theorem missSlot_hush {s : State} (h : s.hush) (l : s.bc.busState = .listen) (ran a : Nat) :
    SameRecord s (missSlot ran s a) ∧ (missSlot ran s a).hush := by
  unfold missSlot
  dsimp only
  repeat' split
  · exact ⟨.refl s, h⟩
  · exact ⟨.refl s, h⟩
  · exact ⟨(SameRecord.putRoster s a _).trans (.putNwt _ a _), (h.putRoster a _).putNwt a _⟩
  · exact ⟨.putRoster s a _, h.putRoster a _⟩
  · rw [reportPeer_listen (by rw [putNwt_bc, putRoster_bc]; exact l)]
    have q := (h.putRoster a RosterEntry.absent).putNwt a none
    exact ⟨((SameRecord.putRoster s a _).trans (.putNwt _ a _)).trans (peerGone_hush q a), q.peerGone a⟩

theorem missedSlots_hush {s : State} (h : s.hush) (l : s.bc.busState = .listen) (ran : Nat) : SameRecord s (missedSlots ran s) := by
  have all : ∀ (as : List Nat) (s : State), s.hush → s.bc.busState = .listen →
      SameRecord s (as.foldl (missSlot ran) s) ∧ (as.foldl (missSlot ran) s).hush := by
    intro as
    induction as with
    | nil => exact fun s h _ => ⟨.refl s, h⟩
    | cons a as ih =>
      intro s h l
      obtain ⟨r, k⟩ := missSlot_hush h l ran a
      obtain ⟨r', k'⟩ := ih _ k (by rw [(missSlot_grows ran s a).bc]; exact l)
      exact ⟨r.trans r', k'⟩
  obtain ⟨r, k⟩ := all addresses s h l
  unfold missedSlots
  dsimp only
  split
  · rw [k.scanQueue]
    exact r
  · exact r

end Sys2Proof.Machine
end

section

namespace Sys2Proof.Machine

/-! ## A boundary in its parts (R3) -/

/-- The bus controller with the round opened (R3, R15). -/
def BusCtl.rounded (src : BoundarySource) (b : BusCtl) : BusCtl :=
  match src with
  | .mark r _ => { b with round := r, markless := 0, numberTaken := false }
  | .timer => { b with round := if b.numberTaken then b.round else b.round + 1, markless := min 255 (b.markless + 1), numberTaken := false }

/-- A holder that hears a MARK of a lower address (R17). -/
def BusCtl.yields (src : BoundarySource) (own : Nat) (b : BusCtl) : Bool :=
  match src with
  | .mark _ sender => b.markHolder && decide (sender < own)
  | .timer => false

/-- The bus controller with the flag and backoff as a yield leaves them (R17). -/
def BusCtl.yielded (src : BoundarySource) (own : Nat) (b : BusCtl) : BusCtl :=
  if b.yields src own then { b with markHolder := false, backoff := 0 } else b

theorem openRound_eq (src : BoundarySource) (s : State) : openRound src s = s.setBc (s.bc.rounded src) := by
  unfold openRound BusCtl.rounded
  split <;> rfl

theorem yieldMark_eq (src : BoundarySource) (s : State) : yieldMark src s = s.setBc (s.bc.yielded src s.ident.address) := by
  unfold yieldMark BusCtl.yielded BusCtl.yields
  split
  · rfl
  · split <;> rfl

/-- The boundary's pins and round. -/
def State.roundOpened (s : State) (src : BoundarySource) (p : Bool) : State :=
  (s.setPins { s.pins with permit := p }).setBc (s.bc.rounded src)

/-- The count of missed slots, where the round closed was aligned (R26). -/
def State.slotsCounted (s : State) (src : BoundarySource) (ran : Nat) (p : Bool) : State :=
  if s.bc.clock.isSome then missedSlots ran (s.roundOpened src p) else s.roundOpened src p

/-- The boundary up to the new round's slots. -/
def State.slotsOpened (s : State) (src : BoundarySource) (ran now : Nat) (p : Bool) : State :=
  openSlots now (yieldMark src (s.slotsCounted src ran p))

/-- The boundary up to the listen count. -/
def State.listenCounted (s : State) (src : BoundarySource) (ran now : Nat) (p : Bool) : State :=
  if s.bc.clock.isSome then countListen (s.slotsOpened src ran now p) else s.slotsOpened src ran now p

theorem boundary_eq (src : BoundarySource) (ran now : Nat) (p : Bool) (s : State) :
    boundary src ran now p s = boundaryBlocks p (testTakeover src (s.listenCounted src ran now p)) := by
  unfold State.listenCounted State.slotsOpened State.slotsCounted State.roundOpened boundary
  dsimp only
  rw [openRound_eq]
  rfl

/-! ## Up to the new round's slots -/

/-- The bus controller's new round: number, flag and slots (R2, R3, R17). -/
def BusCtl.newRound (src : BoundarySource) (own now : Nat) (b : BusCtl) : BusCtl :=
  { (b.rounded src).yielded src own with clock := some now, heard := [], slotTaken := false }

theorem slotsCounted_grows (s : State) (src : BoundarySource) (ran : Nat) (p : Bool) :
    Grows (s.roundOpened src p) (s.slotsCounted src ran p) := by
  unfold State.slotsCounted
  split
  · exact missedSlots_grows ran _
  · exact .refl _

theorem slotsOpened_eq (s : State) (src : BoundarySource) (ran now : Nat) (p : Bool) :
    s.slotsOpened src ran now p = (s.slotsCounted src ran p).setBc
      { s.bc.newRound src s.ident.address now with queue := (s.slotsCounted src ran p).bc.queue } := by
  have g := slotsCounted_grows s src ran p
  unfold State.slotsOpened
  generalize s.slotsCounted src ran p = u at g
  have b : u.bc = { s.bc.rounded src with queue := u.bc.queue } := g.bc
  have i : u.ident = s.ident := g.ident
  rw [yieldMark_eq]
  unfold openSlots
  simp only [State.setBc, i]
  generalize u.bc.queue = q at b
  rw [b]
  have y : ({ s.bc.rounded src with queue := q } : BusCtl).yielded src s.ident.address =
      { (s.bc.rounded src).yielded src s.ident.address with queue := q } := by
    have c : ({ s.bc.rounded src with queue := q } : BusCtl).yields src s.ident.address = (s.bc.rounded src).yields src s.ident.address := by
      cases src <;> rfl
    unfold BusCtl.yielded
    rw [c]
    split <;> rfl
  rw [y]
  rfl

theorem slotsOpened_bc (s : State) (src : BoundarySource) (ran now : Nat) (p : Bool) : (s.slotsOpened src ran now p).bc =
    { s.bc.newRound src s.ident.address now with queue := (s.slotsCounted src ran p).bc.queue } := by
  rw [slotsOpened_eq]
  rfl

theorem slotsOpened_ident (s : State) (src : BoundarySource) (ran now : Nat) (p : Bool) : (s.slotsOpened src ran now p).ident = s.ident := by
  rw [slotsOpened_eq]
  exact (slotsCounted_grows s src ran p).ident

theorem slotsOpened_pins (s : State) (src : BoundarySource) (ran now : Nat) (p : Bool) :
    (s.slotsOpened src ran now p).pins = { s.pins with permit := p } := by
  rw [slotsOpened_eq]
  exact (slotsCounted_grows s src ran p).pins

/-- The own entry and those of the addresses heard stand. -/
theorem slotsOpened_kept {s : State} {b : Nat} (h : b = s.ident.address ∨ b ∈ s.bc.heard) (src : BoundarySource) (ran now : Nat) (p : Bool) :
    (s.slotsOpened src ran now p).rosterOf b = s.rosterOf b := by
  have heard : (s.bc.rounded src).heard = s.bc.heard := by cases src <;> rfl
  rw [slotsOpened_eq]
  change (s.slotsCounted src ran p).rosterOf b = _
  unfold State.slotsCounted
  split
  · exact missedSlots_kept ran (h.imp_right fun h => by
      change b ∈ (s.bc.rounded src).heard
      rwa [heard])
  · rfl

/-- No address becomes PRESENT. -/
theorem slotsOpened_present {s : State} {b : Nat} {src : BoundarySource} {ran now : Nat} {p : Bool}
    (h : ((s.slotsOpened src ran now p).rosterOf b).presence = .present) : (s.rosterOf b).presence = .present := by
  rw [slotsOpened_eq] at h
  change ((s.slotsCounted src ran p).rosterOf b).presence = _ at h
  unfold State.slotsCounted at h
  split at h
  · exact missedSlots_present (s := s.roundOpened src p) h
  · exact h

/-! ## The takeover test and the blocks (R16, R17) -/

/-- What the source of a boundary asks for a takeover. -/
def BoundarySource.mayTake (src : BoundarySource) (s : State) : Bool :=
  match src with
  | .timer => decide (3 ≤ s.bc.markless)
  | .mark _ sender => decide (s.ident.address < sender)

/-- The takeover test passes (R16, R17). -/
def State.takes (s : State) (src : BoundarySource) : Bool :=
  s.bc.busState == .joined && !s.bc.markHolder && s.lowest && src.mayTake s

theorem testTakeover_eq (src : BoundarySource) (s : State) : testTakeover src s = if s.takes src then takeover s else s := by
  unfold testTakeover State.takes BoundarySource.mayTake
  by_cases h : (decide (s.bc.busState = .joined) && !s.bc.markHolder && s.lowest) = true
  · have k : (s.bc.busState == .joined && !s.bc.markHolder && s.lowest) = true := h
    rw [if_pos h, k, Bool.true_and]
    cases src <;> simp
  · have k : (s.bc.busState == .joined && !s.bc.markHolder && s.lowest) = false := by simpa using h
    rw [if_neg h, k, Bool.false_and, if_neg (by simp)]

theorem lowest_iff (s : State) : s.lowest = true ↔
    ∀ a, validAddr a = true → a < s.ident.address → (s.rosterOf a).presence ≠ .present := by
  unfold State.lowest
  rw [List.all_eq_true]
  constructor
  · intro h a v l
    simpa [l] using h a (mem_addresses.mpr v)
  · intro h a m
    by_cases l : a < s.ident.address
    · simpa [l] using h a (mem_addresses.mp m) l
    · simp [l]

theorem boundaryBlocks_grows (p : Bool) (s : State) : Grows s (boundaryBlocks p s) := by
  have claims : ∀ s, Grows s (boundaryClaims s) := fun s => ⟨rfl, rfl, rfl, rfl, List.prefix_refl _⟩
  have train : ∀ s, Grows s (boundaryTrain p s) := fun s => by
    have w := phaseTick_works (mapTrs_works (Works.refl s) fun t => sensorTick (productTicks s.mch.quality.window (permitTick p t)))
    exact w.grows.trans ⟨rfl, rfl, rfl, rfl, List.prefix_refl _⟩
  unfold boundaryBlocks
  exact (((((Grows.dueIf _ _ s).trans (boundarySegments_works (boundaryTanks_works (Works.refl _))).grows).trans (claims _)).trans
    (Grows.dueIf _ _ _)).trans (Grows.dueIf _ _ _)).trans (train _)

theorem boundaryBlocks_same (p : Bool) (s : State) : SameRoster s (boundaryBlocks p s) := by
  have due : ∀ c e s, SameRoster s (dueIf c e s) := fun c e s => by
    unfold dueIf
    split <;> exact ⟨rfl, rfl, rfl, rfl, rfl⟩
  have claims : ∀ s, SameRoster s (boundaryClaims s) := fun s => ⟨rfl, rfl, rfl, rfl, rfl⟩
  have train : ∀ s, SameRoster s (boundaryTrain p s) := fun s => by
    have w := phaseTick_works (mapTrs_works (Works.refl s) fun t => sensorTick (productTicks s.mch.quality.window (permitTick p t)))
    exact ((SameRoster.refl s).works w).trans ⟨rfl, rfl, rfl, rfl, rfl⟩
  unfold boundaryBlocks
  exact (((((due _ _ s).works (boundarySegments_works (boundaryTanks_works (Works.refl _)))).trans (claims _)).trans
    (due _ _ _)).trans (due _ _ _)).trans (train _)

theorem SameRoster.rosterOf {s t : State} (h : SameRoster s t) (a : Nat) : t.rosterOf a = s.rosterOf a := by
  unfold State.rosterOf
  rw [h.roster]

theorem SameRoster.nwtOf {s t : State} (h : SameRoster s t) (a : Nat) : t.nwtOf a = s.nwtOf a := by
  unfold State.nwtOf
  rw [h.nwt]

/-- What a boundary does once the listen count is done: the flag by the takeover test with its BUS record, and the blocks. -/
theorem boundary_rest (src : BoundarySource) (p : Bool) (w : State) :
    (boundaryBlocks p (testTakeover src w)).bc = { w.bc with
        markHolder := w.bc.markHolder || w.takes src
        queue := (boundaryBlocks p (testTakeover src w)).bc.queue } ∧
      (boundaryBlocks p (testTakeover src w)).pins = w.pins ∧
      (boundaryBlocks p (testTakeover src w)).port = { w.port with ring := (boundaryBlocks p (testTakeover src w)).port.ring } ∧
      (∀ a, (boundaryBlocks p (testTakeover src w)).rosterOf a = w.rosterOf a) ∧
      (∀ a, (boundaryBlocks p (testTakeover src w)).nwtOf a = w.nwtOf a) ∧
      (w.takes src = true → w.tells (boundaryBlocks p (testTakeover src w)) 0 (.bus .takeover)) := by
  have g := boundaryBlocks_grows p (testTakeover src w)
  have r := boundaryBlocks_same p (testTakeover src w)
  generalize boundaryBlocks p (testTakeover src w) = t at g r
  rw [testTakeover_eq] at g r
  cases k : w.takes src with
  | false =>
    rw [k, if_neg (by simp)] at g r
    exact ⟨by rw [g.bc, Bool.or_false], g.pins, g.port, r.rosterOf, r.nwtOf, nofun⟩
  | true =>
    rw [k, if_pos rfl] at g r
    have q : Works (w.setBc { w.bc with markHolder := true }) (takeover w) := report_works (Works.refl _) _
    have all := q.grows.trans g
    have told : w.tells (takeover w) 0 (.bus .takeover) := report_tells (w.setBc { w.bc with markHolder := true }) _
    have same := (SameRoster.refl _).works q |>.trans r
    exact ⟨by rw [all.bc, Bool.or_true]; rfl, all.pins, all.port, same.rosterOf, same.nwtOf, fun _ => told.grows g⟩

/-! ## Entry to JOINED (R11, R28, R35, R200) -/

/-- The own roster entry made at the entry to JOINED. -/
def State.ownEntry (s : State) : RosterEntry := ⟨.present, s.ident.incarnation, s.bc.round, 0, false⟩

/-- The station JOINED. -/
def State.nowJoined (s : State) : State := s.setBc { s.bc with busState := .joined }

/-- The station JOINED with its own roster entry made. -/
def State.entersJoined (s : State) : State := s.nowJoined.putRoster s.nowJoined.ident.address s.nowJoined.ownEntry

/-- The station JOINED with its record taken. -/
def State.joinedNow (s : State) : State :=
  takeRecord s.nowJoined.ident.address s.entersJoined.ident.incarnation s.entersJoined.bc.round s.entersJoined.sampleRecord
    s.entersJoined

theorem join_eq (s : State) : join s = if s.joinedNow.pins.supplyLow then enterHolding false s.joinedNow else s.joinedNow := by
  unfold join State.joinedNow State.entersJoined State.ownEntry State.nowJoined
  rfl

theorem entersJoined_ident (s : State) : s.entersJoined.ident = s.ident := putRoster_ident _ _ _

theorem entersJoined_bc (s : State) : s.entersJoined.bc = { s.bc with busState := .joined } := putRoster_bc _ _ _

theorem entersJoined_grows (s : State) : Grows s.nowJoined s.entersJoined := .putRoster _ _ _

theorem entersJoined_sampleRecord (s : State) : s.entersJoined.sampleRecord = s.sampleRecord :=
  ((SameRecord.setBc s _).trans (SameRecord.putRoster s.nowJoined _ _)).sampleRecord

theorem joinedNow_grows (s : State) : Grows s.nowJoined s.joinedNow :=
  (entersJoined_grows s).trans ((Grows.putNwt _ _ _).trans (takeRecord_works _ _ _ _ _).grows)

theorem joinedNow_bc (s : State) : s.joinedNow.bc = { s.bc with busState := .joined, queue := s.joinedNow.bc.queue } :=
  (joinedNow_grows s).bc

theorem joinedNow_rosterOf (s : State) (a : Nat) : s.joinedNow.rosterOf a =
    if s.ident.address = a ∧ validAddr s.ident.address = true then s.ownEntry else s.rosterOf a := by
  unfold State.joinedNow
  rw [(takeRecord_works _ _ _ _ _).rosterOf, putNwt_rosterOf]
  exact rosterOf_putRoster _ _ _ _

theorem joinedNow_nwtOf {s : State} (v : validAddr s.ident.address = true) :
    s.joinedNow.nwtOf s.ident.address = some ⟨s.sampleRecord, s.bc.round, s.bc.round, false⟩ := by
  unfold State.joinedNow
  rw [(takeRecord_works _ _ _ _ _).nwtOf, nwtOf_putNwt, if_pos ⟨rfl, v⟩, entersJoined_sampleRecord, entersJoined_bc]

/-- The entry to JOINED, or to HOLDING behind it. -/
theorem join_joined {s : State} (h : s.pins.supplyLow = false) : join s = s.joinedNow := by
  rw [join_eq, (joinedNow_grows s).pins]
  exact if_neg (by rw [show s.nowJoined.pins.supplyLow = false from h]; simp)

theorem join_holding {s : State} (h : s.pins.supplyLow = true) : join s = enterHolding false s.joinedNow := by
  rw [join_eq, (joinedNow_grows s).pins]
  exact if_pos h

/-- HOLDING as its entry leaves it: bus state, grace and own leaving mark, and all else as working operations leave it. -/
theorem enterHolding_spec (first : Bool) (s : State) :
    (enterHolding first s).ident = s.ident ∧ (enterHolding first s).pins = s.pins ∧
      (enterHolding first s).bc = { s.bc with busState := .holding, queue := (enterHolding first s).bc.queue } ∧
      (enterHolding first s).port.phase = .grace ∧ (enterHolding first s).port.supplyTimer = 0 ∧
      (∀ a, (enterHolding first s).rosterOf a = if s.ident.address = a ∧ validAddr s.ident.address = true then
        { s.rosterOf s.ident.address with leaving := true } else s.rosterOf a) ∧
      ∀ a, (enterHolding first s).nwtOf a = s.nwtOf a := by
  obtain ⟨⟨w, -, -⟩, -, -⟩ := enterHolding_halts first s
  have roster := fun a => (w.rosterOf a).trans (entersHolding_rosterOf s a)
  obtain ⟨v, e⟩ := entersHolding_eq s
  rw [e] at w
  exact ⟨w.ident, w.pins, w.bc, by rw [w.port], by rw [w.port], roster, w.nwtOf⟩

/-! ## The listen count (R11) -/

theorem slotsOpened_busState (s : State) (src : BoundarySource) (ran now : Nat) (p : Bool) :
    (s.slotsOpened src ran now p).bc.busState = s.bc.busState ∧ (s.slotsOpened src ran now p).bc.listenCount = s.bc.listenCount ∧
      (s.slotsOpened src ran now p).bc.clash = s.bc.clash := by
  have y : ∀ b : BusCtl, ((b.rounded src).yielded src s.ident.address).busState = b.busState ∧
      ((b.rounded src).yielded src s.ident.address).listenCount = b.listenCount ∧
      ((b.rounded src).yielded src s.ident.address).clash = b.clash := by
    intro b
    unfold BusCtl.yielded
    split <;> cases src <;> exact ⟨rfl, rfl, rfl⟩
  rw [slotsOpened_bc]
  exact y s.bc

/-- The station with its listen count lowered. -/
def State.listened (s : State) : State := s.setBc { s.bc with listenCount := s.bc.listenCount - 1 }

theorem listened_bc (s : State) : s.listened.bc = { s.bc with listenCount := s.bc.listenCount - 1 } := rfl

/-- Outside LISTEN, and at LISTEN's first boundary, the count stands. -/
theorem listenCounted_other {s : State} (h : s.bc.busState ≠ .listen ∨ s.bc.clock = none) (src : BoundarySource) (ran now : Nat)
    (p : Bool) : s.listenCounted src ran now p = s.slotsOpened src ran now p := by
  unfold State.listenCounted
  split
  · rename_i k
    have n : s.bc.busState ≠ .listen := h.resolve_right fun e => by simp [e] at k
    unfold countListen
    rw [if_neg (by rw [(slotsOpened_busState s src ran now p).1]; exact n)]
  · rfl

/-- A boundary in LISTEN after another, the last one or one with the clash flag apart, lowers the count. -/
theorem listenCounted_counts {s : State} (l : s.bc.busState = .listen) (k : s.bc.clock ≠ none)
    (h : s.bc.listenCount ≠ 1 ∨ s.bc.clash = true) (src : BoundarySource) (ran now : Nat) (p : Bool) :
    s.listenCounted src ran now p = (s.slotsOpened src ran now p).listened := by
  obtain ⟨b, n, c⟩ := slotsOpened_busState s src ran now p
  unfold State.listenCounted countListen
  rw [if_pos (Option.isSome_iff_ne_none.mpr k), if_pos (by rw [b]; exact l)]
  dsimp only
  rw [if_neg]
  · rfl
  · simp only [State.setBc_bc, n, c]
    rcases h with h | h <;> simp [h]

/-- The boundary that ends the wait. -/
theorem listenCounted_joins {s : State} (h : s.joinsNow) (src : BoundarySource) (ran now : Nat) (p : Bool) :
    s.listenCounted src ran now p = join (s.slotsOpened src ran now p).listened := by
  obtain ⟨l, k, one, clash⟩ := h
  obtain ⟨b, n, c⟩ := slotsOpened_busState s src ran now p
  unfold State.listenCounted countListen
  rw [if_pos (Option.isSome_iff_ne_none.mpr k), if_pos (by rw [b]; exact l)]
  dsimp only
  rw [if_pos]
  · rfl
  · simp only [State.setBc_bc, n, c]
    simp [one, clash]

/-- What every boundary leaves of the bus controller before the takeover test: the new round, bus state and listen count apart. -/
theorem listenCounted_bc (s : State) (src : BoundarySource) (ran now : Nat) (p : Bool) :
    (s.listenCounted src ran now p).bc = { s.bc.newRound src s.ident.address now with
        busState := (s.listenCounted src ran now p).bc.busState
        listenCount := (s.listenCounted src ran now p).bc.listenCount
        queue := (s.listenCounted src ran now p).bc.queue } ∧
      (s.listenCounted src ran now p).pins = { s.pins with permit := p } ∧
      (s.listenCounted src ran now p).ident = s.ident := by
  have bc := slotsOpened_bc s src ran now p
  have pins := slotsOpened_pins s src ran now p
  have ident := slotsOpened_ident s src ran now p
  by_cases h : s.bc.busState ≠ .listen ∨ s.bc.clock = none
  · rw [listenCounted_other h]
    exact ⟨by rw [bc], pins, ident⟩
  · obtain ⟨l, k⟩ := not_or.mp h
    have l := not_not.mp l
    by_cases c : s.bc.listenCount ≠ 1 ∨ s.bc.clash = true
    · rw [listenCounted_counts l k c]
      exact ⟨by rw [listened_bc, bc], pins, ident⟩
    · obtain ⟨one, clash⟩ := not_or.mp c
      rw [listenCounted_joins ⟨l, k, not_not.mp one, by simpa using clash⟩]
      have g := joinedNow_grows (s.slotsOpened src ran now p).listened
      cases low : s.pins.supplyLow
      · rw [join_joined (by change (s.slotsOpened src ran now p).pins.supplyLow = false; rw [pins]; exact low)]
        refine ⟨?_, g.pins.trans pins, g.ident.trans ident⟩
        rw [joinedNow_bc, listened_bc, bc]
      · rw [join_holding (by change (s.slotsOpened src ran now p).pins.supplyLow = true; rw [pins]; exact low)]
        obtain ⟨i, q, b, -⟩ := enterHolding_spec false (s.slotsOpened src ran now p).listened.joinedNow
        refine ⟨?_, (q.trans g.pins).trans pins, (i.trans g.ident).trans ident⟩
        rw [b, joinedNow_bc, listened_bc, bc]

end Sys2Proof.Machine
end

section

namespace Sys2Proof.Machine

/-! ## Bus state and entries at a boundary (R11, R28, R35, R200) -/

theorem joinedNow_ident (s : State) : s.joinedNow.ident = s.ident := (joinedNow_grows s).ident

/-- The other addresses' entries are not the listen count's. -/
theorem listenCounted_rosterOf {s : State} {a : Nat} (h : a ≠ s.ident.address) (src : BoundarySource) (ran now : Nat) (p : Bool) :
    (s.listenCounted src ran now p).rosterOf a = (s.slotsOpened src ran now p).rosterOf a := by
  have ident : (s.slotsOpened src ran now p).listened.ident.address ≠ a := by
    change (s.slotsOpened src ran now p).ident.address ≠ a
    rw [slotsOpened_ident]
    exact Ne.symm h
  have j := joinedNow_rosterOf (s.slotsOpened src ran now p).listened a
  rw [if_neg fun k => ident k.1] at j
  unfold State.listenCounted countListen
  dsimp only
  repeat' split
  · change (join (s.slotsOpened src ran now p).listened).rosterOf a = _
    rw [join_eq]
    split
    · obtain ⟨-, -, -, -, -, r, -⟩ := enterHolding_spec false (s.slotsOpened src ran now p).listened.joinedNow
      rw [r, joinedNow_ident, if_neg fun k => ident k.1]
      exact j
    · exact j
  · rfl
  · rfl
  · rfl

theorem listenCounted_joined {s : State} (h : s.joinsNow) (low : s.pins.supplyLow = false) (src : BoundarySource) (ran now : Nat)
    (p : Bool) : s.listenCounted src ran now p = (s.slotsOpened src ran now p).listened.joinedNow := by
  rw [listenCounted_joins h]
  refine join_joined ?_
  change (s.slotsOpened src ran now p).pins.supplyLow = false
  rw [slotsOpened_pins]
  exact low

theorem listenCounted_holding {s : State} (h : s.joinsNow) (low : s.pins.supplyLow = true) (src : BoundarySource) (ran now : Nat)
    (p : Bool) : s.listenCounted src ran now p = enterHolding false (s.slotsOpened src ran now p).listened.joinedNow := by
  rw [listenCounted_joins h]
  refine join_holding ?_
  change (s.slotsOpened src ran now p).pins.supplyLow = true
  rw [slotsOpened_pins]
  exact low

/-- The bus state that the boundary comes to. -/
theorem listenCounted_busState (s : State) (src : BoundarySource) (ran now : Nat) (p : Bool) :
    (¬s.joinsNow → (s.listenCounted src ran now p).bc.busState = s.bc.busState) ∧
      (s.joinsNow → s.pins.supplyLow = false → (s.listenCounted src ran now p).bc.busState = .joined) ∧
      (s.joinsNow → s.pins.supplyLow = true → (s.listenCounted src ran now p).bc.busState = .holding) := by
  obtain ⟨b, -, -⟩ := slotsOpened_busState s src ran now p
  refine ⟨fun n => ?_, fun j low => ?_, fun j low => ?_⟩
  · by_cases h : s.bc.busState ≠ .listen ∨ s.bc.clock = none
    · rw [listenCounted_other h]
      exact b
    · obtain ⟨l, k⟩ := not_or.mp h
      rw [listenCounted_counts (not_not.mp l) k]
      · exact b
      · by_contra c
        obtain ⟨one, clash⟩ := not_or.mp c
        exact n ⟨not_not.mp l, k, not_not.mp one, by simpa using clash⟩
  · rw [listenCounted_joined j low, joinedNow_bc]
  · rw [listenCounted_holding j low]
    obtain ⟨-, -, bc, -⟩ := enterHolding_spec false (s.slotsOpened src ran now p).listened.joinedNow
    rw [bc]

/-- The count at a boundary in LISTEN after another. -/
theorem listenCounted_count {s : State} (l : s.bc.busState = .listen) (k : s.bc.clock ≠ none) (src : BoundarySource) (ran now : Nat)
    (p : Bool) : (s.listenCounted src ran now p).bc.listenCount = s.bc.listenCount - 1 := by
  obtain ⟨-, n, -⟩ := slotsOpened_busState s src ran now p
  have e : (s.slotsOpened src ran now p).listened.bc.listenCount = s.bc.listenCount - 1 := by rw [← n]; rfl
  by_cases h : s.bc.listenCount ≠ 1 ∨ s.bc.clash = true
  · rw [listenCounted_counts l k h]
    exact e
  · obtain ⟨one, clash⟩ := not_or.mp h
    rw [listenCounted_joins ⟨l, k, not_not.mp one, by simpa using clash⟩, join_eq]
    split
    · obtain ⟨-, -, bc, -⟩ := enterHolding_spec false (s.slotsOpened src ran now p).listened.joinedNow
      rw [bc, joinedNow_bc]
      exact e
    · rw [joinedNow_bc]
      exact e

/-- The own entries at the entry to JOINED. -/
theorem listenCounted_own {s : State} (h : s.joinsNow) (v : validAddr s.ident.address = true) (src : BoundarySource) (ran now : Nat)
    (p : Bool) : ((s.listenCounted src ran now p).rosterOf s.ident.address) =
        ⟨.present, s.ident.incarnation, (s.bc.newRound src s.ident.address now).round, 0, s.pins.supplyLow⟩ ∧
      (s.listenCounted src ran now p).nwtOf s.ident.address = some ⟨(s.slotsOpened src ran now p).sampleRecord,
        (s.bc.newRound src s.ident.address now).round, (s.bc.newRound src s.ident.address now).round, false⟩ ∧
      (s.pins.supplyLow = true → (s.listenCounted src ran now p).port.phase = .grace ∧
        (s.listenCounted src ran now p).port.supplyTimer = 0) := by
  have i : (s.slotsOpened src ran now p).listened.ident = s.ident := slotsOpened_ident s src ran now p
  have round : (s.slotsOpened src ran now p).listened.bc.round = (s.bc.newRound src s.ident.address now).round := by
    rw [listened_bc, slotsOpened_bc]
  have record : (s.slotsOpened src ran now p).listened.sampleRecord = (s.slotsOpened src ran now p).sampleRecord :=
    (SameRecord.setBc _ _).sampleRecord
  have roster := joinedNow_rosterOf (s.slotsOpened src ran now p).listened s.ident.address
  have nwt := joinedNow_nwtOf (s := (s.slotsOpened src ran now p).listened) (by rw [i]; exact v)
  rw [i, if_pos ⟨rfl, v⟩] at roster
  rw [i, record, round] at nwt
  unfold State.ownEntry at roster
  rw [i, round] at roster
  cases low : s.pins.supplyLow
  · rw [listenCounted_joined h low]
    exact ⟨roster, nwt, nofun⟩
  · rw [listenCounted_holding h low]
    have ij := (joinedNow_grows (s.slotsOpened src ran now p).listened).ident.trans i
    obtain ⟨-, -, -, phase, timer, r, n⟩ := enterHolding_spec false (s.slotsOpened src ran now p).listened.joinedNow
    rw [ij] at r
    refine ⟨?_, (n _).trans nwt, fun _ => ⟨phase, timer⟩⟩
    rw [r, if_pos ⟨rfl, v⟩, roster]

/-- A hushed station's record does not show the boundary's first part. -/
theorem slotsOpened_sampleRecord {s : State} (h : s.hush) (l : s.bc.busState = .listen) (src : BoundarySource) (ran now : Nat)
    (p : Bool) : (s.slotsOpened src ran now p).sampleRecord = s.sampleRecord := by
  have opened : (s.roundOpened src p).hush := (h.setPins _).setBc _ (by cases src <;> rfl)
  have listen : (s.roundOpened src p).bc.busState = .listen := by
    cases src <;> exact l
  have first : SameRecord s (s.roundOpened src p) := (SameRecord.setPins s _).trans (.setBc _ _)
  have counted : SameRecord s (s.slotsCounted src ran p) := by
    unfold State.slotsCounted
    split
    · exact first.trans (missedSlots_hush opened listen ran)
    · exact first
  rw [slotsOpened_eq]
  exact (counted.trans (.setBc _ _)).sampleRecord

/-! ## The takeover (R16, R17) -/

theorem takes_iff (s : State) (src : BoundarySource) : s.takes src = true ↔ s.bc.busState = .joined ∧ s.bc.markHolder = false ∧
    (∀ a, validAddr a = true → a < s.ident.address → (s.rosterOf a).presence ≠ .present) ∧ src.mayTake s = true := by
  rw [← lowest_iff]
  simp [State.takes, and_assoc]

/-- The flag before the takeover test. -/
theorem newRound_markHolder {src : BoundarySource} {own now : Nat} {b : BusCtl} :
    (b.newRound src own now).markHolder = (b.markHolder && !b.yields src own) := by
  unfold BusCtl.newRound BusCtl.yielded
  have y : (b.rounded src).yields src own = b.yields src own := by cases src <;> rfl
  rw [y]
  cases b.yields src own
  · cases src <;> simp [BusCtl.rounded]
  · simp

/-- What the source asks for a takeover, as the state before the boundary shows it. -/
def BoundarySource.asks (src : BoundarySource) (s : State) : Prop :=
  match src with
  | .timer => 2 ≤ s.bc.markless
  | .mark _ sender => s.ident.address < sender

theorem listenCounted_mayTake (s : State) (src : BoundarySource) (ran now : Nat) (p : Bool) :
    src.mayTake (s.listenCounted src ran now p) = true ↔ src.asks s := by
  obtain ⟨bc, -, ident⟩ := listenCounted_bc s src ran now p
  unfold BoundarySource.mayTake BoundarySource.asks
  cases src with
  | timer =>
    dsimp only
    rw [bc]
    change decide (3 ≤ min 255 (s.bc.markless + 1)) = true ↔ _
    simp
  | mark r a =>
    dsimp only
    rw [ident]
    simp

/-- A takeover presupposes the test. -/
theorem takes_tests {s : State} {src : BoundarySource} {ran now : Nat} {p : Bool} (y : s.bc.yields src s.ident.address = false)
    (h : (s.listenCounted src ran now p).takes src = true) : s.testsTakeover := by
  obtain ⟨joined, holder, -, -⟩ := (takes_iff _ _).1 h
  obtain ⟨stays, -, holds⟩ := listenCounted_busState s src ran now p
  rw [(listenCounted_bc s src ran now p).1] at holder
  dsimp only at holder
  rw [newRound_markHolder, y] at holder
  refine ⟨by simpa using holder, ?_⟩
  by_cases j : s.joinsNow
  · refine .inr ⟨j, ?_⟩
    by_contra low
    rw [holds j (by simpa using low)] at joined
    cases joined
  · exact .inl ((stays j).symm.trans joined)

/-- The test passes where no lower address is PRESENT and the source asks for it. -/
theorem takes_of_lowest {s : State} {src : BoundarySource} (ran now : Nat) (p : Bool) (h : s.testsTakeover) (k : src.asks s)
    (low : ∀ a, validAddr a = true → a < s.ident.address → (s.rosterOf a).presence ≠ .present) :
    (s.listenCounted src ran now p).takes src = true := by
  obtain ⟨bc, -, ident⟩ := listenCounted_bc s src ran now p
  obtain ⟨stays, joins, -⟩ := listenCounted_busState s src ran now p
  obtain ⟨holder, state⟩ := h
  refine (takes_iff _ _).2 ⟨?_, ?_, fun a v l => ?_, (listenCounted_mayTake s src ran now p).2 k⟩
  · rcases state with j | ⟨j, sl⟩
    · exact (stays fun n => by rw [n.1] at j; cases j).trans j
    · exact joins j sl
  · rw [bc]
    dsimp only
    rw [newRound_markHolder, holder]
    rfl
  · rw [ident] at l
    rw [listenCounted_rosterOf (by omega)]
    exact fun q => low a v l (slotsOpened_present q)

/-- The test fails where the source does not ask for it, or a lower address heard is PRESENT. -/
theorem takes_not {s : State} {src : BoundarySource} (ran now : Nat) (p : Bool)
    (h : ¬src.asks s ∨ ∃ a ∈ s.bc.heard, validAddr a = true ∧ a < s.ident.address ∧ (s.rosterOf a).presence = .present) :
    (s.listenCounted src ran now p).takes src = false := by
  rw [Bool.eq_false_iff]
  intro k
  obtain ⟨-, -, low, asks⟩ := (takes_iff _ _).1 k
  rcases h with h | ⟨a, heard, v, l, present⟩
  · exact h ((listenCounted_mayTake s src ran now p).1 asks)
  · refine low a v ?_ ?_
    · rw [(listenCounted_bc s src ran now p).2.2]
      exact l
    · rw [listenCounted_rosterOf (by omega), slotsOpened_kept (.inr heard)]
      exact present

theorem joinedNow_unclaims {s : State} (h : s.cle.list = []) : Unclaims 0 s.nowJoined s.joinedNow := by
  have r : Unclaims 0 s.nowJoined s.entersJoined := putRoster_unclaims (s := s.nowJoined) h _ _
  unfold State.joinedNow takeRecord
  generalize s.entersJoined = u at r ⊢
  have n := r.trans (putNwt_unclaims r.claims s.nowJoined.ident.address (some ⟨u.sampleRecord, u.bc.round, u.bc.round, false⟩))
  exact n.trans ((passRecord_serves n.claims _ _ _).unclaims n.claims)

theorem slotsCounted_unclaims {s : State} (h : s.cle.list = []) (src : BoundarySource) (ran : Nat) (p : Bool) :
    Unclaims 24 (s.roundOpened src p) (s.slotsCounted src ran p) := by
  unfold State.slotsCounted
  split
  · exact missedSlots_unclaims (s := s.roundOpened src p) h ran
  · exact (Unclaims.refl (s := s.roundOpened src p) h).weaken (by omega)

theorem slotsCounted_allHeard {s : State} (h : s.allHeard) (src : BoundarySource) (ran : Nat) (p : Bool) :
    s.slotsCounted src ran p = s.roundOpened src p := by
  have k : (s.roundOpened src p).allHeard := by
    cases src <;> exact h
  unfold State.slotsCounted
  rw [missedSlots_allHeard ran k, ite_self]

theorem slotsOpened_port (s : State) (src : BoundarySource) (ran now : Nat) (p : Bool) :
    (s.slotsOpened src ran now p).port = (s.slotsCounted src ran p).port := by
  rw [slotsOpened_eq]
  rfl

/-- The records made before the takeover test: none where no slot is missed, and none in LISTEN; at most 24 with no claim listed. -/
theorem listenCounted_records {s : State} (h : s.testsTakeover) (src : BoundarySource) (ran now : Nat) (p : Bool) :
    ((s.bc.busState = .joined ∧ s.allHeard) ∨ (s.bc.busState = .listen ∧ s.cle.list = []) →
        (s.listenCounted src ran now p).port.ring.length = s.port.ring.length) ∧
      (s.cle.list = [] → s.port.ring.length ≤ (s.listenCounted src ran now p).port.ring.length ∧
        (s.listenCounted src ran now p).port.ring.length ≤ s.port.ring.length + 24) := by
  rcases h.2 with j | ⟨j, low⟩
  · rw [listenCounted_other (.inl (by simp [j])), slotsOpened_port]
    refine ⟨fun k => ?_, fun c => ?_⟩
    · rcases k with ⟨-, heard⟩ | ⟨l, -⟩
      · rw [slotsCounted_allHeard heard]
        rfl
      · rw [j] at l
        cases l
    · have u := slotsCounted_unclaims c src ran p
      exact ⟨u.longer, u.few⟩
  · have same : s.cle.list = [] → (s.listenCounted src ran now p).port.ring.length = s.port.ring.length := by
      intro c
      have u := slotsCounted_unclaims c src ran p
      have port : (s.slotsCounted src ran p).port = s.port := u.listen (by cases src <;> exact j.1)
      have claims : (s.slotsOpened src ran now p).listened.cle.list = [] := by
        rw [slotsOpened_eq]
        exact u.claims
      have q := joinedNow_unclaims claims
      have e : (s.slotsOpened src ran now p).listened.nowJoined.port = s.port := (slotsOpened_port s src ran now p).trans port
      rw [listenCounted_joined j low]
      have := q.longer
      have := q.few
      rw [e] at *
      omega
    refine ⟨fun k => ?_, fun c => by rw [same c]; omega⟩
    rcases k with ⟨l, -⟩ | ⟨-, c⟩
    · rw [j.1] at l
      cases l
    · exact same c

/-- The takeover at a boundary, with its BUS record (R16, R17). -/
theorem boundary_takesOver {s : State} {src : BoundarySource} {ran now : Nat} {p : Bool} (h : s.testsTakeover)
    (k : (s.listenCounted src ran now p).takes src = true) : s.takesOver (boundary src ran now p s) := by
  obtain ⟨bc, -, -, -, -, told⟩ := boundary_rest src p (s.listenCounted src ran now p)
  obtain ⟨same, few⟩ := listenCounted_records h src ran now p
  rw [boundary_eq]
  refine ⟨by rw [bc, k, Bool.or_true], fun q => ?_, fun c => ?_⟩
  · exact (told k).earlier (n := 0) (by rw [same q]) (by rw [same q]; exact Nat.le_refl _)
  · exact (told k).earlier (n := 24) (few c).1 (few c).2

/-- What every boundary leaves: the new round, the flag by yield and takeover, bus state and listen count by the listen count. -/
theorem boundary_bc (src : BoundarySource) (ran now : Nat) (p : Bool) (s : State) :
    (boundary src ran now p s).bc = { s.bc.newRound src s.ident.address now with
        busState := (s.listenCounted src ran now p).bc.busState
        listenCount := (s.listenCounted src ran now p).bc.listenCount
        markHolder := (s.bc.newRound src s.ident.address now).markHolder || (s.listenCounted src ran now p).takes src
        queue := (boundary src ran now p s).bc.queue } ∧
      (boundary src ran now p s).pins = { s.pins with permit := p } := by
  obtain ⟨bc, pins, -⟩ := boundary_rest src p (s.listenCounted src ran now p)
  obtain ⟨wbc, wpins, -⟩ := listenCounted_bc s src ran now p
  rw [← boundary_eq] at bc pins
  refine ⟨?_, pins.trans wpins⟩
  rw [bc]
  generalize (s.listenCounted src ran now p).takes src = k
  generalize (boundary src ran now p s).bc.queue = q
  rw [wbc]

end Sys2Proof.Machine
end

section

namespace Sys2Proof.Machine

/-! ## A boundary at its instant -/

/-- The station moved on to an instant with the grace still running: the clock, the supply timer and the events due. -/
def State.movedTo (s : State) (ms x : Nat) (d : List Due) : State :=
  { s with bc := s.bc.clockTo ms, port := { s.port with supplyTimer := x }, due := d }

theorem timeTo_movedTo {s : State} {ms : Nat} (g : s.graceEnds ms = false) : ∃ x d, timeTo ms s = s.movedTo ms x d := by
  have same := (timeTo_only g).same
  have bc := timeTo_clockTo g
  generalize timeTo ms s = u at same bc
  rw [bc] at same
  exact ⟨_, _, same⟩

theorem movedTo_clock (s : State) (ms x : Nat) (d : List Due) : (s.movedTo ms x d).bc.clock = none ↔ s.bc.clock = none := by
  change s.bc.clock.map _ = none ↔ _
  simp

theorem movedTo_testsTakeover (s : State) (ms x : Nat) (d : List Due) : (s.movedTo ms x d).testsTakeover ↔ s.testsTakeover := by
  unfold State.testsTakeover State.joinsNow
  rw [Ne, movedTo_clock]
  rfl

theorem newRound_eq (src : BoundarySource) (own now : Nat) (b : BusCtl) : b.newRound src own now = { b.rounded src with
    clock := some now
    heard := []
    slotTaken := false
    markHolder := b.markHolder && !b.yields src own
    backoff := if b.yields src own then 0 else b.backoff } := by
  have y : (b.rounded src).yields src own = b.yields src own := by cases src <;> rfl
  unfold BusCtl.newRound BusCtl.yielded
  rw [y]
  cases b.yields src own <;> cases src <;> simp [BusCtl.rounded]

/-- What a boundary in LISTEN does: a first one leaves the count, a later one lowers it, and the last one is the entry to JOINED or HOLDING
with the own entries made (R11, R28, R35, R200). -/
def State.listensTo (s t : State) : Prop :=
  (s.bc.busState = .listen → s.bc.clock = none → t.bc.busState = .listen ∧ t.bc.listenCount = s.bc.listenCount) ∧
    (s.bc.busState = .listen → s.bc.clock ≠ none → t.bc.listenCount = s.bc.listenCount - 1 ∧
      (s.bc.listenCount ≠ 1 ∨ s.bc.clash = true → t.bc.busState = .listen) ∧
      (s.bc.listenCount = 1 → s.bc.clash = false → validAddr s.ident.address = true →
        (t.rosterOf s.ident.address).presence = .present ∧
        (t.rosterOf s.ident.address).incarnation = s.ident.incarnation ∧
        (t.rosterOf s.ident.address).lastHeard = t.bc.round ∧ (t.rosterOf s.ident.address).missed = 0 ∧
        (∃ e, t.nwtOf s.ident.address = some e ∧ e.recordRound = t.bc.round ∧ e.receiptRound = t.bc.round ∧ e.stale = false ∧
          (s.lawEleven → e.record = s.sampleRecord)) ∧
        (s.pins.supplyLow = false → t.bc.busState = .joined ∧ (t.rosterOf s.ident.address).leaving = false) ∧
        (s.pins.supplyLow = true → t.bc.busState = .holding ∧ (t.rosterOf s.ident.address).leaving = true ∧
          t.port.phase = .grace ∧ t.port.supplyTimer = 0)))

theorem boundary_listensTo (src : BoundarySource) (ran now : Nat) (p : Bool) (s : State) : s.listensTo (boundary src ran now p s) := by
  obtain ⟨-, -, port, roster, nwt, -⟩ := boundary_rest src p (s.listenCounted src ran now p)
  obtain ⟨stays, joins, holds⟩ := listenCounted_busState s src ran now p
  obtain ⟨bc, -⟩ := boundary_bc src ran now p s
  rw [← boundary_eq] at port roster nwt
  have state : (boundary src ran now p s).bc.busState = (s.listenCounted src ran now p).bc.busState := by rw [bc]
  have count : (boundary src ran now p s).bc.listenCount = (s.listenCounted src ran now p).bc.listenCount := by rw [bc]
  have round : (boundary src ran now p s).bc.round = (s.bc.newRound src s.ident.address now).round := by rw [bc]
  refine ⟨fun l k => ⟨?_, ?_⟩, fun l k => ⟨?_, fun h => ?_, fun one clash v => ?_⟩⟩
  · rw [state, stays fun j => j.2.1 k, l]
  · rw [count, listenCounted_other (.inr k)]
    exact (slotsOpened_busState s src ran now p).2.1
  · rw [count, listenCounted_count l k]
  · rw [state, stays fun j => ?_, l]
    rcases h with h | h
    · exact h j.2.2.1
    · rw [j.2.2.2] at h
      cases h
  · have j : s.joinsNow := ⟨l, k, one, clash⟩
    obtain ⟨own, record, grace⟩ := listenCounted_own j v src ran now p
    rw [roster, nwt, own, record, round]
    refine ⟨rfl, rfl, rfl, rfl, ⟨_, rfl, rfl, rfl, rfl, fun law => ?_⟩, fun low => ⟨?_, low⟩, fun low => ⟨?_, low, ?_, ?_⟩⟩
    · have hush : s.hush := ((lawEleven_iff s).1 law).resolve_left fun b => by
        have := b.1
        simp [State.serving, l] at this
      exact slotsOpened_sampleRecord hush l src ran now p
    · rw [state, joins j low]
    · rw [state, holds j low]
    · rw [port]
      exact (grace low).1
    · rw [port]
      exact (grace low).2

theorem movedTo_listensTo {s t : State} {ms x : Nat} {d : List Due} (h : (s.movedTo ms x d).listensTo t) : s.listensTo t := by
  unfold State.listensTo at h ⊢
  rw [Ne, movedTo_clock] at h
  exact h

/-- A MARK of another station is a boundary. -/
theorem takeMark_adopts {s : State} {l : List Byte} {r : Word} {a ms : Nat} (k : readMark l = some (r, a)) (n : a ≠ s.ident.address)
    (h : s.hearing = true) (g : s.graceEnds ms = false) (p : Bool) :
    takeMark l ms p s = boundary (.mark r a) ms 0 p (timeTo ms s) := by
  rw [takeMark_hears k h g]
  unfold markHeard State.ownMark
  rw [(timeTo_only g).ident, if_neg (by simp [n]), if_neg n]

/-- The station's own good MARK is its boundary, and the end of its frame. -/
theorem takeMark_own {s : State} {l : List Byte} {r : Word} {ms : Nat} (k : readMark l = some (r, s.ident.address))
    (line : s.bc.line = some (.mark r)) (h : s.hearing = true) (g : s.graceEnds ms = false) (p : Bool) :
    takeMark l ms p s = frameEnded (boundary (.mark r s.ident.address) ms 0 p
      ((timeTo ms s).setBc { (timeTo ms s).bc with line := none })) := by
  rw [takeMark_hears k h g]
  unfold markHeard State.ownMark
  rw [(timeTo_only g).ident, timeTo_clockTo g, if_pos (by simp [BusCtl.clockTo, line])]

theorem takeMark_other {s : State} {l : List Byte} (h : readMark l = none ∨ s.hearing = false) (ms : Nat) (p : Bool) :
    takeMark l ms p s = s := by
  unfold takeMark
  rcases h with h | h
  · rw [h]
  · split
    · simp [h]
    · rfl

theorem boundary_markHolder (src : BoundarySource) (ran now : Nat) (p : Bool) (s : State) : (boundary src ran now p s).bc.markHolder =
    (s.bc.markHolder && !s.bc.yields src s.ident.address || (s.listenCounted src ran now p).takes src) := by
  rw [(boundary_bc src ran now p s).1, newRound_eq]

theorem not_takes_of_not_tests {s : State} {src : BoundarySource} {ran now : Nat} {p : Bool}
    (y : s.bc.yields src s.ident.address = false) (h : ¬s.testsTakeover) : (s.listenCounted src ran now p).takes src = false :=
  Bool.eq_false_iff.mpr fun k => h (takes_tests y k)

theorem frameEnded_boundary {s : State} {src : BoundarySource} {ran now : Nat} {p : Bool} (h : s.bc.dormantNext = false) :
    frameEnded (boundary src ran now p s) = boundary src ran now p s := by
  refine frameEnded_stays ?_
  rw [(boundary_bc src ran now p s).1, newRound_eq]
  cases src <;> exact h

/-- The flag at a MARK heard (R17). -/
theorem markHeard_flag (r : Word) (a ms : Nat) (p : Bool) (s : State) :
    (s.bc.markHolder = true → a < s.ident.address →
      (boundary (.mark r a) ms 0 p s).bc.markHolder = false ∧ (boundary (.mark r a) ms 0 p s).bc.backoff = 0) ∧
    (s.bc.markHolder = true → s.ident.address ≤ a →
      (boundary (.mark r a) ms 0 p s).bc.markHolder = true ∧ (boundary (.mark r a) ms 0 p s).bc.backoff = s.bc.backoff) ∧
    (s.testsTakeover → s.ident.address < a →
      (∀ b, validAddr b = true → b < s.ident.address → (s.rosterOf b).presence ≠ .present) →
      s.takesOver (boundary (.mark r a) ms 0 p s)) ∧
    (s.testsTakeover →
      (a ≤ s.ident.address ∨ ∃ b ∈ s.bc.heard, validAddr b = true ∧ b < s.ident.address ∧ (s.rosterOf b).presence = .present) →
      (boundary (.mark r a) ms 0 p s).bc.markHolder = false) ∧
    (s.bc.markHolder = false → ¬s.testsTakeover → (boundary (.mark r a) ms 0 p s).bc.markHolder = false) := by
  have back : (boundary (.mark r a) ms 0 p s).bc.backoff =
      if s.bc.yields (.mark r a) s.ident.address then 0 else s.bc.backoff := by
    rw [(boundary_bc (.mark r a) ms 0 p s).1, newRound_eq]
  have yields : s.bc.yields (.mark r a) s.ident.address = (s.bc.markHolder && decide (a < s.ident.address)) := rfl
  rw [boundary_markHolder, back, yields]
  refine ⟨fun m l => ?_, fun m l => ?_, fun h l low => boundary_takesOver h (takes_of_lowest ms 0 p h l low), fun h k => ?_, fun m h => ?_⟩
  · rw [takes_not (src := .mark r a) ms 0 p (.inl (Nat.lt_asymm l))]
    simp [m, l]
  · simp [m, l]
  · rw [takes_not (src := .mark r a) ms 0 p (k.imp_left Nat.not_lt.mpr), h.1]
    rfl
  · rw [not_takes_of_not_tests (by rw [yields, m]; rfl) h, m]
    rfl

/-- Settles O17. -/
theorem markIsAdopted : Obligations.MarkIsAdopted := by
  refine ⟨fun l ms p r a s rd hear k n g => ?_, fun l ms p r s rd sv line k dn g => ?_,
    fun l ms p s rd h => by rw [exec_validMark rd, takeMark_other h]⟩
  · refine ⟨_, (exec_validMark rd _ _ _).trans (congrArg _ (takeMark_adopts k n hear g p)), ?_⟩
    obtain ⟨x, d, e⟩ := timeTo_movedTo g
    rw [e]
    obtain ⟨bc, pins⟩ := boundary_bc (.mark r a) ms 0 p (s.movedTo ms x d)
    obtain ⟨yields, holds, takes, leaves, stays⟩ := markHeard_flag r a ms p (s.movedTo ms x d)
    obtain ⟨first, later⟩ := movedTo_listensTo (boundary_listensTo (.mark r a) ms 0 p (s.movedTo ms x d))
    rw [movedTo_testsTakeover] at takes leaves stays
    rw [newRound_eq] at bc
    have round : (boundary (.mark r a) ms 0 p (s.movedTo ms x d)).bc.round = r := by
      rw [bc]
      rfl
    rw [round] at later
    refine ⟨round, by rw [bc]; rfl, by rw [bc], by rw [bc], by rw [bc], by rw [bc]; rfl, by rw [pins], by rw [bc]; rfl, yields,
      fun m l => holds m (Nat.le_of_lt l), takes, fun h k => leaves h (k.imp_left Nat.le_of_lt), stays, first, later⟩
  · refine ⟨_, (exec_validMark rd _ _ _).trans (congrArg _ (takeMark_own k line (hearing_of_serving sv) g p)), ?_⟩
    obtain ⟨x, d, e⟩ := timeTo_movedTo g
    rw [e]
    generalize u : (s.movedTo ms x d).setBc { (s.movedTo ms x d).bc with line := none } = v
    have idle : ¬v.joinsNow := fun j => by
      rw [← u] at j
      have := j.1
      change s.bc.busState = .listen at this
      simp [State.serving, this] at sv
    rw [frameEnded_boundary (by rw [← u]; exact dn)]
    have flag := boundary_markHolder (.mark r s.ident.address) ms 0 p v
    obtain ⟨bc, pins⟩ := boundary_bc (.mark r s.ident.address) ms 0 p v
    rw [newRound_eq, (listenCounted_busState v _ ms 0 p).1 idle] at bc
    have own : v.ident.address = s.ident.address := by rw [← u]; rfl
    have y : v.bc.yields (.mark r s.ident.address) v.ident.address = false := by simp [BusCtl.yields, own]
    rw [y, takes_not (src := .mark r s.ident.address) ms 0 p (.inl (by rw [BoundarySource.asks, own]; exact Nat.lt_irrefl _)),
      Bool.not_false, Bool.and_true, Bool.or_false] at flag
    subst u
    refine ⟨by rw [bc]; rfl, by rw [bc]; rfl, by rw [bc], by rw [bc], by rw [bc], by rw [bc]; rfl, by rw [bc]; rfl, by rw [pins], flag, ?_,
      by rw [bc]; rfl⟩
    rw [bc, y]
    rfl

/-- Bytes heard by the local round timer's boundary: none; it is dated 4 ms back (R3). -/
theorem roundTimer_boundary {s : State} (h : s.hearing = true) (g : s.graceEnds 104 = false) (p : Bool) :
    roundTimer p s = boundary .timer 100 4 p (timeTo 104 s) := by
  have h' : (timeTo 104 s).hearing = true := by
    unfold State.hearing at h ⊢
    rw [timeTo_clockTo g]
    exact h
  unfold roundTimer
  dsimp only
  rw [if_pos h, if_pos h']

/-- The flag at the local timer's boundary (R16). -/
theorem roundTimer_flag (p : Bool) (s : State) :
    (s.testsTakeover → 2 ≤ s.bc.markless →
      (∀ a, validAddr a = true → a < s.ident.address → (s.rosterOf a).presence ≠ .present) →
      s.takesOver (boundary .timer 100 4 p s)) ∧
    (s.testsTakeover →
      (s.bc.markless < 2 ∨ ∃ a ∈ s.bc.heard, validAddr a = true ∧ a < s.ident.address ∧ (s.rosterOf a).presence = .present) →
      (boundary .timer 100 4 p s).bc.markHolder = false) ∧
    (¬s.testsTakeover → (boundary .timer 100 4 p s).bc.markHolder = s.bc.markHolder) := by
  have y : s.bc.yields .timer s.ident.address = false := rfl
  rw [boundary_markHolder, y, Bool.not_false, Bool.and_true]
  refine ⟨fun h k low => boundary_takesOver h (takes_of_lowest 100 4 p h k low), fun h k => ?_, fun h => ?_⟩
  · rw [takes_not (src := .timer) 100 4 p (k.imp_left Nat.not_le.mpr), h.1]
    rfl
  · rw [not_takes_of_not_tests y h, Bool.or_false]

/-- Settles O18. -/
theorem timerSuppliesBoundary : Obligations.TimerSuppliesBoundary := by
  refine ⟨fun p s rd hear g => ?_, fun p s rd h => ?_⟩
  · refine ⟨_, (exec_localRoundTimer rd _).trans (congrArg _ (roundTimer_boundary hear g p)), ?_⟩
    obtain ⟨x, d, e⟩ := timeTo_movedTo g
    rw [e]
    obtain ⟨bc, pins⟩ := boundary_bc .timer 100 4 p (s.movedTo 104 x d)
    obtain ⟨takes, leaves, stays⟩ := roundTimer_flag p (s.movedTo 104 x d)
    obtain ⟨first, later⟩ := movedTo_listensTo (boundary_listensTo .timer 100 4 p (s.movedTo 104 x d))
    rw [movedTo_testsTakeover] at takes leaves stays
    rw [newRound_eq] at bc
    exact ⟨by rw [bc]; rfl, by rw [bc]; rfl, by rw [bc], by rw [bc], by rw [bc], by rw [bc]; rfl, by rw [pins], takes, leaves, stays,
      first, later⟩
  · rw [exec_localRoundTimer rd]
    unfold roundTimer
    simp [h]

end Sys2Proof.Machine
end

section

namespace Sys2Proof.Machine

/-! ## The readback failure count (R8) -/

theorem enterDormant_failures (s : State) : (enterDormant s).bc.failures = s.bc.failures := by
  obtain ⟨v, e, -⟩ := enterDormant_eq s
  rw [e]
  rfl

theorem enterDormant_line (s : State) : (enterDormant s).bc.line = none := by
  obtain ⟨-, -, -, -, line, -⟩ := enterDormant_dormantOf s
  exact line

theorem Grows.failures {s t : State} (h : Grows s t) : t.bc.failures = s.bc.failures := by rw [h.bc]

/-- No event that falls due touches the failure count. -/
theorem perform_failures (s : State) (e : Due) : (perform s e).bc.failures = s.bc.failures := by
  by_cases w : e.works
  · exact (perform_works (Works.refl s) e w.1 w.2.1 w.2.2).grows.failures
  · unfold perform
    split
    case h_3 c =>
      unfold repeatAlarm
      dsimp only
      split
      · exact congrArg BusCtl.failures (report_bc _ s)
      · rfl
    case h_23 =>
      unfold planExchange
      split
      · have r := report_works (Works.refl (s.setPls (exchange s.pls)))
        exact (planSwapped_works (r _)).grows.failures
      · rfl
    case h_24 =>
      unfold graceExpiry
      repeat' split
      · rfl
      · exact enterDormant_failures s
      · rfl
    all_goals exact absurd ⟨nofun, nofun, nofun⟩ w

theorem settle_failures (s : State) : (settle s).bc.failures = s.bc.failures := by
  have all : ∀ (l : List Due) (s : State), (l.foldl perform s).bc.failures = s.bc.failures := by
    intro l
    induction l with
    | nil => exact fun _ => rfl
    | cons e l ih => exact fun s => (ih _).trans (perform_failures s e)
  exact all _ _

theorem frameEnded_failures (s : State) : (frameEnded s).bc.failures = s.bc.failures := by
  unfold frameEnded
  split
  · rw [enterDormant_failures, settle_failures]
  · rfl

theorem boundary_failures (src : BoundarySource) (ran now : Nat) (p : Bool) (s : State) :
    (boundary src ran now p s).bc.failures = s.bc.failures := by
  rw [(boundary_bc src ran now p s).1, newRound_eq]
  cases src <;> rfl

/-- While a frame is being sent no grace ends DORMANT: time passes, and DORMANT may fall due behind the frame (R13). -/
theorem timeTo_sending {s : State} (h : s.bc.line ≠ none) (ms : Nat) : (timeTo ms s).bc.failures = s.bc.failures ∧
    (timeTo ms s).bc.line = s.bc.line ∧ (timeTo ms s).ident = s.ident := by
  obtain ⟨u, o, e⟩ := timeTo_time ms s
  have line : u.bc.line = s.bc.line := by rw [o.same]
  have failures : u.bc.failures = s.bc.failures := by rw [o.same]
  rcases e with e | e
  · rw [e]
    exact ⟨failures, line, o.ident⟩
  · rw [e]
    unfold graceExpiry
    rw [if_pos (show u.bc.line.isSome = true by rw [line]; exact Option.isSome_iff_ne_none.mpr h)]
    split
    · exact ⟨failures, line, o.ident⟩
    · exact ⟨failures, line, o.ident⟩

/-- The own good MARK leaves the count. -/
theorem takeMark_failures {s : State} {l : List Byte} {r : Word} (line : s.bc.line = some (.mark r))
    (k : readMark l = some (r, s.ident.address)) (ms : Nat) (p : Bool) : (takeMark l ms p s).bc.failures = s.bc.failures := by
  have heard : ∀ u : State, u.bc.failures = s.bc.failures → u.bc.line = s.bc.line → u.ident = s.ident →
      (if u.hearing then markHeard r s.ident.address ms p u else u).bc.failures = s.bc.failures := by
    intro u f n i
    split
    · unfold markHeard State.ownMark
      rw [if_pos (by simp [n, i, line]), frameEnded_failures, boundary_failures]
      exact f
    · exact f
  unfold takeMark
  rw [k]
  dsimp only
  split
  · obtain ⟨f, n, i⟩ := timeTo_sending (s := s) (by rw [line]; simp) ms
    exact heard _ f n i
  · rfl

/-- A failed station frame below the eighth failure, no DORMANT waiting. -/
theorem frameFailed_counts {s : State} (d : s.bc.dormantNext = false) (h : s.bc.failures < 7) :
    frameFailed s = s.setBc { s.bc with failures := s.bc.failures + 1, line := none } := by
  unfold frameFailed
  dsimp only
  rw [d, if_neg (by simp), if_neg (by omega), Nat.min_eq_right (by omega)]

/-- The eighth failure: SILENT (R9). -/
theorem frameFailed_eighth {s : State} (d : s.bc.dormantNext = false) (h : s.bc.failures = 7) :
    frameFailed s = enterSilent .silentReadback (s.setBc { s.bc with failures := 8, line := none }) := by
  unfold frameFailed
  dsimp only
  rw [d, if_neg (by simp), if_pos (by omega), h]
  rfl

/-- A failed station frame with DORMANT waiting for its end. -/
theorem frameFailed_dormant {s : State} (d : s.bc.dormantNext = true) (h : s.bc.failures ≤ 7) :
    (frameFailed s).bc.busState = .dormant ∧ (frameFailed s).bc.failures = s.bc.failures + 1 := by
  have n : min 8 (s.bc.failures + 1) = s.bc.failures + 1 := Nat.min_eq_right (by omega)
  have dormant : ∀ u : State, u.bc.failures = s.bc.failures + 1 →
      (enterDormant u).bc.busState = .dormant ∧ (enterDormant u).bc.failures = s.bc.failures + 1 := fun u e =>
    ⟨(enterDormant_plans u).1, by rw [enterDormant_failures, e]⟩
  unfold frameFailed
  dsimp only
  rw [d, if_pos rfl, n]
  split
  · refine dormant _ ?_
    rw [(enterSilent_silentOf _ _).2.2]
    rfl
  · exact dormant _ rfl

theorem warmReset_bc (s : State) : (warmReset s).bc = s.bc.warm s.setup.locked := by
  rw [warmReset_eq]
  split
  · obtain ⟨e, -⟩ := restartActuators_rest (warmed_atRest s)
    rw [e]
    rfl
  · rfl

theorem failures_plain : Plain (fun s => s.bc.failures ≤ 8) where
  works w h := by rw [w.grows.failures]; exact h
  due _ h := h
  fsc _ h := h
  ila _ h := h
  pls _ h := h
  pins _ h := h
  bc x _ _ f h := f.elim (fun e => by rw [State.setBc_bc, e]; exact h) id
  port _ _ h := h
  roster _ h := h
  nwt _ h := h
  busState _ h := h
  warm h := h
  hold _ _ h := h

/-- SILENT's state as seen from before a change of the failure count and the line. -/
theorem silentOf_failed {s t : State} {n : Nat} {o : Option OutFrame} (h : (s.setBc { s.bc with failures := n, line := o }).silentOf t) :
    s.silentOf t := by
  unfold State.silentOf State.rosterOf State.nwtOf State.actSetup at h ⊢
  exact h

/-- The eighth failure is SILENT's state, with the BUS record of its cause the first made (R8, R9). -/
theorem frameFailed_silentOf {s : State} (d : s.bc.dormantNext = false) (h : s.bc.failures = 7) :
    s.silentOf (frameFailed s) ∧ (frameFailed s).bc.failures = 8 ∧ s.tells (frameFailed s) 0 (.bus .silentReadback) := by
  rw [frameFailed_eighth d h]
  obtain ⟨silent, told, bc⟩ := enterSilent_silentOf .silentReadback (s.setBc { s.bc with failures := 8, line := none })
  generalize enterSilent .silentReadback (s.setBc { s.bc with failures := 8, line := none }) = t at silent told bc ⊢
  exact ⟨silentOf_failed silent, by rw [bc]; rfl, told⟩

/-- Settles O15. -/
theorem readbackFailures : Obligations.ReadbackFailures := by
  refine ⟨fun f s r line d n => ?_, fun f s r line d n => ?_, fun f s r line d n => ?_, fun f s r line => ?_, fun w s r line => ?_,
    fun w l ms p s r hear line k => ?_, fun straps s => ?_, fun s low warm => ?_, fun s r => ?_, fun s r again => ?_,
    fun first s r => ?_, fun s r => ?_, ?_, fun b c s r sv taken line k le v g => ?_⟩
  · rw [exec_readbackMismatch r, mismatch_station line, frameFailed_counts d n]
    rfl
  · exact ⟨_, (exec_readbackMismatch r).trans (congrArg _ (mismatch_station line)), frameFailed_silentOf d n⟩
  · refine ⟨_, (exec_readbackMismatch r).trans (congrArg _ (mismatch_station line)), frameFailed_dormant d n⟩
  · refine ⟨_, exec_ownFrameGood r, ?_⟩
    cases d : s.bc.dormantNext
    · rw [frameGood_stays line d]
      have w := takeMessages_works (Works.refl (s.setBc { s.bc with failures := 0, line := none })) f.source f.incarnation f.messages
      exact ⟨by rw [w.bc]; rfl, by rw [w.bc]; rfl⟩
    · rw [frameGood_dormant line d]
      exact ⟨enterDormant_failures _, enterDormant_line _⟩
  · exact ⟨_, (exec_readbackMismatch r).trans (congrArg _ (mismatch_mark line)), frameEnded_failures _⟩
  · exact ⟨_, exec_validMark r _ _ _, takeMark_failures line k ms p⟩
  · exact ⟨_, rfl, rfl⟩
  · refine ⟨_, rfl, ?_⟩
    unfold goCold
    rw [if_pos (by simp [low, warm])]
    rfl
  · refine ⟨_, congrArg Host.Outcome.next (act_ready r resetFalls), ?_⟩
    change (warmReset s).bc.failures = 0
    rw [warmReset_bc]
    rfl
  · refine ⟨_, congrArg Host.Outcome.next (act_ready r selRises), ?_⟩
    unfold selRises
    rw [again, if_pos rfl, warmReset_bc]
    rfl
  · refine ⟨_, congrArg Host.Outcome.next (act_ready (s := supplyPin true s) r (Machine.supplyFails first)), ?_⟩
    unfold Machine.supplyFails
    split
    · obtain ⟨-, -, bc, -⟩ := enterHolding_spec first (supplyPin true s)
      rw [bc]
      rfl
    · rfl
  · refine ⟨_, congrArg (fun t => Host.Outcome.next (supplyPin false t)) (act_ready r supplyReturns), ?_⟩
    unfold supplyReturns
    split <;> rfl
  · exact failures_plain.command (fun _ h => h) (fun _ h => h) fun _ _ _ => Nat.zero_le 8
  · have ready : s.slotReady = true := (slotReady_iff s).2 ⟨sv, taken, line, c, k, le⟩
    have o := timeTo_only g
    refine ⟨_, (exec_ownSlotStart r b).trans (congrArg _ (ownSlot_starts ready g)), ?_⟩
    have clock := timeTo_clock k le g
    generalize timeTo (4 * s.ident.address) s = u at o clock
    obtain ⟨-, bc, queue, -, -⟩ := startSlot_spec (s := u) (by rw [o.ident]; exact v)
    rw [o.compose] at bc queue
    rw [clock] at bc
    obtain ⟨-, -, all, -⟩ := compose_messages s
    exact ⟨by rw [bc], (compose s).1, by rw [bc], rfl, _, all, queue⟩

end Sys2Proof.Machine
end

section

namespace Sys2Proof.Machine

/-! ## The tests of RUN as propositions (Table 11-3) -/

/-- Two neighbours that break a relation. -/
theorem not_isChain_iff {α : Type} {R : α → α → Prop} (l : List α) :
    ¬l.IsChain R ↔ ∃ i, ∃ a, l[i]? = some a ∧ ∃ b, l[i + 1]? = some b ∧ ¬R a b := by
  rw [List.isChain_iff_getElem]
  push Not
  constructor
  · rintro ⟨i, h, n⟩
    exact ⟨i, _, List.getElem?_eq_getElem (by omega), _, List.getElem?_eq_getElem h, n⟩
  · rintro ⟨i, a, ha, b, hb, n⟩
    obtain ⟨h, rfl⟩ := List.getElem?_eq_some_iff.mp ha
    obtain ⟨k, rfl⟩ := List.getElem?_eq_some_iff.mp hb
    exact ⟨i, k, n⟩

theorem ascending_iff (l : List SegId) : ascending l = true ↔ l.IsChain fun a b => segLt a b = true := by
  induction l with
  | nil => simp [ascending]
  | cons a l ih =>
    cases l with
    | nil => simp [ascending]
    | cons b l => rw [ascending, Bool.and_eq_true, ih, List.isChain_cons_cons]

theorem not_ascending_iff (l : List SegId) : (!ascending l) = true ↔ unordered l := by
  rw [Bool.not_eq_true', ← Bool.not_eq_true, ascending_iff, not_isChain_iff]
  simp [unordered, segLt]

theorem rising_iff (l : List (Nat × Nat)) : rising l = true ↔ l.IsChain fun p q => p.1 < q.1 ∧ p.2 ≤ q.2 := by
  induction l with
  | nil => simp [rising]
  | cons p l ih =>
    cases l with
    | nil => simp [rising]
    | cons q l => rw [rising, Bool.and_eq_true, Bool.and_eq_true, decide_eq_true_eq, decide_eq_true_eq, ih, List.isChain_cons_cons]

theorem badTable_iff (s : State) (t : Nat) : badTable s t = true ↔ ∃ u, look s.setup.levels none t = some u ∧
    ((∃ i, ∃ p, u.points[i]? = some p ∧ ∃ q, u.points[i + 1]? = some q ∧ (q.1 ≤ p.1 ∨ q.2 < p.2)) ∨
      ∃ p ∈ u.points, s.capacity t < p.2) := by
  unfold badTable
  cases look s.setup.levels none t with
  | none => simp
  | some u =>
    have r := (rising_iff u.points).not.trans (not_isChain_iff _)
    simp only [Bool.not_and, Bool.or_eq_true, Bool.not_eq_true', ← Bool.not_eq_true, r, not_and_or, Nat.not_lt, Nat.not_le]
    simp

/-- An index found by a search from below is not this one: an earlier one is found. -/
theorem find_range_ne {n i : Nat} {p : Nat → Bool} (h : i < n) (k : p i = true) :
    (List.range n).find? p ≠ some i ↔ ∃ j, j < i ∧ p j = true := by
  rw [Ne, List.find?_range_eq_some]
  simp [h, k]

theorem find_range_none {n : Nat} {p : Nat → Bool} : ((List.range n).find? p).isSome = false ↔ ∀ i, i < n → p i = false := by
  simp

theorem hasRole_iff (s : State) (r : Role) : s.hasRole r = false ↔ s.lacks r := by
  unfold State.hasRole State.actWith State.lacks
  rw [find_range_none]
  refine forall₂_congr fun a _ => ?_
  cases s.actSetup a <;> simp

theorem badTrain_iff (s : State) : badTrain s = true ↔
    ¬((s.setup.train = none ∧ s.setup.destinations = [] ∧ s.setup.quality = none) ∨
      (s.setup.train ≠ none ∧ s.setup.destinations ≠ [] ∧ ∃ q, s.setup.quality = some q ∧ q.accept < q.reject ∧
        q.accept + q.hysteresis + q.hysteresis ≤ q.reject)) := by
  unfold badTrain
  cases s.setup.train <;> cases s.setup.quality <;> simp
  by_cases d : s.setup.destinations = []
  · simp [d]
  · simp [d]
    omega

theorem roleTarget_iff (s : State) (r : Role) : s.roleTarget r = false ↔ s.rolePointsNowhere r := by
  cases r <;> simp [State.roleTarget, State.rolePointsNowhere, State.hasPort]

theorem roleKind_eq (r : Role) : roleKind r = if r = .feed ∨ r = .highpress then .pump else .valve := by
  cases r <;> rfl

theorem badRole_iff (s : State) (a : Nat) : badRole s a = true ↔ ∃ u, s.actSetup a = some u ∧
    ((∃ b, b < a ∧ ∃ v, s.actSetup b = some v ∧ v.role = u.role) ∨ s.rolePointsNowhere u.role ∨
      u.kind ≠ if u.role = .feed ∨ u.role = .highpress then .pump else .valve) := by
  unfold badRole
  cases e : s.actSetup a with
  | none => simp
  | some u =>
    have twice : s.actWith u.role ≠ some a ↔ ∃ b, b < a ∧ ∃ v, s.actSetup b = some v ∧ v.role = u.role := by
      unfold State.actWith
      rw [find_range_ne (actSetup_lt (by rw [e]; rfl)) (by rw [e]; simp)]
      refine exists_congr fun b => and_congr_right fun _ => ?_
      cases s.actSetup b <;> simp
    simp only [Bool.or_eq_true, bne_iff_ne, twice, Bool.not_eq_true', roleTarget_iff, roleKind_eq]
    simp [or_assoc]

theorem badPermissive_iff (s : State) (a : Nat) : badPermissive s a = true ↔
    ∃ u, s.actSetup a = some u ∧ ∃ c, u.permissive = some c ∧ look s.setup.cells none c = none := by
  unfold badPermissive
  cases s.actSetup a with
  | none => simp
  | some u => cases e : u.permissive <;> simp [e]

theorem badContact_iff (s : State) {c : Nat} (h : c < 32) : badContact s c = true ↔
    (∃ b, b < c ∧ (s.contactSetup b).role = (s.contactSetup c).role ∧ (s.contactSetup c).role ≠ .none) ∨
      s.contactMisnames (s.contactSetup c).role := by
  have twice : s.contactWith (s.contactSetup c).role ≠ some c ↔ ∃ b, b < c ∧ (s.contactSetup b).role = (s.contactSetup c).role := by
    unfold State.contactWith
    rw [find_range_ne h (by simp)]
    simp
  unfold badContact State.contactMisnames State.hasAct
  cases e : (s.contactSetup c).role <;> rw [e] at twice <;> simp [twice, or_assoc]

theorem badMap_iff (s : State) : badMap s = true ↔
    (∃ c, c < 32 ∧ ((∃ b, b < c ∧ (s.contactSetup b).role = (s.contactSetup c).role ∧ (s.contactSetup c).role ≠ .none) ∨
      s.contactMisnames (s.contactSetup c).role)) ∨ (s.setup.train ≠ none ∧ ∀ c, c < 32 → (s.contactSetup c).role ≠ .feedOk) := by
  unfold badMap
  rw [Bool.or_eq_true, List.any_eq_true, Bool.and_eq_true]
  refine or_congr (exists_congr fun c => ?_) (and_congr Option.isSome_iff_ne_none ?_)
  · rw [List.mem_range]
    exact and_congr_right fun h => badContact_iff s h
  · unfold State.contactWith
    simp

/-- The nine lowest bits of a word. -/
theorem and_nine_iff (w : Word) : w &&& 0x1FF = 0 ↔ ∀ k, k < 9 → w.getLsbD k = false := by
  have nine : ∀ i : Fin 16, (0x1FF : Word).getLsbD i = decide (i.val < 9) := by decide
  constructor
  · intro h k l
    have b := congrArg (·.getLsbD k) h
    have n := nine ⟨k, by omega⟩
    simp only [BitVec.getLsbD_and] at b
    dsimp only at n
    rw [n] at b
    simpa [l] using b
  · intro h
    refine BitVec.eq_of_getLsbD_eq fun k l => ?_
    rw [BitVec.getLsbD_and, nine ⟨k, l⟩]
    by_cases q : k < 9
    · simp [h k q]
    · simp [q]

theorem badInput_iff (s : State) (i : Input) : badInput s i = true ↔ s.inputMisnames i := by
  cases i <;> simp [badInput, State.inputMisnames, validAddr, ← and_nine_iff, or_assoc]

theorem badCell_iff (s : State) (n : Nat) : badCell s n = true ↔
    ∃ p, look s.setup.cells none n = some p ∧ ∃ i ∈ [p.in0, p.in1, p.in2], s.inputMisnames i := by
  unfold badCell
  cases look s.setup.cells none n with
  | none => simp
  | some p => simp [badInput_iff, or_assoc]

theorem badFill_iff (s : State) (t : Nat) : badFill s t = true ↔ ∃ u, s.fillSetup t = some u ∧
    (s.hasTank t = false ∨ ∃ x ∈ u.sources, x.tank = ⟨s.ident.address, t⟩ ∨ unordered x.path) := by
  unfold badFill
  cases s.fillSetup t with
  | none => simp
  | some u =>
    simp only [Bool.or_eq_true, List.any_eq_true, not_ascending_iff]
    simp

/-! ## The first failing test (R196) -/

/-- The test of a row for an instance, as RUN takes it. -/
def State.fails (s : State) (f : RunFailure) : Bool :=
  match f.reason with
  | .badAddress => !validAddr s.ident.address
  | .noStation => s.setup.station.isNone
  | .noChannel => s.hasTank f.inst != (look s.setup.levels none f.inst).isSome
  | .table => badTable s f.inst
  | .trainParts => badTrain s
  | .noActuator =>
    match f.item with
    | 3 => (look s.setup.ports none f.inst).isSome && !s.hasRole (.outlet f.inst)
    | 2 => s.hasTank f.inst && !s.hasRole (.fill f.inst)
    | 4 => s.hasSegment f.inst && !s.hasRole (.segment f.inst)
    | 5 => s.setup.train.isSome && !(s.hasRole .feed && s.hasRole .highpress && s.hasRole .divert && s.hasRole .flush)
    | _ => false
  | .role => badRole s f.inst
  | .noCell => badPermissive s f.inst
  | .contactMap => badMap s
  | .cell => badCell s f.inst
  | .fillSources => badFill s f.inst
  | .badPath =>
    match f.item with
    | 5 => (match s.setup.train with
      | some u => !ascending u.flushPath
      | none => false)
    | 6 => s.setup.destinations.any fun d => !ascending d.path
    | _ => false

theorem fails_iff (s : State) (f : RunFailure) : s.fails f = true ↔ s.failsTest f := by
  obtain ⟨reason, item, inst⟩ := f
  unfold State.fails State.failsTest
  cases reason <;> dsimp only
  case badAddress => simp [validAddr]
  case noStation => simp
  case noChannel => simp
  case table => exact badTable_iff s inst
  case trainParts => exact badTrain_iff s
  case noActuator =>
    split
    case h_5 n3 n2 n4 n5 => simp [show item ≠ 3 from n3, show item ≠ 2 from n2, show item ≠ 4 from n4, show item ≠ 5 from n5]
    all_goals simp [← hasRole_iff, State.hasPort, Option.isSome_iff_ne_none, or_assoc]
  case role => exact badRole_iff s inst
  case noCell => exact badPermissive_iff s inst
  case contactMap => exact badMap_iff s
  case cell => exact badCell_iff s inst
  case fillSources => exact badFill_iff s inst
  case badPath =>
    split
    · cases s.setup.train <;> simp [← not_ascending_iff]
    · simp [← not_ascending_iff]
    · rename_i n5 n6
      simp [show item ≠ 5 from n5, show item ≠ 6 from n6]

theorem find_row (r : RunReason) (item n : Nat) (s : State) : ((List.range n).map fun i => (⟨r, item, i⟩ : RunFailure)).find? s.fails =
    firstBad r item n fun i => s.fails ⟨r, item, i⟩ := by
  unfold firstBad
  rw [List.find?_map]
  rfl

theorem find_item (r : RunReason) (item : Nat) (s : State) :
    [(⟨r, item, 0⟩ : RunFailure)].find? s.fails = failIf (s.fails ⟨r, item, 0⟩) r item := by
  unfold failIf
  rw [List.find?_singleton]

/-- RUN takes the tests in the order of Table 11-3, and refuses with the first that fails. -/
theorem runFailure_eq (s : State) : runFailure s = runOrder.find? s.fails := by
  have order : runOrder = [⟨.badAddress, 0, 0⟩] ++ ([⟨.noStation, 1, 0⟩] ++ ((List.range 2).map (⟨.noChannel, 10, ·⟩) ++
      ((List.range 2).map (⟨.table, 10, ·⟩) ++ ([⟨.trainParts, 5, 0⟩] ++
      (((List.range 2).map (⟨.noActuator, 3, ·⟩) ++ ((List.range 2).map (⟨.noActuator, 2, ·⟩) ++
        ((List.range 4).map (⟨.noActuator, 4, ·⟩) ++ [⟨.noActuator, 5, 0⟩]))) ++
      ((List.range 12).map (⟨.role, 7, ·⟩) ++ ((List.range 12).map (⟨.noCell, 7, ·⟩) ++ ([⟨.contactMap, 8, 0⟩] ++
      ((List.range 8).map (⟨.cell, 9, ·⟩) ++ ((List.range 2).map (⟨.fillSources, 11, ·⟩) ++
      ([⟨.badPath, 5, 0⟩] ++ [⟨.badPath, 6, 0⟩]))))))))))) := by decide
  rw [order]
  simp only [List.find?_append, find_row, find_item]
  rfl

/-- RUN's test, first of those that fail. -/
theorem runFailure_first {s : State} {k : Nat} {f : RunFailure} (e : runOrder[k]? = some f) (h : s.failsTest f)
    (first : ∀ j, j < k → ∀ g, runOrder[j]? = some g → ¬s.failsTest g) : runFailure s = some f := by
  obtain ⟨l, e⟩ := List.getElem?_eq_some_iff.mp e
  rw [runFailure_eq, List.find?_eq_some_iff_getElem]
  refine ⟨(fails_iff s f).2 h, k, l, e, fun j m => ?_⟩
  rw [Bool.not_eq_true', ← Bool.not_eq_true, fails_iff]
  exact first j m _ (List.getElem?_eq_getElem (by omega))

theorem runFailure_none {s : State} (h : ∀ f ∈ runOrder, ¬s.failsTest f) : runFailure s = none := by
  rw [runFailure_eq, List.find?_eq_none]
  intro f m
  rw [fails_iff]
  exact h f m

/-! ## The start (R196) -/

/-- The station started, the actuators apart. -/
def State.started (s : State) : State :=
  { s with
    setup := { s.setup with locked := true }
    bc := { s.bc with busState := .listen, listenCount := 4, clash := false }
    pls := Plans.atRun s.setup.tanks
    fsc := Scanner.initial
    sga := Segments.initial
    trs := Train.initial false }

theorem startStation_eq (s : State) : startStation s = restartActuators s.started := rfl

theorem exec_run {s : State} (r : s.ready) (o : s.bc.busState = .offline) : exec .run s =
    .next ((askRun s).1.answered (askRun s).2 false false) := by
  have a : answer .run s = askRun s := answer_allowed (by rw [o]; rfl)
  refine (congrArg Host.Outcome.next (act_ready r _)).trans ?_
  rw [takeRequest_answered, a]
  rfl

/-- Settles O59. -/
theorem runStarts : Obligations.RunStarts := by
  refine ⟨fun s r o => ⟨fun k _ f e h first => ?_, fun h => ?_⟩, by decide⟩
  · rw [exec_run r o]
    unfold askRun
    rw [runFailure_first e h first]
    rfl
  · refine ⟨_, exec_run r o, ?_⟩
    unfold askRun
    rw [runFailure_none h]
    dsimp only
    rw [startStation_eq]
    have w := restartActuators_works (Works.refl s.started)
    have safe : s.nothingHeld → (restartActuators s.started).safeActuators := fun n =>
      (restartActuators_rest (s := s.started) ⟨⟨n.1, rfl⟩, rfl⟩).2
    generalize restartActuators s.started = t at w safe
    exact ⟨w.setup, w.still rfl, w.fsc, w.pls, rfl, w.ident, w.roster, w.nwt, safe⟩

end Sys2Proof.Machine
end

section

namespace Sys2Proof.Machine

/-! ## What claims leave of the arbiter and the Tank Manager -/

/-- From `s` to `t` the arbiter stands, and of the Tank Manager the grants, the wait queue and the memory. -/
structure SameHolds (s t : State) : Prop where
  sga : t.sga = s.sga
  waits : t.tkm.waits = s.tkm.waits
  memory : t.tkm.memory = s.tkm.memory
  grants : ∀ i, (t.tankOf i).grants = (s.tankOf i).grants

namespace SameHolds

theorem of {s t : State} (g : t.sga = s.sga) (k : t.tkm = s.tkm) : SameHolds s t :=
  ⟨g, by rw [k], by rw [k], fun i => by unfold State.tankOf; rw [k]⟩

theorem refl (s : State) : SameHolds s s := .of rfl rfl

theorem trans {s t u : State} (h : SameHolds s t) (k : SameHolds t u) : SameHolds s u :=
  ⟨k.sga.trans h.sga, k.waits.trans h.waits, k.memory.trans h.memory, fun i => (k.grants i).trans (h.grants i)⟩

theorem foldl {α : Type} {f : State → α → State} (hf : ∀ s a, SameHolds s (f s a)) (l : List α) (s : State) :
    SameHolds s (l.foldl f s) := by
  induction l generalizing s with
  | nil => exact .refl s
  | cons a l ih => exact (hf s a).trans (ih _)

theorem offer (m : Message) (s : State) : SameHolds s (offer m s).1 := by
  unfold Sys2Proof.Machine.offer
  split <;> exact .of rfl rfl

theorem send (d : Nat) (b : MsgBody) (s : State) : SameHolds s (send d b s) := .offer _ s

theorem report (b : ReportBody) (s : State) : SameHolds s (report b s) := by
  unfold Sys2Proof.Machine.report
  split <;> exact .of rfl rfl

theorem mapTrs (s : State) (f : Train → Train) : SameHolds s (s.mapTrs f) := .of rfl rfl

theorem setTrs (s : State) (x : Train) : SameHolds s (s.setTrs x) := .of rfl rfl

theorem setMch (s : State) (x : Channels) : SameHolds s (s.setMch x) := .of rfl rfl

theorem setCle (s : State) (x : Claims) : SameHolds s (s.setCle x) := .of rfl rfl

theorem setClaims (s : State) (l : List Claim) : SameHolds s (s.setClaims l) := .of rfl rfl

theorem putAct (s : State) (a : Nat) (x : Actuator) : SameHolds s (s.putAct a x) := .of rfl rfl

/-- A tank's fill, skips and retry change; its grants stand. -/
theorem putTank (s : State) (t : Nat) {x : TankState} (h : x.grants = (s.tankOf t).grants) : SameHolds s (s.putTank t x) := by
  refine ⟨rfl, rfl, rfl, fun i => ?_⟩
  unfold State.putTank State.tankOf
  simp only [State.setTkm_tkm, look_put]
  split
  · rename_i e
    rw [← e.1, h]
    rfl
  · rfl

theorem freeSegs (q : Nat) (l : List SegId) (s : State) : SameHolds s (freeSegs q l s) := foldl (fun s _ => send _ _ s) l s

theorem finalMessages (c : Claim) (s : State) : SameHolds s (finalMessages c s) := by
  unfold Sys2Proof.Machine.finalMessages
  dsimp only
  repeat' split
  · exact freeSegs _ _ s
  · exact (freeSegs _ _ s).trans (freeSegs _ _ _)
  · exact freeSegs _ _ s
  · exact (send _ _ s).trans (freeSegs _ _ _)
  · exact (send _ _ s).trans (freeSegs _ _ _)

theorem reportQuality (w : WindowState) (c : WindowCause) (s : State) : SameHolds s (reportQuality w c s) := by
  unfold Sys2Proof.Machine.reportQuality
  dsimp only
  split
  · exact refl s
  · exact report _ s

theorem stopQuality (u : ActuatorSetup) (s : State) : SameHolds s (stopQuality u s) := by
  have off : SameHolds s (qualityOff s) := by
    unfold qualityOff
    dsimp only
    split
    · exact setMch s _
    · exact ((setMch s _).trans (reportQuality _ _ _)).trans (setTrs _ _)
  unfold Sys2Proof.Machine.stopQuality
  split
  · exact off
  · exact refl s

theorem startTravel (a : Nat) (u : ActuatorSetup) (o : Bool) (s : State) : SameHolds s (startTravel a u o s).1 := by
  unfold Sys2Proof.Machine.startTravel
  dsimp only
  split <;> exact .of rfl rfl

theorem closeReq (a : Nat) (s : State) : SameHolds s (closeReq a s).1 := by
  have c : ∀ u, SameHolds s (if (s.actOf a).command = .safe then s
      else Sys2Proof.Machine.stopQuality u (s.putAct a { s.actOf a with command := .safe })) := by
    intro u
    split
    · exact refl s
    · exact (putAct s a _).trans (stopQuality u _)
  unfold Sys2Proof.Machine.closeReq
  split
  · exact refl s
  · dsimp only
    split
    · exact c _
    · exact (c _).trans (startTravel _ _ _ _)

theorem closeRole (r : Role) (s : State) : SameHolds s (closeRole r s).1 := by
  unfold Sys2Proof.Machine.closeRole
  split
  · exact closeReq _ s
  · exact refl s

theorem openRole (r : Role) (s : State) : SameHolds s (openRole r s).1 := by
  unfold Sys2Proof.Machine.openRole openReq
  split
  · split
    · exact refl s
    · dsimp only
      repeat' split
      · exact refl s
      · exact putAct s _ _
      · exact (putAct s _ _).trans (startTravel _ _ _ _)
      · exact putAct s _ _
  · exact refl s

theorem changeTrain (a : TrainState) (b : DivertCause) (c : FaultCause) (d : StopCause) (s : State) : SameHolds s (changeTrain a b c d s) :=
  .of rfl rfl

theorem tellTrain (a : TrainState) (s : State) : SameHolds s (tellTrain a s) := report _ s

theorem enterTrain (a : TrainState) (b : DivertCause) (c : FaultCause) (d : StopCause) (s : State) : SameHolds s (enterTrain a b c d s) :=
  (changeTrain a b c d s).trans (tellTrain _ _)

theorem tryStopped (s : State) : SameHolds s (tryStopped s) := by
  unfold Sys2Proof.Machine.tryStopped
  split
  · exact (mapTrs s _).trans (enterTrain _ _ _ _ _)
  · exact refl s

theorem createClaim (n : NewClaim) (s : State) : SameHolds s (createClaim n s).1 := by
  unfold Sys2Proof.Machine.createClaim offerRequest
  split
  · exact refl s
  · dsimp only
    exact ((setCle s _).trans (offer _ _)).trans (setClaims _ _)

theorem askNext (fuel : Nat) (s : State) : SameHolds s (askNext fuel s) := by
  induction fuel generalizing s with
  | zero => exact refl s
  | succ fuel ih =>
    unfold Sys2Proof.Machine.askNext
    repeat' split
    · dsimp only
      split
      · exact (createClaim _ s).trans (mapTrs _ _)
      · split
        · exact (createClaim _ s).trans ((mapTrs _ _).trans (mapTrs _ _))
        · exact ((createClaim _ s).trans ((mapTrs _ _).trans (mapTrs _ _))).trans (ih _)
    · exact refl s
    · exact refl s

theorem askFlush (c : StopCause) (s : State) : SameHolds s (askFlush c s) := by
  unfold Sys2Proof.Machine.askFlush
  split
  · exact mapTrs s _
  · dsimp only
    split <;> exact (createClaim _ s).trans (mapTrs _ _)
  · exact mapTrs s _

theorem stopRevoked (s : State) : SameHolds s (stopRevoked s) := by
  have first := ((enterTrain .stopping .none .none .revoked s).trans (closeRole .highpress _)).trans (closeRole .divert _)
  exact (((first.trans (closeRole .feed _)).trans (askFlush .revoked _)).trans (mapTrs _ stillTimers)).trans (tryStopped _)

theorem failedDest (r : EndReason) (s : State) : SameHolds s (failedDest r s) := by
  unfold Sys2Proof.Machine.failedDest
  dsimp only
  repeat' split
  · exact mapTrs s _
  · exact (mapTrs s _).trans (mapTrs _ _)
  · exact ((mapTrs s _).trans (mapTrs _ _)).trans (askNext _ _)

theorem inflowEffect (r : EndReason) (s : State) : SameHolds s (inflowEffect r s) := by
  unfold Sys2Proof.Machine.inflowEffect
  split
  · exact refl s
  · exact (mapTrs s _).trans (askNext _ _)
  · split
    · exact (mapTrs s _).trans (askNext _ _)
    · exact mapTrs s _
  · exact failedDest _ s

theorem inflowOutcome (r : EndReason) (s : State) : SameHolds s (inflowOutcome r s) := by
  have running : ∀ s, SameHolds s (runningOutcome r s) := by
    intro s
    unfold runningOutcome
    dsimp only
    repeat' split
    · exact (((changeTrain _ _ _ _ s).trans (inflowEffect r _)).trans (tellTrain _ _)).trans (stopRevoked _)
    · exact (inflowEffect r s).trans (stopRevoked _)
    · exact ((changeTrain _ _ _ _ s).trans (inflowEffect r _)).trans (tellTrain _ _)
    · exact inflowEffect r s
  unfold Sys2Proof.Machine.inflowOutcome
  dsimp only
  split
  · exact mapTrs s _
  · exact (mapTrs s _).trans (running _)
  · exact (mapTrs s _).trans (running _)
  · exact (mapTrs s _).trans (mapTrs _ _)

theorem flushOutcome (r : EndReason) (s : State) : SameHolds s (flushOutcome r s) := by
  unfold Sys2Proof.Machine.flushOutcome
  dsimp only
  split
  · exact ((mapTrs s _).trans (mapTrs _ _)).trans (tryStopped _)
  · exact mapTrs s _

theorem fillOutcome (t : Nat) (r : EndReason) (s : State) : SameHolds s (fillOutcome t r s) := by
  unfold Sys2Proof.Machine.fillOutcome
  dsimp only
  split <;> exact putTank s t rfl

theorem handOutcome (c : Claim) (r : EndReason) (s : State) : SameHolds s (handOutcome c r s) := by
  unfold Sys2Proof.Machine.handOutcome trainOutcome
  split
  · exact refl s
  · exact fillOutcome _ r s
  · exact refl s
  · split
    · split
      · exact inflowOutcome r s
      · exact refl s
    · split
      · exact flushOutcome r s
      · exact refl s
    · exact refl s

theorem leaveList (c : Claim) (s : State) : SameHolds s (leaveList c s) :=
  (((finalMessages c s).trans (report _ _)).trans (setClaims _ _)).trans (handOutcome _ _ _)

theorem toClosing (c : Claim) (r : EndReason) (s : State) : SameHolds s (toClosing c r s) := by
  have v : SameHolds s (closeValve c r s) := (setClaims s _).trans (closeRole _ _)
  rw [toClosing_eq]
  split
  · exact v.trans (leaveList _ _)
  · exact v

theorem endSeq (r : EndReason) (s : State) (q : Nat) : SameHolds s (endSeq r s q) := by
  unfold Sys2Proof.Machine.endSeq endClaim
  repeat' split
  · exact toClosing _ r s
  · exact refl s
  · exact leaveList _ s
  · exact refl s

theorem endWhere (p : Claim → Bool) (r : EndReason) (s : State) : SameHolds s (endWhere p r s) := foldl (endSeq r) _ s

end SameHolds

end Sys2Proof.Machine
end

section

namespace Sys2Proof.Machine

/-! ## The Tank Manager without an address (R114, R115) -/

/-- Nothing of the Tank Manager bears the address. -/
structure State.tanksFree (s : State) (a : Nat) : Prop where
  grants : ∀ t, ∀ g ∈ (s.tankOf t).grants, g.id.address ≠ a
  waits : ∀ w ∈ s.tkm.waits, w.id.address ≠ a
  memory : ∀ m ∈ s.tkm.memory, m.id.address ≠ a

/-- Nothing of the arbiter bears the address. -/
structure State.segmentsFree (s : State) (a : Nat) : Prop where
  waits : ∀ w ∈ s.sga.waits, w.id.address ≠ a
  holders : ∀ i id, (s.segOf i).holder = some id → id.address ≠ a

theorem holdsNothingOf_iff (s : State) (a : Nat) : s.holdsNothingOf a ↔ s.tanksFree a ∧ s.segmentsFree a :=
  ⟨fun ⟨g, w, m, h, o⟩ => ⟨⟨g, w, m⟩, ⟨h, o⟩⟩, fun ⟨⟨g, w, m⟩, ⟨h, o⟩⟩ => ⟨g, w, m, h, o⟩⟩

theorem SameHolds.tanksFree {s t : State} {a : Nat} (h : SameHolds s t) (k : s.tanksFree a) : t.tanksFree a :=
  ⟨fun i => by rw [h.grants]; exact k.grants i, by rw [h.waits]; exact k.waits, by rw [h.memory]; exact k.memory⟩

theorem SameHolds.segmentsFree {s t : State} {a : Nat} (h : SameHolds s t) (k : s.segmentsFree a) : t.segmentsFree a :=
  ⟨by rw [h.sga]; exact k.waits, fun i => by unfold State.segOf; rw [h.sga]; exact k.holders i⟩

theorem tankOf_setGrants (s : State) (t i : Nat) (l : List Grant) :
    ((s.setGrants t l).tankOf i).grants = if t = i ∧ t < 2 then l else (s.tankOf i).grants := by
  unfold State.setGrants State.putTank State.tankOf
  simp only [State.setTkm_tkm, look_put]
  split <;> rfl

theorem tankOf_beyond (s : State) {i : Nat} (h : 2 ≤ i) : (s.tankOf i).grants = [] := by
  unfold State.tankOf
  rw [look_beyond _ _ h]
  rfl

/-- A list of grants without the address takes the place of a tank's. -/
theorem setGrants_free {s : State} {a t : Nat} {l : List Grant} (k : s.tanksFree a) (h : ∀ g ∈ l, g.id.address ≠ a) :
    (s.setGrants t l).tanksFree a := by
  refine ⟨fun i g m => ?_, k.waits, k.memory⟩
  rw [tankOf_setGrants] at m
  split at m
  · exact h g m
  · exact k.grants i g m

/-- A peer gone leaves nothing of its address with the Tank Manager (R115). -/
theorem peerTanks_free (a : Nat) (s : State) : (peerTanks a s).tanksFree a := by
  refine ⟨fun i g m => ?_, fun w m => ?_, fun r m => ?_⟩
  · change g ∈ (((s.setGrants 0 _).setGrants 1 _).tankOf i).grants at m
    rw [tankOf_setGrants] at m
    split at m
    · simpa using (List.mem_filter.mp m).2
    · rw [tankOf_setGrants] at m
      split at m
      · simpa using (List.mem_filter.mp m).2
      · rename_i n1 n0
        rw [tankOf_beyond s (by omega)] at m
        cases m
  · simpa using (List.mem_filter.mp m).2
  · simpa using (List.mem_filter.mp m).2

theorem scanQueue_free {s : State} {a : Nat} (k : s.tanksFree a) : (scanQueue s).tanksFree a := by
  have all : ∀ (l : List TankWait) (s : State), (∀ w ∈ l, w.id.address ≠ a) → s.tanksFree a → (l.foldl scanEntry s).tanksFree a := by
    intro l
    induction l with
    | nil => exact fun s _ k => k
    | cons w l ih =>
      intro s h k
      refine ih _ (fun v m => h v (List.mem_cons_of_mem _ m)) ?_
      unfold scanEntry
      split
      · refine (SameHolds.send _ _ _).tanksFree (setGrants_free ?_ ?_)
        · exact ⟨k.grants, fun v m => k.waits v (List.mem_of_mem_erase m), k.memory⟩
        · intro g m
          rcases List.mem_append.mp m with m | m
          · exact k.grants _ g m
          · rw [List.mem_singleton.mp m]
            exact h w List.mem_cons_self
      · exact k
  exact all _ s k.waits k

theorem examineGrant_id {own src inc t : Nat} {l : List ClaimItem} {g x : Grant} (h : examineGrant own src inc l t g = some x) :
    x.id = g.id := by
  unfold examineGrant at h
  repeat' split at h
  all_goals cases h
  all_goals rfl

theorem examineWait_id {own src inc : Nat} {l : List ClaimItem} {w x : TankWait} (h : examineWait own src inc l w = some x) :
    x.id = w.id := by
  unfold examineWait at h
  repeat' split at h
  all_goals cases h
  all_goals rfl

theorem examineMemory_id {src inc : Nat} {l : List ClaimItem} {m x : Revoked} {s : State} (h : (examineMemory src inc l m s).2 = some x) :
    x.id = m.id := by
  unfold examineMemory at h
  dsimp only at h
  repeat' split at h
  all_goals cases h
  all_goals rfl

theorem examineEntries_holds (src inc : Nat) (l : List ClaimItem) (m : List Revoked) (s : State) :
    SameHolds s (examineEntries src inc l m s).1 ∧ ∀ x ∈ (examineEntries src inc l m s).2, ∃ y ∈ m, x.id = y.id := by
  induction m generalizing s with
  | nil => exact ⟨.refl s, nofun⟩
  | cons r m ih =>
    obtain ⟨h, k⟩ := ih (examineMemory src inc l r s).1
    refine ⟨SameHolds.trans ?_ h, fun x mx => ?_⟩
    · rcases examineMemory_state src inc l r s with e | ⟨o, e⟩
      · rw [e]
        exact .refl s
      · rw [e]
        exact .offer o s
    · rcases List.mem_append.mp mx with mx | mx
      · exact ⟨r, List.mem_cons_self, examineMemory_id (by simpa using mx)⟩
      · obtain ⟨y, my, e⟩ := k x mx
        exact ⟨y, List.mem_cons_of_mem _ my, e⟩

/-- A record adds nothing of any address to the Tank Manager (R113, R114, R119). -/
theorem recordTanks_free {s : State} {a : Nat} (k : s.tanksFree a) (src inc : Nat) (l : List ClaimItem) :
    (recordTanks src inc l s).tanksFree a := by
  have grants : ∀ t, ∀ g ∈ (s.tankOf t).grants.filterMap (examineGrant s.ident.address src inc l t), g.id.address ≠ a := by
    intro t g m
    obtain ⟨x, mx, e⟩ := List.mem_filterMap.mp m
    rw [examineGrant_id e]
    exact k.grants t x mx
  have waits : ∀ w ∈ s.tkm.waits.filterMap (examineWait s.ident.address src inc l), w.id.address ≠ a := by
    intro w m
    obtain ⟨x, mx, e⟩ := List.mem_filterMap.mp m
    rw [examineWait_id e]
    exact k.waits x mx
  have revoked : ∀ u : State, u.tanksFree a → (examineRevoked src inc l u).tanksFree a := by
    intro u h
    obtain ⟨same, ids⟩ := examineEntries_holds src inc l u.tkm.memory u
    have f := same.tanksFree h
    refine ⟨f.grants, f.waits, fun x m => ?_⟩
    obtain ⟨y, my, e⟩ := ids x m
    rw [e]
    exact h.memory y my
  have first := setGrants_free (t := 1) (setGrants_free (t := 0) k (grants 0)) (grants 1)
  have q := revoked _ (⟨first.grants, waits, first.memory⟩ : (((s.setGrants 0
    ((s.tankOf 0).grants.filterMap (examineGrant s.ident.address src inc l 0))).setGrants 1
      ((s.tankOf 1).grants.filterMap (examineGrant s.ident.address src inc l 1))).setTankWaits
        (s.tkm.waits.filterMap (examineWait s.ident.address src inc l))).tanksFree a)
  unfold recordTanks
  dsimp only
  split
  · exact scanQueue_free q
  · exact q

/-! ## The arbiter without an address (R139, R140) -/

/-- A FREE segment has no holder. -/
def State.freeUnheld (s : State) : Prop := ∀ i, (s.segOf i).state = .free → (s.segOf i).holder = none

theorem SameHolds.freeUnheld {s t : State} (h : SameHolds s t) (k : s.freeUnheld) : t.freeUnheld := fun i => by
  unfold State.segOf
  rw [h.sga]
  exact k i

theorem segOf_putSeg (s : State) (i j : Nat) (x : Segment) :
    (s.putSeg i x).segOf j = if i = j ∧ i < 4 then x else s.segOf j := look_put _ _ _ _ _

theorem segOf_beyond (s : State) {i : Nat} (h : 4 ≤ i) : (s.segOf i).holder = none := by
  unfold State.segOf
  rw [look_beyond _ _ h]
  rfl

/-- From `s` to `t` at most the segment `i` changed, and nothing waiting bears the address. -/
structure Clean (s : State) (a i : Nat) (t : State) : Prop where
  tanks : t.tanksFree a
  waits : ∀ w ∈ t.sga.waits, w.id.address ≠ a
  free : t.freeUnheld
  others : ∀ j, i ≠ j → t.segOf j = s.segOf j

/-- The holder of a segment, if it has one, has another address. -/
def State.heldByOther (s : State) (a i : Nat) : Prop := ∀ id, (s.segOf i).holder = some id → id.address ≠ a

namespace Clean

variable {s t u : State} {a i : Nat}

theorem holds (h : Clean s a i t) (k : SameHolds t u) : Clean s a i u :=
  ⟨k.tanksFree h.tanks, by rw [k.sga]; exact h.waits, k.freeUnheld h.free, fun j d => by
    unfold State.segOf
    rw [k.sga]
    exact h.others j d⟩

theorem holdWaits (h : Clean s a i t) {l : List HoldWait} (k : ∀ w ∈ l, w ∈ t.sga.waits) : Clean s a i (t.setHoldWaits l) :=
  ⟨⟨h.tanks.grants, h.tanks.waits, h.tanks.memory⟩, fun w m => h.waits w (k w m), h.free, h.others⟩

theorem putSeg (h : Clean s a i t) {x : Segment} (f : x.state = .free → x.holder = none) : Clean s a i (t.putSeg i x) := by
  refine ⟨⟨h.tanks.grants, h.tanks.waits, h.tanks.memory⟩, h.waits, fun j => ?_, fun j d => ?_⟩
  · rw [segOf_putSeg]
    split
    · exact f
    · exact h.free j
  · rw [segOf_putSeg, if_neg fun c => d c.1]
    exact h.others j d

end Clean

theorem SameHolds.heldByOther {t u : State} {a i : Nat} (k : SameHolds t u) (h : t.heldByOther a i) : u.heldByOther a i := by
  unfold State.heldByOther State.segOf
  rw [k.sga]
  exact h

theorem putSeg_heldByOther (t : State) {a i : Nat} {x : Segment} (h : ∀ id, x.holder = some id → id.address ≠ a) :
    (t.putSeg i x).heldByOther a i := by
  intro id e
  rw [segOf_putSeg] at e
  split at e
  · exact h id e
  · rw [segOf_beyond t (by omega)] at e
    cases e

theorem refuseWaiters_clean {s t : State} {a i : Nat} (h : Clean s a i t) (k : t.heldByOther a i) (j : Nat) :
    Clean s a i (refuseWaiters j t) ∧ (refuseWaiters j t).heldByOther a i := by
  have f := h.holdWaits (l := t.sga.waits.filter (·.segment != j)) fun w m => (List.mem_filter.mp m).1
  have q := SameHolds.foldl (f := fun s w => send w.id.address (.holdRefused w.id.sequence j .segmentOut) s)
    (fun s _ => SameHolds.send _ _ s) (t.sga.waits.filter (·.segment == j)) (t.setHoldWaits (t.sga.waits.filter (·.segment != j)))
  exact ⟨f.holds q, q.heldByOther k⟩

theorem clearFault_clean {s t : State} {a i : Nat} (h : Clean s a i t) (k : t.heldByOther a i) :
    Clean s a i (clearFault i t) ∧ (clearFault i t).heldByOther a i := by
  have free (p : Bool) : (∀ u : State, u = (if decide ((t.segOf i).state = .fault) && (t.segOf i).holder.isNone &&
      t.travelOf (.segment i) == .closed && p then t.putSeg i { t.segOf i with state := .free } else t) →
      Clean s a i u ∧ u.heldByOther a i) := by
    rintro u rfl
    split
    · rename_i c
      simp only [Bool.and_eq_true] at c
      have none : (t.segOf i).holder = none := by simpa using c.1.1.2
      exact ⟨h.putSeg fun _ => none, putSeg_heldByOther t fun id e => by rw [none] at e; cases e⟩
    · exact ⟨h, k⟩
  exact free _ _ rfl

theorem giveAttempt_clean {s t : State} {a i : Nat} (h : Clean s a i t) {id : ClaimId} (n : id.address ≠ a) :
    Clean s a i (giveAttempt i id t) ∧ (giveAttempt i id t).heldByOther a i := by
  unfold giveAttempt
  dsimp only
  have o := h.holds (SameHolds.openRole (.segment i) t)
  generalize (openRole (.segment i) t).1 = u at o
  split
  · have p := o.putSeg (x := ⟨.held, some id, 0⟩) nofun
    exact ⟨p.holds (.send _ _ _), (SameHolds.send _ _ _).heldByOther (putSeg_heldByOther u fun x e => by cases e; exact n)⟩
  · have c := o.holds (SameHolds.closeRole (.segment i) u)
    generalize (closeRole (.segment i) u).1 = v at c
    have p := (c.putSeg (x := ⟨.fault, none, 0⟩) nofun).holds (.send id.address (.holdRefused id.sequence i .segmentOut) _)
    have q := (SameHolds.send id.address (.holdRefused id.sequence i .segmentOut) _).heldByOther
      (putSeg_heldByOther v (a := a) (i := i) (x := ⟨.fault, none, 0⟩) nofun)
    split
    · exact ⟨p, q⟩
    · exact refuseWaiters_clean p q i

/-- A hold released passes to a waiter or to none (R134, R137). -/
theorem releaseSeg_clean {s t : State} {a i : Nat} (h : Clean s a i t) (f : (t.segOf i).state ≠ .free) :
    Clean s a i (releaseSeg i t) ∧ (releaseSeg i t).heldByOther a i := by
  unfold releaseSeg
  split
  · dsimp only
    have c := h.holds (SameHolds.closeRole (.segment i) t)
    generalize (closeRole (.segment i) t).1 = u at c
    have p := c.putSeg (x := ⟨.free, none, 0⟩) fun _ => rfl
    have q := putSeg_heldByOther u (a := a) (i := i) (x := ⟨.free, none, 0⟩) nofun
    split
    · rename_i w e
      have m : w ∈ (u.putSeg i ⟨.free, none, 0⟩).sga.waits := List.mem_of_find?_eq_some e
      exact giveAttempt_clean (p.holdWaits fun x mx => List.mem_of_mem_erase mx) (p.waits w m)
    · exact ⟨p, q⟩
  · have p := (h.putSeg (x := ⟨.fault, none, 0⟩) nofun).holds (SameHolds.closeRole (.segment i) _)
    exact clearFault_clean p ((SameHolds.closeRole _ _).heldByOther (putSeg_heldByOther t nofun))
  · rename_i e
    exact absurd e f

/-- The holds of an address released one after another. -/
theorem dropHolds_clean {a : Nat} (l : List Nat) {s : State} (k : s.tanksFree a) (w : ∀ x ∈ s.sga.waits, x.id.address ≠ a)
    (f : s.freeUnheld) : (l.foldl (dropHold a) s).tanksFree a ∧ (∀ x ∈ (l.foldl (dropHold a) s).sga.waits, x.id.address ≠ a) ∧
      ∀ i, i ∈ l ∨ s.heldByOther a i → (l.foldl (dropHold a) s).heldByOther a i := by
  induction l generalizing s with
  | nil => exact ⟨k, w, fun i h => h.resolve_left (by simp)⟩
  | cons j l ih =>
    have one : Clean s a j (dropHold a s j) ∧ (dropHold a s j).heldByOther a j := by
      have c : Clean s a j s := ⟨k, w, f, fun _ _ => rfl⟩
      unfold dropHold
      split
      · rename_i id e
        split
        · exact releaseSeg_clean c fun n => by rw [f j n] at e; cases e
        · rename_i n
          exact ⟨c, fun x ex => by rw [e] at ex; cases ex; exact n⟩
      · rename_i e
        exact ⟨c, fun x ex => by rw [e] at ex; cases ex⟩
    obtain ⟨c, own⟩ := one
    obtain ⟨k', w', all⟩ := ih c.tanks c.waits c.free
    refine ⟨k', w', fun i h => all i ?_⟩
    by_cases d : j = i
    · subst d
      exact .inr own
    · refine h.imp (fun m => (List.mem_cons.mp m).resolve_left (Ne.symm d)) fun o => ?_
      unfold State.heldByOther
      rw [c.others i d]
      exact o

/-- A peer gone leaves nothing of its address with the arbiter (R140). -/
theorem peerSegments_free {a : Nat} {s : State} (k : s.tanksFree a) (f : s.freeUnheld) :
    (peerSegments a s).tanksFree a ∧ (peerSegments a s).segmentsFree a := by
  have w : ∀ x ∈ (s.setHoldWaits (s.sga.waits.filter (·.id.address != a))).sga.waits, x.id.address ≠ a := fun x m => by
    simpa using (List.mem_filter.mp m).2
  obtain ⟨t, waits, held⟩ := dropHolds_clean (List.range 4) (s := s.setHoldWaits (s.sga.waits.filter (·.id.address != a)))
    ⟨k.grants, k.waits, k.memory⟩ w f
  refine ⟨t, waits, fun i => ?_⟩
  by_cases l : i < 4
  · exact held i (.inl (List.mem_range.mpr l))
  · intro id e
    rw [segOf_beyond _ (by omega)] at e
    cases e

theorem sweepWait_id {src inc : Nat} {l : List ClaimItem} {w x : HoldWait} (h : sweepWait src inc l w = some x) : x.id = w.id := by
  unfold sweepWait at h
  repeat' split at h
  all_goals cases h
  all_goals rfl

/-- The sweep of an address that holds nothing (R139). -/
theorem sweepSegments_free {a : Nat} {s : State} (h : s.segmentsFree a) (k : s.tanksFree a) (inc : Nat) (l : List ClaimItem) :
    (sweepSegments a inc l s).tanksFree a ∧ (sweepSegments a inc l s).segmentsFree a := by
  have e : sweepSegments a inc l s = s.setHoldWaits (s.sga.waits.filterMap (sweepWait a inc l)) := by
    refine foldl_fixed fun i _ => ?_
    unfold sweepHold
    dsimp only
    split
    · rename_i id eq
      rw [if_neg]
      have := h.holders i id eq
      simp [this]
    · rfl
  rw [e]
  refine ⟨⟨k.grants, k.waits, k.memory⟩, ⟨fun w m => ?_, h.holders⟩⟩
  obtain ⟨x, mx, e⟩ := List.mem_filterMap.mp m
  rw [sweepWait_id e]
  exact h.waits x mx

/-! ## A peer restarted (R25, R115, R140) -/

theorem peerTanks_freeUnheld (a : Nat) {s : State} (f : s.freeUnheld) : (peerTanks a s).freeUnheld := f

theorem peerGone_free (a : Nat) {s : State} (f : s.freeUnheld) : (peerGone a s).tanksFree a ∧ (peerGone a s).segmentsFree a := by
  have c : SameHolds s (peerClaims a s) := .endWhere _ _ s
  unfold peerGone
  exact peerSegments_free (peerTanks_free a _) (peerTanks_freeUnheld a (c.freeUnheld f))

theorem scanQueue_sga (s : State) : (scanQueue s).sga = s.sga := by
  have all : ∀ (l : List TankWait) (s : State), (l.foldl scanEntry s).sga = s.sga := by
    intro l
    induction l with
    | nil => exact fun _ => rfl
    | cons w l ih =>
      intro s
      refine (ih _).trans ?_
      unfold scanEntry
      split
      · exact (SameHolds.send _ _ _).sga
      · rfl
  exact all _ s

theorem recordTanks_sga (src inc : Nat) (l : List ClaimItem) (s : State) : (recordTanks src inc l s).sga = s.sga := by
  have revoked : ∀ u : State, (examineRevoked src inc l u).sga = u.sga := fun u => (examineEntries_holds src inc l _ u).1.sga
  unfold recordTanks
  dsimp only
  split
  · rw [scanQueue_sga, revoked]
    rfl
  · rw [revoked]
    rfl

theorem segmentsFree_congr {s t : State} {a : Nat} (h : t.sga = s.sga) (k : s.segmentsFree a) : t.segmentsFree a :=
  ⟨by rw [h]; exact k.waits, fun i => by unfold State.segOf; rw [h]; exact k.holders i⟩

/-- A record of an address that holds nothing, at the blocks. -/
theorem passRecord_free {a : Nat} {s : State} (k : s.tanksFree a) (h : s.segmentsFree a) (inc : Nat) (r : StatusRecord) :
    (passRecord a inc r s).tanksFree a ∧ (passRecord a inc r s).segmentsFree a := by
  have c : SameHolds s (recordClaims a r.segments s) := .endWhere _ _ s
  have t := recordTanks_free (c.tanksFree k) a inc r.claims
  exact sweepSegments_free (segmentsFree_congr (recordTanks_sga _ _ _ _) (c.segmentsFree h)) t inc r.claims

end Sys2Proof.Machine
end

section

namespace Sys2Proof.Machine

/-! ## Claims ended, by the list (R83, R99) -/

/-- The claim list with one record for each sequence, none of them the train's: no outcome makes a new claim. -/
def State.orderly (s : State) : Prop := s.oneClaimEach ∧ ∀ c ∈ s.cle.list, c.creator ≠ .train

/-- Every record of a sequence is in CLOSING. -/
def State.closesAll (s : State) (q : Nat) : Prop := ∀ y ∈ s.cle.list, y.sequence = q → y.state = .closing

/-- What a claim may have become under causes of one reason: itself, or out of FLOWING into CLOSING with the reason. -/
def State.follows (s : State) (x : Claim) (r : EndReason) : Prop :=
  ∀ y ∈ s.cle.list, y.sequence = x.sequence → y = x ∨ (x.state = .flowing ∧ y = x.closes r)

namespace State.orderly

theorem eq_of_sequence {s : State} (h : s.orderly) {x y : Claim} (mx : x ∈ s.cle.list) (my : y ∈ s.cle.list)
    (e : y.sequence = x.sequence) : y = x := List.inj_on_of_nodup_map h.1 my mx e

theorem follows {s : State} (h : s.orderly) {x : Claim} (m : x ∈ s.cle.list) (r : EndReason) : s.follows x r :=
  fun _ my e => .inl (h.eq_of_sequence m my e)

theorem sublist {s t : State} (h : s.orderly) (l : t.cle.list.Sublist s.cle.list) : t.orderly :=
  ⟨h.1.sublist (l.map _), fun c m => h.2 c (l.mem m)⟩

theorem putClaim {s : State} (h : s.orderly) {c : Claim} (n : c.creator ≠ .train) : (s.putClaim c).orderly := by
  have list : (s.putClaim c).cle.list = s.cle.list.map fun x => if x.sequence = c.sequence then c else x := rfl
  refine ⟨?_, fun x m => ?_⟩
  · have same : ((fun x : Claim => x.sequence) ∘ fun x => if x.sequence = c.sequence then c else x) = fun x => x.sequence := by
      funext x
      dsimp only [Function.comp]
      split <;> simp_all
    unfold State.oneClaimEach
    rw [list, List.map_map, same]
    exact h.1
  · rw [list] at m
    obtain ⟨y, my, rfl⟩ := List.mem_map.mp m
    split
    · exact n
    · exact h.2 y my

end State.orderly

theorem mem_putClaim {s : State} {c y : Claim} (m : y ∈ (s.putClaim c).cle.list) :
    y = c ∨ (y ∈ s.cle.list ∧ y.sequence ≠ c.sequence) := by
  obtain ⟨x, mx, rfl⟩ := List.mem_map.mp m
  split
  · exact .inl rfl
  · rename_i n
    exact .inr ⟨mx, n⟩

/-- A claim that leaves takes the records of its sequence with it, and its outcome makes none. -/
theorem leaveList_list {s : State} {c : Claim} (n : c.creator ≠ .train) :
    (leaveList c s).cle.list = s.cle.list.filter (·.sequence != c.sequence) := by
  unfold leaveList
  dsimp only
  rw [handOutcome_cle (.inr n)]
  have e : (report (.claimEnd c (endedFrom c.state)) (finalMessages c s)).cle = s.cle := by simp
  generalize report (.claimEnd c (endedFrom c.state)) (finalMessages c s) = u at e
  unfold State.dropClaim
  rw [e]
  rfl

theorem toClosing_sublist {s : State} {c : Claim} (n : c.creator ≠ .train) (r : EndReason) :
    (toClosing c r s).cle.list.Sublist (s.putClaim (c.closes r)).cle.list := by
  have e : (closeValve c r s).cle = (s.putClaim (c.closes r)).cle := closeRole_cle _ _
  rw [toClosing_eq]
  split
  · rw [leaveList_list (c := c.closes r) n, e]
    exact List.filter_sublist
  · rw [e]

/-- A cause that ends the claim of a sequence: the list stays orderly, and each record of it either stood in the list, in CLOSING if it is
of the sequence, or is the record of the sequence out of FLOWING with the reason. -/
theorem endSeq_list {s : State} (h : s.orderly) (r : EndReason) (p : Nat) : (endSeq r s p).orderly ∧
    ∀ y ∈ (endSeq r s p).cle.list, (y ∈ s.cle.list ∧ (y.sequence = p → y.state = .closing)) ∨
      ∃ c ∈ s.cle.list, c.sequence = p ∧ c.state = .flowing ∧ y = c.closes r := by
  unfold endSeq
  cases k : s.claimOf p with
  | none =>
    refine ⟨h, fun y m => .inl ⟨m, fun e => ?_⟩⟩
    have := List.find?_eq_none.mp k y m
    simp [e] at this
  | some c =>
    have m : c ∈ s.cle.list := List.mem_of_find?_eq_some k
    have cs := claimOf_sequence k
    have n := h.2 c m
    dsimp only
    unfold endClaim
    split
    · rename_i f
      have l := toClosing_sublist (s := s) n r
      refine ⟨(h.putClaim (c := c.closes r) n).sublist l, fun y my => ?_⟩
      rcases mem_putClaim (l.mem my) with e | ⟨old, other⟩
      · exact .inr ⟨c, m, cs, f, e⟩
      · exact .inl ⟨old, fun e => absurd (e.trans cs.symm) other⟩
    · rename_i f
      exact ⟨h, fun y my => .inl ⟨my, fun e => by rw [h.eq_of_sequence m my (e.trans cs.symm), f]⟩⟩
    · have l := leaveList_list (s := s) (c := { c with reason := some r, owner := none }) n
      refine ⟨h.sublist (by rw [l]; exact List.filter_sublist), fun y my => ?_⟩
      rw [l] at my
      obtain ⟨old, other⟩ := List.mem_filter.mp my
      exact .inl ⟨old, fun e => by simp [e, cs] at other⟩

theorem endSeq_closesAll {s : State} (h : s.orderly) (r : EndReason) (p : Nat) : (endSeq r s p).closesAll p := by
  intro y m e
  rcases (endSeq_list h r p).2 y m with ⟨-, c⟩ | ⟨c, -, -, -, rfl⟩
  · exact c e
  · rfl

theorem endSeq_keepsAll {s : State} (h : s.orderly) (r : EndReason) (p : Nat) {q : Nat} (k : s.closesAll q) :
    (endSeq r s p).closesAll q := by
  intro y m e
  rcases (endSeq_list h r p).2 y m with ⟨old, -⟩ | ⟨c, -, -, -, rfl⟩
  · exact k y old e
  · rfl

theorem endSeq_follows {s : State} (h : s.orderly) {x : Claim} {r : EndReason} (p : Nat) (k : s.follows x r) :
    (endSeq r s p).follows x r := by
  intro y m e
  rcases (endSeq_list h r p).2 y m with ⟨old, -⟩ | ⟨c, old, -, f, rfl⟩
  · exact k y old e
  · rcases k c old e with rfl | ⟨-, rfl⟩
    · exact .inr ⟨f, rfl⟩
    · cases f

/-- A claim in CLOSING is not touched by another cause (R83). -/
theorem endSeq_keepsFollows {s : State} (h : s.orderly) {x : Claim} {r : EndReason} (r' : EndReason) (p : Nat)
    (c : s.closesAll x.sequence) (k : s.follows x r) : (endSeq r' s p).follows x r := by
  intro y m e
  rcases (endSeq_list h r' p).2 y m with ⟨old, -⟩ | ⟨z, old, -, f, rfl⟩
  · exact k y old e
  · have closing := c z old e
    rw [f] at closing
    cases closing

/-- A cause that ends several claims: each of them is in CLOSING after it, or gone. -/
theorem foldEndSeq_closes (l : List Nat) {s : State} (h : s.orderly) {x : Claim} {r : EndReason} (k : s.follows x r)
    (m : x.sequence ∈ l ∨ s.closesAll x.sequence) :
    (l.foldl (endSeq r) s).orderly ∧ (l.foldl (endSeq r) s).follows x r ∧ (l.foldl (endSeq r) s).closesAll x.sequence := by
  induction l generalizing s with
  | nil => exact ⟨h, k, m.resolve_left (by simp)⟩
  | cons q l ih =>
    refine ih (endSeq_list h r q).1 (endSeq_follows h q k) ?_
    rcases m with m | c
    · rcases List.mem_cons.mp m with e | m
      · rw [e]
        exact .inr (endSeq_closesAll h r q)
      · exact .inl m
    · exact .inr (endSeq_keepsAll h r q c)

theorem endWhere_closes {s : State} (h : s.orderly) {p : Claim → Bool} {x : Claim} (m : x ∈ s.cle.list) (d : p x = true)
    (r : EndReason) : (endWhere p r s).orderly ∧ (endWhere p r s).follows x r ∧ (endWhere p r s).closesAll x.sequence :=
  foldEndSeq_closes _ h (h.follows m r) (.inl (List.mem_map_of_mem (List.mem_filter.mpr ⟨m, d⟩)))

/-- What has come to CLOSING under one reason stays as it is under later causes. -/
theorem endWhere_keepsClosed {s : State} (h : s.orderly) {x : Claim} {r : EndReason} (k : s.follows x r)
    (c : s.closesAll x.sequence) (p : Claim → Bool) (r' : EndReason) :
    (endWhere p r' s).follows x r ∧ (endWhere p r' s).closesAll x.sequence := by
  unfold endWhere
  induction s.seqsWhere p generalizing s with
  | nil => exact ⟨k, c⟩
  | cons q l ih =>
    exact ih (endSeq_list h r' q).1 (endSeq_keepsFollows h r' q c k) (endSeq_keepsAll h r' q c)

/-- A claim that followed a reason into CLOSING is there with it if it flowed, and gone if it had not come to flow (R83, R99). -/
theorem ended_of_follows {s : State} {x : Claim} {r : EndReason} (k : s.follows x r) (c : s.closesAll x.sequence) :
    (∀ y ∈ s.cle.list, y.sequence = x.sequence → y.state = .closing) ∧
      (x.state = .flowing → ∀ y ∈ s.cle.list, y.sequence = x.sequence → y.reason = some r) ∧
      (x.state = .pathing ∨ x.state = .asking → ∀ y ∈ s.cle.list, y.sequence ≠ x.sequence) := by
  refine ⟨c, fun f y m e => ?_, fun f y m e => ?_⟩
  · rcases k y m e with rfl | ⟨-, rfl⟩
    · have closing := c y m e
      rw [f] at closing
      cases closing
    · rfl
  · have closing := c y m e
    rcases k y m e with rfl | ⟨g, -⟩
    · rw [closing] at f
      simp at f
    · rw [g] at f
      simp at f

/-! ## The claims of a peer restarted -/

theorem State.orderly.congr {s t : State} (h : s.orderly) (e : t.cle = s.cle) : t.orderly := by
  unfold State.orderly State.oneClaimEach
  rw [e]
  exact h

/-- A claim that depends on a peer gone, once its record is passed on too (R98, R99). -/
theorem restarted_claims {s u : State} {a : Nat} (e : u.cle = (scanQueue (peerGone a s)).cle) (h : s.orderly) {x : Claim}
    (m : x ∈ s.cle.list) (d : dependsOn a x = true) (inc : Nat) (r : StatusRecord) :
    (passRecord a inc r u).follows x .ownerLost ∧ (passRecord a inc r u).closesAll x.sequence := by
  obtain ⟨o, k, c⟩ := endWhere_closes h m d .ownerLost
  have gone : (scanQueue (peerGone a s)).cle = (endWhere (dependsOn a) .ownerLost s).cle := by
    rw [(scanQueue_serves _).cle]
    unfold peerGone
    rw [(peerSegments_serves a _).cle, (peerTanks_serves a _).cle]
    rfl
  have same : u.cle = (endWhere (dependsOn a) .ownerLost s).cle := e.trans gone
  have passed : (passRecord a inc r u).cle = (recordClaims a r.segments u).cle := by
    unfold passRecord
    rw [(sweepSegments_serves _ _ _ _).cle, (recordTanks_serves _ _ _ _).cle]
  have kept := endWhere_keepsClosed (s := u) (x := x) (r := .ownerLost) (o.congr same)
    (by unfold State.follows; rw [same]; exact k) (by unfold State.closesAll; rw [same]; exact c)
    (fun c => c.heldSegs.any fun g => g.station == a && showsFault r.segments g.index) .segmentFault
  unfold State.follows State.closesAll
  rw [passed]
  exact kept

end Sys2Proof.Machine
end

section

namespace Sys2Proof.Machine

/-! ## A station frame handed on (R5, R6) -/

/-- The state once the address is noted as heard in the round (R26). -/
def State.hears (s : State) (a : Nat) : State := s.setBc { s.bc with heard := a :: s.bc.heard }

/-- The header and the record of a frame, taken (R22 to R25, R32). -/
def frameRecorded (f : StationFrame) (s : State) : State :=
  takeRecord f.source f.incarnation f.round f.record (takeHeader f.source f.incarnation f.leaving s)

theorem takeFrame_eq (f : StationFrame) (s : State) :
    takeFrame f s = takeMessages f.source f.incarnation f.messages (frameRecorded f (s.hears f.source)) := rfl

theorem readFrame_validAddr {l : List Byte} {f : StationFrame} (h : readFrame l = some f) : validAddr f.source = true := by
  unfold readFrame at h
  split at h
  · split at h
    · rename_i c
      cases h
      exact (Bool.and_eq_true_iff.mp c).1
    · cases h
  · cases h

theorem withinSlot_false {first last : Nat} {s : State} (k : s.bc.clock ≠ none)
    (h : last < first ∨ slotAt first ≠ slotAt last ∨ 100 ≤ last) : withinSlot first last s = false := by
  unfold withinSlot
  have clock : s.bc.clock.isNone = false := by simpa using Option.ne_none_iff_isSome.mp k
  rw [clock, Bool.false_or]
  rcases h with h | h | h
  · simp [Nat.not_le.mpr h]
  · simp [h]
  · simp [Nat.not_lt.mpr h]

/-- A frame in its own slot is handed on. -/
theorem takeStation_hears {s : State} {l : List Byte} {f : StationFrame} {first last c : Nat} (h : s.hearing = true)
    (k : s.bc.clock = some c) (r : readFrame l = some f) (n : f.source ≠ s.ident.address) (le : first ≤ last)
    (sf : slotAt first = f.source) (sl : slotAt last = f.source) (g : s.graceEnds last = false) :
    takeStation l first last s = takeFrame f (timeTo last s) := by
  have within : withinSlot first last s = true := by
    have v := readFrame_validAddr r
    have before : last < 100 := by
      unfold slotAt at sl
      simp only [validAddr, Bool.and_eq_true, decide_eq_true_eq] at v
      omega
    simp [withinSlot, le, sf, sl, before]
  have still : (timeTo last s).hearing = true := by
    unfold State.hearing
    rw [timeTo_clockTo g]
    exact h
  unfold takeStation
  rw [r]
  dsimp only
  rw [if_pos (by simp [h, within])]
  unfold frameHeard
  rw [if_neg n, if_pos (by simp [k, sf])]
  exact if_pos still

theorem takeStation_discards {s : State} {l : List Byte} (h : readFrame l = none ∨ s.hearing = false) (first last : Nat) :
    takeStation l first last s = s := by
  unfold takeStation
  rcases h with h | h
  · rw [h]
  · split
    · rw [if_neg (by simp [h])]
    · rfl

theorem takeStation_misplaced {s : State} {l : List Byte} {f : StationFrame} {first : Nat} (r : readFrame l = some f)
    (n : f.source ≠ s.ident.address) (h : s.bc.clock = none ∨ slotAt first ≠ f.source) (last : Nat) :
    takeStation l first last s = s := by
  have misplaced : (s.bc.clock.isSome && slotAt first == f.source) = false := by
    rcases h with h | h <;> simp [h]
  unfold takeStation
  rw [r]
  dsimp only
  split
  · unfold frameHeard
    rw [if_neg n, if_neg (by simp [misplaced])]
  · rfl

theorem takeStation_outside {s : State} {first last : Nat} (k : s.bc.clock ≠ none)
    (h : last < first ∨ slotAt first ≠ slotAt last ∨ 100 ≤ last) (l : List Byte) : takeStation l first last s = s := by
  unfold takeStation
  rw [withinSlot_false k h]
  split
  · rw [if_neg (by simp)]
  · rfl

/-! ## The messages of a frame (R6) -/

theorem takeMessages_idle {s : State} (h : s.serving = false) (src inc : Nat) (l : List Message) :
    takeMessages src inc l s = s := by
  refine foldl_fixed fun m _ => ?_
  unfold takeMessage
  rw [h]
  exact ite_self _

theorem takeMessages_others {s : State} {l : List Message} (h : ∀ m ∈ l, m.dest ≠ s.ident.address) (src inc : Nat) :
    takeMessages src inc l s = s := by
  refine foldl_fixed fun m k => ?_
  exact if_neg (h m k)

/-! ## The header and the record -/

theorem takeHeader_joined {s : State} {a : Nat} (h : (s.rosterOf a).presence = .absent) (inc : Nat) (l : Bool) :
    takeHeader a inc l s = reportPeer a (.joined inc) (s.putRoster a ⟨.present, inc, s.bc.round, 0, l⟩) := by
  unfold takeHeader
  exact if_pos h

theorem takeHeader_restarted {s : State} {a inc : Nat} (h : (s.rosterOf a).presence ≠ .absent)
    (d : (s.rosterOf a).incarnation ≠ inc) (l : Bool) : takeHeader a inc l s =
      scanQueue (peerGone a (reportPeer a (.restarted inc (s.rosterOf a).incarnation) (s.putRoster a ⟨.present, inc, s.bc.round, 0, l⟩))) := by
  unfold takeHeader
  exact (if_neg h).trans (if_neg d)

theorem takeHeader_same {s : State} {a inc : Nat} (h : (s.rosterOf a).presence ≠ .absent)
    (d : (s.rosterOf a).incarnation = inc) (l : Bool) :
    takeHeader a inc l s = s.putRoster a ⟨.present, inc, s.bc.round, 0, l⟩ := by
  unfold takeHeader
  exact (if_neg h).trans (if_pos d)

theorem takeHeader_grows (a inc : Nat) (l : Bool) (s : State) : Grows s (takeHeader a inc l s) :=
  (Grows.putRoster s a _).trans (takeHeader_works a inc l s).grows

theorem takeRecord_grows (a inc : Nat) (w : Word) (r : StatusRecord) (s : State) : Grows s (takeRecord a inc w r s) :=
  (Grows.putNwt s a _).trans (takeRecord_works a inc w r s).grows

theorem frameRecorded_grows (f : StationFrame) (s : State) : Grows s (frameRecorded f s) :=
  (takeHeader_grows _ _ _ s).trans (takeRecord_grows _ _ _ _ _)

/-- The roster takes the header (R22 to R25). -/
theorem frameRecorded_rosterOf (f : StationFrame) (s : State) (a : Nat) : (frameRecorded f s).rosterOf a =
    (s.putRoster f.source ⟨.present, f.incarnation, s.bc.round, 0, f.leaving⟩).rosterOf a := by
  unfold frameRecorded
  rw [(takeRecord_works _ _ _ _ _).rosterOf, putNwt_rosterOf, (takeHeader_works _ _ _ _).rosterOf]

/-- The NWT takes the record (R32). -/
theorem frameRecorded_nwtOf (f : StationFrame) (s : State) (a : Nat) : (frameRecorded f s).nwtOf a =
    (s.putNwt f.source (some ⟨f.record, f.round, s.bc.round, false⟩)).nwtOf a := by
  have round : (takeHeader f.source f.incarnation f.leaving s).bc.round = s.bc.round := by
    rw [(takeHeader_grows f.source f.incarnation f.leaving s).bc]
  unfold frameRecorded
  rw [(takeRecord_works _ _ _ _ _).nwtOf, nwtOf_putNwt, nwtOf_putNwt, (takeHeader_works _ _ _ _).nwtOf, putRoster_nwtOf, round]

/-! ## The PEER record of a frame (R24, R25, R29) -/

theorem reportPeer_tells {r s : State} (h : s.serving = true ∨ s.bc.busState = .silent) (e : s.port.ring = r.port.ring)
    (a : Nat) (n : PeerNews) : r.tells (reportPeer a n s) 0 (.peer a n) := by
  unfold reportPeer
  rw [if_pos (by rcases h with h | h <;> simp [h])]
  have t := report_tells s (.peer a n)
  unfold State.tells at t ⊢
  rw [← e]
  exact t

theorem frameRecorded_joins {s : State} {f : StationFrame} (h : s.serving = true ∨ s.bc.busState = .silent)
    (k : (s.rosterOf f.source).presence = .absent) : s.tells (frameRecorded f s) 0 (.peer f.source (.joined f.incarnation)) := by
  unfold frameRecorded
  rw [takeHeader_joined k]
  refine (reportPeer_tells ?_ ?_ _ _).grows (takeRecord_grows _ _ _ _ _)
  · unfold State.serving
    rw [putRoster_bc]
    exact h
  · rw [putRoster_eq]
    rfl

theorem frameRecorded_restarts {s : State} {f : StationFrame} (h : s.serving = true ∨ s.bc.busState = .silent)
    (k : (s.rosterOf f.source).presence ≠ .absent) (d : (s.rosterOf f.source).incarnation ≠ f.incarnation) :
    s.tells (frameRecorded f s) 0 (.peer f.source (.restarted f.incarnation (s.rosterOf f.source).incarnation)) := by
  unfold frameRecorded
  rw [takeHeader_restarted k d]
  refine ((reportPeer_tells ?_ ?_ _ _).grows (scanQueue_works (peerGone_works (Works.refl _) _)).grows).grows (takeRecord_grows _ _ _ _ _)
  · unfold State.serving
    rw [putRoster_bc]
    exact h
  · rw [putRoster_eq]
    rfl

/-- In LISTEN the header of a frame makes no record (R29). -/
theorem takeHeader_listen {s : State} (h : s.hush) (l : s.bc.busState = .listen) (a inc : Nat) (b : Bool) :
    (takeHeader a inc b s).port = s.port ∧ (takeHeader a inc b s).cle = s.cle := by
  have put : (s.putRoster a ⟨.present, inc, s.bc.round, 0, b⟩).port = s.port ∧
      (s.putRoster a ⟨.present, inc, s.bc.round, 0, b⟩).cle = s.cle ∧
      (s.putRoster a ⟨.present, inc, s.bc.round, 0, b⟩).bc.busState = .listen := by
    rw [putRoster_bc, putRoster_eq]
    exact ⟨rfl, rfl, l⟩
  unfold takeHeader
  dsimp only
  generalize s.putRoster a ⟨.present, inc, s.bc.round, 0, b⟩ = u at put
  obtain ⟨port, cle, listen⟩ := put
  rw [reportPeer_listen listen, reportPeer_listen listen]
  have gone := (peerGone_serves (by rw [cle]; exact h.noClaims) a).trans (scanQueue_serves (peerGone a u))
  split
  · exact ⟨port, cle⟩
  · split
    · exact ⟨port, cle⟩
    · rw [gone.port, gone.cle]
      exact ⟨port, cle⟩

theorem frameRecorded_listen {s : State} (h : s.hush) (l : s.bc.busState = .listen) (f : StationFrame) :
    (frameRecorded f s).port = s.port := by
  obtain ⟨port, cle⟩ := takeHeader_listen h l f.source f.incarnation f.leaving
  unfold frameRecorded takeRecord
  generalize takeHeader f.source f.incarnation f.leaving s = u at port cle
  rw [putNwt_eq]
  have noClaims : (u.setNwt (u.putNwt f.source (some ⟨f.record, f.round, u.bc.round, false⟩)).nwt).cle.list = [] := by
    change u.cle.list = []
    rw [cle]
    exact h.noClaims
  exact (passRecord_serves noClaims _ _ _).port.trans port

/-! ## A peer restarted (R25, R99, R115, R140) -/

theorem takeRecord_free {s : State} {a : Nat} (t : s.tanksFree a) (g : s.segmentsFree a) (inc : Nat) (w : Word) (r : StatusRecord) :
    (takeRecord a inc w r s).tanksFree a ∧ (takeRecord a inc w r s).segmentsFree a := by
  unfold takeRecord
  rw [putNwt_eq]
  generalize (s.putNwt a (some ⟨r, w, s.bc.round, false⟩)).nwt = n
  have tanks : (s.setNwt n).tanksFree a := ⟨t.grants, t.waits, t.memory⟩
  have segments : (s.setNwt n).segmentsFree a := ⟨g.waits, g.holders⟩
  exact passRecord_free tanks segments inc r

theorem takeHeader_free {s : State} {a inc : Nat} (k : (s.rosterOf a).presence ≠ .absent)
    (d : (s.rosterOf a).incarnation ≠ inc) (l : Bool) (free : s.freeUnheld) :
    (takeHeader a inc l s).tanksFree a ∧ (takeHeader a inc l s).segmentsFree a := by
  rw [takeHeader_restarted k d]
  have start : (reportPeer a (.restarted inc (s.rosterOf a).incarnation) (s.putRoster a ⟨.present, inc, s.bc.round, 0, l⟩)).freeUnheld := by
    rw [putRoster_eq]
    unfold reportPeer
    split
    · exact (SameHolds.report _ _).freeUnheld free
    · exact free
  generalize reportPeer a _ _ = u at start
  obtain ⟨tanks, segments⟩ := peerGone_free a start
  exact ⟨scanQueue_free tanks, segmentsFree_congr (scanQueue_sga _) segments⟩

theorem frameRecorded_free {s : State} {f : StationFrame} (k : (s.rosterOf f.source).presence ≠ .absent)
    (d : (s.rosterOf f.source).incarnation ≠ f.incarnation) (free : s.freeUnheld) :
    (frameRecorded f s).holdsNothingOf f.source := by
  obtain ⟨tanks, segments⟩ := takeHeader_free k d f.leaving free
  exact (holdsNothingOf_iff _ _).mpr (takeRecord_free tanks segments _ _ _)

theorem putNwt_cle (s : State) (a : Nat) (e : Option NwtEntry) : (s.putNwt a e).cle = s.cle := by
  rw [putNwt_eq]
  rfl

theorem frameRecorded_ends {s : State} {f : StationFrame} (k : (s.rosterOf f.source).presence ≠ .absent)
    (d : (s.rosterOf f.source).incarnation ≠ f.incarnation) (o : s.orderly) {x : Claim} (m : x ∈ s.cle.list)
    (dep : dependsOn f.source x = true) :
    (frameRecorded f s).follows x .ownerLost ∧ (frameRecorded f s).closesAll x.sequence := by
  unfold frameRecorded takeRecord
  rw [takeHeader_restarted k d]
  have start : (reportPeer f.source (.restarted f.incarnation (s.rosterOf f.source).incarnation)
      (s.putRoster f.source ⟨.present, f.incarnation, s.bc.round, 0, f.leaving⟩)).cle = s.cle := by
    rw [reportPeer_cle, putRoster_eq]
    rfl
  generalize reportPeer f.source _ _ = u at start
  exact restarted_claims (s := u) (putNwt_cle _ _ _) (o.congr start) (by rw [start]; exact m) dep _ _

end Sys2Proof.Machine
end

section

namespace Sys2Proof.Machine

/-! ## A station frame taken -/

/-- What a frame leaves of its sender, and of the others (R22 to R26, R32). -/
theorem takeFrame_entries {f : StationFrame} (v : validAddr f.source = true) (s : State) :
    (takeFrame f s).rosterOf f.source = ⟨.present, f.incarnation, s.bc.round, 0, f.leaving⟩ ∧
      (takeFrame f s).nwtOf f.source = some ⟨f.record, f.round, s.bc.round, false⟩ ∧
      (takeFrame f s).bc.heard = f.source :: s.bc.heard ∧ (takeFrame f s).bc.round = s.bc.round ∧
      ∀ a, a ≠ f.source → (takeFrame f s).rosterOf a = s.rosterOf a ∧ (takeFrame f s).nwtOf a = s.nwtOf a := by
  have w := takeMessages_works (Works.refl (frameRecorded f (s.hears f.source))) f.source f.incarnation f.messages
  have g := (frameRecorded_grows f (s.hears f.source)).trans w.grows
  rw [← takeFrame_eq] at w g
  refine ⟨?_, ?_, ?_, ?_, fun a n => ⟨?_, ?_⟩⟩
  · rw [w.rosterOf, frameRecorded_rosterOf, rosterOf_putRoster, if_pos ⟨rfl, v⟩]
    rfl
  · rw [w.nwtOf, frameRecorded_nwtOf, nwtOf_putNwt, if_pos ⟨rfl, v⟩]
    rfl
  · rw [g.bc]
    rfl
  · rw [g.bc]
    rfl
  · rw [w.rosterOf, frameRecorded_rosterOf, rosterOf_putRoster_other _ n]
    rfl
  · rw [w.nwtOf, frameRecorded_nwtOf, nwtOf_putNwt_other _ n]
    rfl

/-- The messages of a frame, handed on in JOINED and HOLDING only (R6, Tables 1-2 and 1-3). -/
theorem takeFrame_messages (f : StationFrame) (s : State) :
    (s.serving = true → takeFrame f s = (f.messages.filter fun m => m.dest = s.ident.address).foldl
        (fun s m => takeMessage f.source f.incarnation m.body s) (frameRecorded f (s.hears f.source))) ∧
      (s.serving = false → takeFrame f s = frameRecorded f (s.hears f.source)) := by
  have g := frameRecorded_grows f (s.hears f.source)
  refine ⟨fun _ => ?_, fun n => ?_⟩
  · rw [takeFrame_eq, takeMessages_filter, g.ident]
    rfl
  · rw [takeFrame_eq]
    refine takeMessages_idle ?_ _ _ _
    unfold State.serving
    rw [g.bc]
    exact n

/-- The PEER record of a frame, told over the messages (R24, R25, R29). -/
theorem takeFrame_tells {f : StationFrame} {s : State} (h : s.serving = true ∨ s.bc.busState = .silent) :
    ((s.rosterOf f.source).presence = .absent → s.tells (takeFrame f s) 0 (.peer f.source (.joined f.incarnation))) ∧
      ((s.rosterOf f.source).presence ≠ .absent → (s.rosterOf f.source).incarnation ≠ f.incarnation →
        s.tells (takeFrame f s) 0 (.peer f.source (.restarted f.incarnation (s.rosterOf f.source).incarnation))) := by
  have w := (takeMessages_works (Works.refl (frameRecorded f (s.hears f.source))) f.source f.incarnation f.messages).grows
  rw [← takeFrame_eq] at w
  exact ⟨fun k => (frameRecorded_joins (s := s.hears f.source) h k).grows w,
    fun k d => (frameRecorded_restarts (s := s.hears f.source) h k d).grows w⟩

theorem takeFrame_listen {s : State} (h : s.hush) (l : s.bc.busState = .listen) (f : StationFrame) :
    (takeFrame f s).port = s.port := by
  rw [(takeFrame_messages f s).2 h.1]
  exact frameRecorded_listen (s := s.hears f.source) (h.setBc _ rfl) l f

/-- A peer that restarts with no message to this station leaves nothing held, and its claims end (R25, R99, R115, R140). -/
theorem takeFrame_restarted {f : StationFrame} {s : State} (k : (s.rosterOf f.source).presence ≠ .absent)
    (d : (s.rosterOf f.source).incarnation ≠ f.incarnation) (n : ∀ m ∈ f.messages, m.dest ≠ s.ident.address) (free : s.freeUnheld) :
    (takeFrame f s).holdsNothingOf f.source ∧
      (s.orderly → ∀ x ∈ s.cle.list, dependsOn f.source x = true →
        (takeFrame f s).follows x .ownerLost ∧ (takeFrame f s).closesAll x.sequence) := by
  have g := frameRecorded_grows f (s.hears f.source)
  have e : takeFrame f s = frameRecorded f (s.hears f.source) := by
    rw [takeFrame_eq]
    exact takeMessages_others (fun m i => by rw [g.ident]; exact n m i) _ _
  rw [e]
  exact ⟨frameRecorded_free (s := s.hears f.source) k d free,
    fun o x m dep => frameRecorded_ends (s := s.hears f.source) k d o m dep⟩

theorem lawEleven_hush {s : State} (h : s.lawEleven) (l : s.bc.busState = .listen) : s.hush :=
  ((lawEleven_iff s).1 h).resolve_left fun b => by
    have := b.1
    simp [State.serving, l] at this

/-! ## The frame of another station -/

/-- With nothing due, no *stuck* stands before a HOLD_FREE (R133, R141). -/
theorem exec_holdFree {s : State} (r : s.ready) (src inc q i : Nat) :
    exec (.holdFree src inc q i) s = .next (takeMessage src inc (.holdFree q i) s) := by
  refine congrArg Host.Outcome.next ?_
  split
  · rw [if_neg (by simp [State.held, r.1]), beforeStuck, if_neg (by simp [r.2]), settle_none r.2]
  · exact act_ready r _

/-- A message command hands its message on; those without an incarnation in their row do not use one (R84). -/
theorem exec_message {s : State} (r : s.ready) (src inc q i k v : Nat) :
    exec (.holdReq src inc q i k) s = .next (takeMessage src inc (.holdReq q i k) s) ∧
    exec (.holdFree src inc q i) s = .next (takeMessage src inc (.holdFree q i) s) ∧
    exec (.holdGiven src q i) s = .next (takeMessage src inc (.holdGiven q i) s) ∧
    (∀ r, exec (.holdRefused src q i r) s = .next (takeMessage src inc (.holdRefused q i r) s)) ∧
    (∀ x, exec (.claim src inc q x i k v) s = .next (takeMessage src inc (.claim q x i k v) s)) ∧
    exec (.grant src q v) s = .next (takeMessage src inc (.grant q v) s) ∧
    (∀ r, exec (.refuse src q r) s = .next (takeMessage src inc (.refuse q r) s)) ∧
    exec (.revoke src q) s = .next (takeMessage src inc (.revoke q) s) ∧
    exec (.cancel src inc q) s = .next (takeMessage src inc (.cancel q) s) ∧
    ∀ r, exec (.endMsg src inc q v r) s = .next (takeMessage src inc (.endMsg q v r) s) :=
  have row (n : Nat) (b : MsgBody) : Host.Outcome.next (act (takeMessage src n b) s) =
      (.next (takeMessage src n b s) : Host.Outcome State Fault Refusal) := congrArg Host.Outcome.next (act_ready r _)
  ⟨row inc _, exec_holdFree r src inc q i, row 0 (.holdGiven q i), fun x => row 0 (.holdRefused q i x), fun x => row inc (.claim q x i k v),
    row 0 (.grant q v), fun x => row 0 (.refuse q x), row 0 (.revoke q), row inc (.cancel q), fun x => row inc (.endMsg q v x)⟩

/-- Settles O19: a frame in its own slot is taken at the instant of its last bit, and the instant's passing changes no entry, no claim and no
hold. -/
theorem stationFrameIsTaken : Obligations.StationFrameIsTaken := by
  refine ⟨fun l f first last c s r h k rd n le sf sl g => ?_, fun l first last s r h => ?_, fun l f first last s r rd n h => ?_,
    fun l first last s r k h => ?_, fun src inc q i k v s r => exec_message r src inc q i k v⟩
  · have hushed : s.bc.busState = .listen → s.lawEleven → (timeTo last s).hush :=
      fun listen law => (lawEleven_hush law listen).timeTo last
    have v := readFrame_validAddr rd
    refine ⟨takeFrame f (timeTo last s), by rw [exec_stationFrame r, takeStation_hears h k rd n le sf sl g], ?_⟩
    obtain ⟨x, d, e⟩ := timeTo_movedTo g
    rw [e] at hushed ⊢
    obtain ⟨roster, nwt, heard, round, others⟩ := takeFrame_entries v (s.movedTo last x d)
    have messages := takeFrame_messages f (s.movedTo last x d)
    have told := takeFrame_tells (f := f) (s := s.movedTo last x d)
    have listening : s.bc.busState = .listen → s.lawEleven → (takeFrame f (s.movedTo last x d)).port = (s.movedTo last x d).port :=
      fun listen law => takeFrame_listen (hushed listen law) listen f
    have restarted := takeFrame_restarted (f := f) (s := s.movedTo last x d)
    generalize takeFrame f (s.movedTo last x d) = t at roster nwt heard round others messages told listening restarted
    refine ⟨roster, nwt, heard, round, others, fun u eu => ?_, told, fun listen law => ?_, fun present diff no free => ?_⟩
    · have eu' : u = frameRecorded f ((s.movedTo last x d).hears f.source) := eu
      rw [← eu'] at messages
      exact ⟨messages.1, messages.2⟩
    · rw [listening listen law]
      rfl
    · obtain ⟨nothing, ended⟩ := restarted present diff no free
      refine ⟨nothing, fun once noTrain y m dep => ?_⟩
      obtain ⟨follows, closes⟩ := ended ⟨once, noTrain⟩ y m dep
      exact ended_of_follows follows closes
  · rw [exec_stationFrame r, takeStation_discards h]
  · rw [exec_stationFrame r, takeStation_misplaced rd n h]
  · rw [exec_stationFrame r, takeStation_outside k h]

end Sys2Proof.Machine
end

section

namespace Sys2Proof.Machine

/-! ## Law 12 at every step -/

theorem tickMs_awake {s : State} (h : s.awake) : (tickMs s).awake := by
  unfold tickMs
  split
  · split
    · exact timeTo_awake h _
    · exact passSupply_awake h _
  · exact passSupply_awake h _

/-- A station whose RESET is high is not in a cold reset. -/
theorem rosterSound_awake {s : State} (h : s.rosterSound) (r : s.ident.resetLow = false) : s.awake := by
  obtain ⟨law, own, valid, cold⟩ := h
  refine ⟨⟨law, own, valid, cold⟩, ?_⟩
  by_contra c
  rw [(cold (by simpa using c)).1] at r
  cases r

theorem exec_rosterSound (c : Instr) (s t : State) (e : Sys2Proof.Machine.exec c s = .next t) (h : s.rosterSound) :
    t.rosterSound := by
  cases r : s.ident.resetLow
  · exact exec_awake c (rosterSound_awake h r) e
  · exact exec_asleep c r h e

theorem idle_rosterSound {s : State} (h : s.rosterSound) : (idle s).rosterSound := by
  unfold idle
  split
  · exact h
  · rename_i r
    exact (tickMs_awake (settle_awake (rosterSound_awake h (by simpa [State.held] using r)))).1

/-- Settles O5: while RESET is high no cold reset is in progress, and each command keeps the law in either case. -/
theorem lawTwelveIsKept : Obligations.LawTwelveIsKept :=
  fun _ _ h e => step_keeps (P := State.rosterSound) (fun _ h => h) exec_rosterSound idle_rosterSound h e

end Sys2Proof.Machine
end

section

namespace Sys2Proof.Machine

/-! ## What a missed slot can do (R26, R27, R33, R34) -/

/-- A slot counts as missed: another station's, in a round that ran to the slot's end, with no frame heard in it (R26). -/
def State.misses (s : State) (ran a : Nat) : Prop := a ≠ s.ident.address ∧ 4 * (a + 1) ≤ ran ∧ a ∉ s.bc.heard

/-- The state once a lost address's entries are gone and its PEER record is made (R27, R29, R34). -/
def State.loses (s : State) (a : Nat) : State :=
  reportPeer a (.lost (s.rosterOf a).incarnation (s.rosterOf a).leaving) ((s.putRoster a RosterEntry.absent).putNwt a none)

/-- A roster entry after a missed slot (R27). -/
def RosterEntry.afterMiss (e : RosterEntry) : RosterEntry :=
  match e.presence with
  | .absent => e
  | .present => { e with presence := .stale, missed := 1 }
  | .stale => if e.missed < 2 then { e with missed := e.missed + 1 } else RosterEntry.absent

/-- The NWT entry that goes with a roster entry, after a missed slot (R33, R34). -/
def RosterEntry.nwtAfterMiss (e : RosterEntry) (n : Option NwtEntry) : Option NwtEntry :=
  match e.presence with
  | .absent => n
  | .present => n.map fun n => { n with stale := true }
  | .stale => if e.missed < 2 then n else none

theorem missSlot_skips {ran : Nat} {s : State} {a : Nat} (h : ¬s.misses ran a) : missSlot ran s a = s := by
  unfold missSlot
  rw [if_pos]
  by_contra c
  refine h ⟨fun e => c (by simp [e]), ?_, fun m => c (by simp [m])⟩
  by_contra l
  exact c (by simp [slotOccurred, l])

theorem missSlot_counts {ran : Nat} {s : State} {a : Nat} (h : s.misses ran a) : missSlot ran s a =
    match (s.rosterOf a).presence with
    | .absent => s
    | .present => (s.putRoster a { s.rosterOf a with presence := .stale, missed := 1 }).putNwt a
        ((s.nwtOf a).map fun n => { n with stale := true })
    | .stale =>
      if (s.rosterOf a).missed + 1 < 3 then s.putRoster a { s.rosterOf a with missed := (s.rosterOf a).missed + 1 }
      else peerGone a (s.loses a) := by
  obtain ⟨own, occurred, heard⟩ := h
  unfold missSlot
  rw [if_neg (by simp [own, occurred, heard, slotOccurred])]
  rfl

/-- A slot missed for the third time running loses its address (R27). -/
theorem missSlot_loses {ran : Nat} {s : State} {a : Nat} (h : s.misses ran a) (p : (s.rosterOf a).presence = .stale)
    (m : 2 ≤ (s.rosterOf a).missed) : missSlot ran s a = peerGone a (s.loses a) := by
  rw [missSlot_counts h, p]
  exact if_neg (by omega)

/-- A missed slot changes entries only, or loses its address. -/
theorem missSlot_cases (ran : Nat) (s : State) (a : Nat) : (∃ v w, missSlot ran s a = (s.setRoster v).setNwt w) ∨
    ((s.rosterOf a).presence = .stale ∧ 2 ≤ (s.rosterOf a).missed ∧ a ∉ s.bc.heard ∧ missSlot ran s a = peerGone a (s.loses a)) := by
  by_cases h : s.misses ran a
  · cases p : (s.rosterOf a).presence with
    | absent => exact .inl ⟨s.roster, s.nwt, missSlot_absent p⟩
    | present =>
      rw [missSlot_counts h, p]
      dsimp only
      rw [putNwt_eq, putRoster_eq]
      exact .inl ⟨_, _, rfl⟩
    | stale =>
      by_cases m : (s.rosterOf a).missed < 2
      · rw [missSlot_counts h, p]
        dsimp only
        rw [if_pos (by omega)]
        exact .inl ⟨(s.putRoster a _).roster, s.nwt, putRoster_eq s a _⟩
      · exact .inr ⟨rfl, by omega, h.2.2, missSlot_loses h p (by omega)⟩
  · exact .inl ⟨s.roster, s.nwt, missSlot_skips h⟩

/-- An address lost, its record apart, changes entries only. -/
theorem loses_eq (s : State) (a : Nat) : ∃ v w, s.loses a =
    reportPeer a (.lost (s.rosterOf a).incarnation (s.rosterOf a).leaving) ((s.setRoster v).setNwt w) := by
  unfold State.loses
  rw [putNwt_eq, putRoster_eq]
  exact ⟨_, _, rfl⟩

theorem loses_works (s : State) (a : Nat) : Works ((s.putRoster a RosterEntry.absent).putNwt a none) (peerGone a (s.loses a)) :=
  peerGone_works (reportPeer_works (Works.refl _) _ _) a

/-- The entries of the address itself. -/
theorem missSlot_entries {ran : Nat} {s : State} {a : Nat} (v : validAddr a = true) (h : s.misses ran a) :
    (missSlot ran s a).rosterOf a = (s.rosterOf a).afterMiss ∧
      (missSlot ran s a).nwtOf a = (s.rosterOf a).nwtAfterMiss (s.nwtOf a) := by
  have put (e : RosterEntry) : (s.putRoster a e).rosterOf a = e := by rw [rosterOf_putRoster, if_pos ⟨rfl, v⟩]
  have putN (u : State) (n : Option NwtEntry) : (u.putNwt a n).nwtOf a = n := by rw [nwtOf_putNwt, if_pos ⟨rfl, v⟩]
  unfold RosterEntry.afterMiss RosterEntry.nwtAfterMiss
  cases p : (s.rosterOf a).presence with
  | absent =>
    rw [missSlot_absent p]
    exact ⟨rfl, rfl⟩
  | present =>
    rw [missSlot_counts h, p]
    dsimp only
    rw [putNwt_rosterOf, put, putN]
    exact ⟨rfl, rfl⟩
  | stale =>
    by_cases m : (s.rosterOf a).missed < 2
    · rw [missSlot_counts h, p]
      dsimp only
      rw [if_pos (by omega), if_pos m, if_pos m, put, putRoster_nwtOf, p]
      exact ⟨rfl, rfl⟩
    · have w := loses_works s a
      rw [missSlot_loses h p (by omega), w.rosterOf, w.nwtOf, putNwt_rosterOf, put, putN, if_neg m, if_neg m]
      exact ⟨rfl, rfl⟩

/-- The NWT entries of the other addresses stand. -/
theorem missSlot_nwtOf_other (ran : Nat) (s : State) {a b : Nat} (n : b ≠ a) : (missSlot ran s a).nwtOf b = s.nwtOf b := by
  by_cases h : s.misses ran a
  · rw [missSlot_counts h]
    split
    · rfl
    · rw [nwtOf_putNwt_other _ n, putRoster_nwtOf]
    · split
      · rw [putRoster_nwtOf]
      · rw [(loses_works s a).nwtOf, nwtOf_putNwt_other _ n, putRoster_nwtOf]
  · rw [missSlot_skips h]

/-! ## The count over all addresses (R26) -/

/-- Slots of other addresses leave the entries of an address, and what decides whether its own slot is missed. -/
theorem missSlots_others (ran : Nat) {l : List Nat} {s : State} {a : Nat} (n : a ∉ l) :
    (l.foldl (missSlot ran) s).rosterOf a = s.rosterOf a ∧ (l.foldl (missSlot ran) s).nwtOf a = s.nwtOf a ∧
      ((l.foldl (missSlot ran) s).misses ran a ↔ s.misses ran a) := by
  induction l generalizing s with
  | nil => exact ⟨rfl, rfl, .rfl⟩
  | cons b l ih =>
    have d := List.ne_of_not_mem_cons n
    have n := List.not_mem_of_not_mem_cons n
    obtain ⟨roster, nwt, misses⟩ := ih (s := missSlot ran s b) n
    have g := missSlot_grows ran s b
    refine ⟨roster.trans (missSlot_other ran s d), nwt.trans (missSlot_nwtOf_other ran s d), misses.trans ?_⟩
    unfold State.misses
    rw [g.ident, g.bc]

/-- The addresses below an address, itself, and those above it. -/
theorem addresses_split {a : Nat} (v : validAddr a = true) : ∃ l m, addresses = l ++ a :: m ∧ l.length = a - 1 ∧
    (∀ b ∈ l, validAddr b = true ∧ b < a) ∧ a ∉ m := by
  have all : ∀ i < 24, addresses = addresses.take i ++ (i + 1) :: addresses.drop (i + 1) ∧ (addresses.take i).length = i ∧
      (∀ b ∈ addresses.take i, validAddr b = true ∧ b < i + 1) ∧ i + 1 ∉ addresses.drop (i + 1) := by decide
  simp only [validAddr, Bool.and_eq_true, decide_eq_true_eq] at v
  obtain ⟨i, rfl⟩ : ∃ i, a = i + 1 := ⟨a - 1, by omega⟩
  exact ⟨_, _, all i (by omega)⟩

/-- The entries of an address after the count of missed slots. -/
theorem missedSlots_entries {ran : Nat} {s : State} {a : Nat} (v : validAddr a = true) :
    (s.misses ran a → (missedSlots ran s).rosterOf a = (s.rosterOf a).afterMiss ∧
      (missedSlots ran s).nwtOf a = (s.rosterOf a).nwtAfterMiss (s.nwtOf a)) ∧
    (¬s.misses ran a → (missedSlots ran s).rosterOf a = s.rosterOf a ∧ (missedSlots ran s).nwtOf a = s.nwtOf a) := by
  obtain ⟨l, m, e, -, below, above⟩ := addresses_split v
  have w := missedSlots_after ran s
  rw [e, List.foldl_append, List.foldl_cons] at w
  obtain ⟨roster, nwt, misses⟩ := missSlots_others ran (s := s) fun k => Nat.lt_irrefl a (below a k).2
  generalize l.foldl (missSlot ran) s = u at w roster nwt misses
  obtain ⟨roster', nwt', -⟩ := missSlots_others ran (s := missSlot ran u a) above
  rw [w.rosterOf, w.nwtOf, roster', nwt', ← roster, ← nwt, ← misses]
  exact ⟨missSlot_entries v, fun n => by rw [missSlot_skips n]; exact ⟨rfl, rfl⟩⟩

end Sys2Proof.Machine
end

section

namespace Sys2Proof.Machine

/-! ## A FREE segment stays without a holder -/

theorem putSeg_freeUnheld {s : State} (h : s.freeUnheld) (i : Nat) {x : Segment} (k : x.state = .free → x.holder = none) :
    (s.putSeg i x).freeUnheld := by
  intro j
  rw [segOf_putSeg]
  split
  · exact k
  · exact h j

theorem State.freeUnheld.holdWaits {s : State} (h : s.freeUnheld) (l : List HoldWait) : (s.setHoldWaits l).freeUnheld := h

theorem refuseWaiters_freeUnheld {s : State} (h : s.freeUnheld) (i : Nat) : (refuseWaiters i s).freeUnheld := by
  have sent := SameHolds.foldl (f := fun s w => send w.id.address (.holdRefused w.id.sequence i .segmentOut) s)
    (fun s _ => SameHolds.send _ _ s) (s.sga.waits.filter (·.segment == i)) (s.setHoldWaits (s.sga.waits.filter (·.segment != i)))
  exact sent.freeUnheld (h.holdWaits _)

theorem giveAttempt_freeUnheld {s : State} (h : s.freeUnheld) (i : Nat) (id : ClaimId) : (giveAttempt i id s).freeUnheld := by
  unfold giveAttempt
  dsimp only
  have o := (SameHolds.openRole (.segment i) s).freeUnheld h
  generalize (openRole (.segment i) s).1 = u at o
  split
  · exact (SameHolds.send _ _ _).freeUnheld (putSeg_freeUnheld o i nofun)
  · have c := (SameHolds.send id.address (.holdRefused id.sequence i .segmentOut) _).freeUnheld
      (putSeg_freeUnheld ((SameHolds.closeRole (.segment i) u).freeUnheld o) i (x := ⟨.fault, none, 0⟩) nofun)
    split
    · exact c
    · exact refuseWaiters_freeUnheld c i

/-- A FAULT that clears, if it clears, leaves its segment without the holder it did not have (R137). -/
theorem clearFault_cases (i : Nat) (s : State) : clearFault i s = s ∨
    ((s.segOf i).holder = none ∧ clearFault i s = s.putSeg i { s.segOf i with state := .free }) := by
  have cases (p : Bool) (t : State) (e : t = if decide ((s.segOf i).state = .fault) && (s.segOf i).holder.isNone &&
      s.travelOf (.segment i) == .closed && p then s.putSeg i { s.segOf i with state := .free } else s) :
      t = s ∨ ((s.segOf i).holder = none ∧ t = s.putSeg i { s.segOf i with state := .free }) := by
    split at e
    · rename_i c
      simp only [Bool.and_eq_true] at c
      exact .inr ⟨by simpa using c.1.1.2, e⟩
    · exact .inl e
  exact cases _ _ rfl

theorem clearFault_freeUnheld {s : State} (h : s.freeUnheld) (i : Nat) : (clearFault i s).freeUnheld := by
  rcases clearFault_cases i s with e | ⟨none, e⟩
  · rw [e]
    exact h
  · rw [e]
    exact putSeg_freeUnheld h i fun _ => none

theorem releaseSeg_freeUnheld {s : State} (h : s.freeUnheld) (i : Nat) : (releaseSeg i s).freeUnheld := by
  unfold releaseSeg
  split
  · have p := putSeg_freeUnheld ((SameHolds.closeRole (.segment i) s).freeUnheld h) i (x := ⟨.free, none, 0⟩) fun _ => rfl
    dsimp only
    split
    · exact giveAttempt_freeUnheld (p.holdWaits _) i _
    · exact p
  · exact clearFault_freeUnheld ((SameHolds.closeRole (.segment i) _).freeUnheld (putSeg_freeUnheld h i (x := ⟨.fault, none, 0⟩) nofun)) i
  · exact h

theorem peerGone_freeUnheld {s : State} (h : s.freeUnheld) (a : Nat) : (peerGone a s).freeUnheld := by
  have claims := (SameHolds.endWhere (dependsOn a) .ownerLost s).freeUnheld h
  refine Stable.foldl (P := State.freeUnheld) (fun s i h => ?_) _ (peerTanks_freeUnheld a claims)
  unfold dropHold
  repeat' split
  · exact releaseSeg_freeUnheld h i
  · exact h
  · exact h

/-! ## An address that holds nothing comes to hold nothing -/

/-- Nothing is held or waited for by the address, and no FREE segment has a holder. -/
structure State.ridOf (s : State) (a : Nat) : Prop where
  tanks : s.tanksFree a
  segments : s.segmentsFree a
  free : s.freeUnheld

theorem SameHolds.ridOf {s t : State} {a : Nat} (h : SameHolds s t) (k : s.ridOf a) : t.ridOf a :=
  ⟨h.tanksFree k.tanks, h.segmentsFree k.segments, h.freeUnheld k.free⟩

/-- The arbiter stands, and the Tank Manager holds nothing of the address. -/
theorem State.ridOf.congr {s t : State} {a : Nat} (k : s.ridOf a) (h : t.tanksFree a) (e : t.sga = s.sga) : t.ridOf a :=
  ⟨h, segmentsFree_congr e k.segments, fun i => by
    unfold State.segOf
    rw [e]
    exact k.free i⟩

theorem State.ridOf.holdWaits {s : State} {a : Nat} (k : s.ridOf a) {l : List HoldWait} (h : ∀ w ∈ l, w.id.address ≠ a) :
    (s.setHoldWaits l).ridOf a := ⟨⟨k.tanks.grants, k.tanks.waits, k.tanks.memory⟩, ⟨h, k.segments.holders⟩, k.free⟩

theorem State.ridOf.putSeg {s : State} {a : Nat} (k : s.ridOf a) (i : Nat) {x : Segment} (h : x.state = .free → x.holder = none)
    (o : ∀ id, x.holder = some id → id.address ≠ a) : (s.putSeg i x).ridOf a := by
  refine ⟨⟨k.tanks.grants, k.tanks.waits, k.tanks.memory⟩, ⟨k.segments.waits, fun j => ?_⟩, putSeg_freeUnheld k.free i h⟩
  rw [segOf_putSeg]
  split
  · exact o
  · exact k.segments.holders j

theorem releaseSeg_ridOf {s : State} {a i : Nat} (k : s.ridOf a) (h : (s.segOf i).state ≠ .free) : (releaseSeg i s).ridOf a := by
  have start : Clean s a i s := ⟨k.tanks, k.segments.waits, k.free, fun _ _ => rfl⟩
  obtain ⟨c, own⟩ := releaseSeg_clean start h
  refine ⟨c.tanks, ⟨c.waits, fun j => ?_⟩, c.free⟩
  by_cases d : i = j
  · exact d ▸ own
  · rw [c.others j d]
    exact k.segments.holders j

/-- A segment that has a holder is not FREE. -/
theorem State.freeUnheld.held {s : State} (h : s.freeUnheld) {i : Nat} {id : ClaimId} (e : (s.segOf i).holder = some id) :
    (s.segOf i).state ≠ .free := fun f => by
  rw [h i f] at e
  cases e

theorem peerSegments_ridOf {s : State} {a : Nat} (k : s.ridOf a) (b : Nat) : (peerSegments b s).ridOf a := by
  refine Stable.foldl (P := fun s => s.ridOf a) (fun s i k => ?_) _
    (k.holdWaits fun w m => k.segments.waits w (List.mem_filter.mp m).1)
  unfold dropHold
  split
  · rename_i id e
    split
    · exact releaseSeg_ridOf k (k.free.held e)
    · exact k
  · exact k

theorem peerTanks_ridOf {s : State} {a : Nat} (k : s.ridOf a) (b : Nat) : (peerTanks b s).ridOf a := by
  have grants : ∀ t, ∀ g ∈ (s.tankOf t).grants.filter (fun g => !(g.id.address == b)), g.id.address ≠ a :=
    fun t g m => k.tanks.grants t g (List.mem_filter.mp m).1
  have first := setGrants_free (t := 0) k.tanks (grants 0)
  have second := setGrants_free (t := 1) (l := (((s.setGrants 0 _).tankOf 1).grants.filter fun g => !(g.id.address == b))) first
    fun g m => first.grants 1 g (List.mem_filter.mp m).1
  exact k.congr ⟨second.grants, fun w m => k.tanks.waits w (List.mem_filter.mp m).1,
    fun r m => k.tanks.memory r (List.mem_filter.mp m).1⟩ rfl

theorem peerGone_ridOf {s : State} {a : Nat} (k : s.ridOf a) (b : Nat) : (peerGone b s).ridOf a :=
  peerSegments_ridOf (peerTanks_ridOf ((SameHolds.endWhere _ _ s).ridOf k) b) b

theorem scanQueue_ridOf {s : State} {a : Nat} (k : s.ridOf a) : (scanQueue s).ridOf a :=
  k.congr (scanQueue_free k.tanks) (scanQueue_sga s)

theorem sweepSegments_ridOf {s : State} {a : Nat} (k : s.ridOf a) (src inc : Nat) (l : List ClaimItem) :
    (sweepSegments src inc l s).ridOf a := by
  refine Stable.foldl (P := fun s => s.ridOf a) (fun s i k => ?_) _ (k.holdWaits fun w m => ?_)
  · unfold sweepHold
    dsimp only
    split
    · rename_i id e
      have same (n : Nat) : (s.putSeg i { s.segOf i with absentCount := n }).ridOf a :=
        k.putSeg i (k.free i) (k.segments.holders i)
      repeat' split
      · exact same _
      · exact same _
      · exact releaseSeg_ridOf k (k.free.held e)
      · exact k
    · exact k
  · obtain ⟨x, mx, e⟩ := List.mem_filterMap.mp m
    rw [sweepWait_id e]
    exact k.segments.waits x mx

theorem passRecord_ridOf {s : State} {a : Nat} (k : s.ridOf a) (src inc : Nat) (r : StatusRecord) : (passRecord src inc r s).ridOf a := by
  have c := (SameHolds.endWhere _ _ s : SameHolds s (recordClaims src r.segments s)).ridOf k
  exact sweepSegments_ridOf (c.congr (recordTanks_free c.tanks src inc r.claims) (recordTanks_sga _ _ _ _)) src inc r.claims

/-- Entries of roster and NWT are not held. -/
theorem SameHolds.entries (s : State) (v : Vector RosterEntry 24) (w : Vector (Option NwtEntry) 24) :
    SameHolds s ((s.setRoster v).setNwt w) := .of rfl rfl

theorem loses_holds (s : State) (a : Nat) : SameHolds s (s.loses a) := by
  obtain ⟨v, w, e⟩ := loses_eq s a
  rw [e]
  unfold reportPeer
  split
  · exact (SameHolds.entries s v w).trans (.report _ _)
  · exact .entries s v w

theorem missSlot_freeUnheld {s : State} (h : s.freeUnheld) (ran b : Nat) : (missSlot ran s b).freeUnheld := by
  rcases missSlot_cases ran s b with ⟨v, w, e⟩ | ⟨-, -, -, e⟩
  · rw [e]
    exact (SameHolds.entries s v w).freeUnheld h
  · rw [e]
    exact peerGone_freeUnheld ((loses_holds s b).freeUnheld h) b

theorem missSlot_ridOf {s : State} {a : Nat} (k : s.ridOf a) (ran b : Nat) : (missSlot ran s b).ridOf a := by
  rcases missSlot_cases ran s b with ⟨v, w, e⟩ | ⟨-, -, -, e⟩
  · rw [e]
    exact (SameHolds.entries s v w).ridOf k
  · rw [e]
    exact peerGone_ridOf ((loses_holds s b).ridOf k) b

/-- An address that is lost holds nothing after the count (R115, R140). -/
theorem missedSlots_ridOf {ran : Nat} {s : State} {a : Nat} (v : validAddr a = true) (h : s.misses ran a)
    (p : (s.rosterOf a).presence = .stale) (m : 2 ≤ (s.rosterOf a).missed) (free : s.freeUnheld) : (missedSlots ran s).ridOf a := by
  obtain ⟨l, r, e, -, below, -⟩ := addresses_split v
  obtain ⟨roster, -, misses⟩ := missSlots_others ran (s := s) fun k => Nat.lt_irrefl a (below a k).2
  have before : (l.foldl (missSlot ran) s).freeUnheld := Stable.foldl (P := State.freeUnheld) (fun s b h => missSlot_freeUnheld h ran b) l free
  have lost : ((a :: r).foldl (missSlot ran) (l.foldl (missSlot ran) s)).ridOf a := by
    generalize l.foldl (missSlot ran) s = u at roster misses before
    rw [← roster] at p m
    have start := (loses_holds u a).freeUnheld before
    obtain ⟨tanks, segments⟩ := peerGone_free a start
    rw [List.foldl_cons, missSlot_loses (misses.mpr h) p m]
    exact Stable.foldl (P := fun s => s.ridOf a) (fun s b k => missSlot_ridOf k ran b) r ⟨tanks, segments, peerGone_freeUnheld start a⟩
  unfold missedSlots
  dsimp only
  rw [e, List.foldl_append]
  split
  · exact scanQueue_ridOf lost
  · exact lost

end Sys2Proof.Machine
end

section

namespace Sys2Proof.Machine

/-! ## Claims that losses end (R83, R99) -/

theorem State.follows.congr {s t : State} {x : Claim} {r : EndReason} (k : s.follows x r) (e : t.cle = s.cle) : t.follows x r := by
  unfold State.follows
  rw [e]
  exact k

theorem State.closesAll.congr {s t : State} {q : Nat} (k : s.closesAll q) (e : t.cle = s.cle) : t.closesAll q := by
  unfold State.closesAll
  rw [e]
  exact k

/-- The claims that causes of one reason may have reached: the list is orderly, and the claim is as it was or follows the reason. -/
def State.tracks (s : State) (x : Claim) (r : EndReason) : Prop := s.orderly ∧ s.follows x r

theorem State.tracks.congr {s t : State} {x : Claim} {r : EndReason} (h : s.tracks x r) (e : t.cle = s.cle) : t.tracks x r :=
  ⟨h.1.congr e, h.2.congr e⟩

theorem State.tracks.endWhere {s : State} {x : Claim} {r : EndReason} (h : s.tracks x r) (p : Claim → Bool) :
    (endWhere p r s).tracks x r :=
  Stable.foldl (P := fun s => s.tracks x r) (fun _ q h => ⟨(endSeq_list h.1 r q).1, endSeq_follows h.1 q h.2⟩) _ h

/-- A claim is done with: the list is orderly, and the claim is in CLOSING by the reason, or as it stood there, or gone. -/
structure State.done (s : State) (x : Claim) (r : EndReason) : Prop where
  orderly : s.orderly
  follows : s.follows x r
  closes : s.closesAll x.sequence

namespace State.done

variable {s t : State} {x : Claim} {r : EndReason}

theorem congr (h : s.done x r) (e : t.cle = s.cle) : t.done x r := ⟨h.orderly.congr e, h.follows.congr e, h.closes.congr e⟩

theorem sublist (h : s.done x r) (l : t.cle.list.Sublist s.cle.list) : t.done x r :=
  ⟨h.orderly.sublist l, fun y m => h.follows y (l.mem m), fun y m => h.closes y (l.mem m)⟩

theorem endSeq (h : s.done x r) (r' : EndReason) (q : Nat) : (endSeq r' s q).done x r :=
  ⟨(endSeq_list h.orderly r' q).1, endSeq_keepsFollows h.orderly r' q h.closes h.follows, endSeq_keepsAll h.orderly r' q h.closes⟩

theorem endWhere (h : s.done x r) (p : Claim → Bool) (r' : EndReason) : (endWhere p r' s).done x r :=
  Stable.foldl (P := fun s => s.done x r) (fun _ q h => h.endSeq r' q) _ h

end State.done

/-- A cause meets a claim that still is as it was, and ends it. -/
theorem State.tracks.ends {s : State} {x : Claim} {r : EndReason} (h : s.tracks x r) {p : Claim → Bool} (d : p x = true) :
    (Sys2Proof.Machine.endWhere p r s).done x r := by
  have reached : x.sequence ∈ s.seqsWhere p ∨ s.closesAll x.sequence := by
    by_cases m : x ∈ s.cle.list
    · exact .inl (List.mem_map_of_mem (List.mem_filter.mpr ⟨m, d⟩))
    · refine .inr fun y my e => ?_
      rcases h.2 y my e with rfl | ⟨-, rfl⟩
      · exact absurd my m
      · rfl
  obtain ⟨o, k, c⟩ := foldEndSeq_closes _ h.1 h.2 reached
  exact ⟨o, k, c⟩

theorem peerGone_cle (a : Nat) (s : State) : (peerGone a s).cle = (endWhere (dependsOn a) .ownerLost s).cle := by
  unfold peerGone
  rw [(peerSegments_serves a _).cle, (peerTanks_serves a _).cle]
  rfl

theorem loses_cle (s : State) (a : Nat) : (s.loses a).cle = s.cle := by
  obtain ⟨v, w, e⟩ := loses_eq s a
  rw [e, reportPeer_cle]
  rfl

theorem missSlot_tracks {s : State} {x : Claim} (h : s.tracks x .ownerLost) (ran b : Nat) : (missSlot ran s b).tracks x .ownerLost := by
  rcases missSlot_cases ran s b with ⟨v, w, e⟩ | ⟨-, -, -, e⟩
  · rw [e]
    exact h.congr rfl
  · rw [e]
    exact ((h.congr (loses_cle s b)).endWhere (dependsOn b)).congr (peerGone_cle b _)

theorem missSlot_done {s : State} {x : Claim} {r : EndReason} (h : s.done x r) (ran b : Nat) : (missSlot ran s b).done x r := by
  rcases missSlot_cases ran s b with ⟨v, w, e⟩ | ⟨-, -, -, e⟩
  · rw [e]
    exact h.congr rfl
  · rw [e]
    exact ((h.congr (loses_cle s b)).endWhere (dependsOn b) .ownerLost).congr (peerGone_cle b _)

/-- A claim that depends on an address lost is done with after the count (R99). -/
theorem missedSlots_done {ran : Nat} {s : State} {a : Nat} (v : validAddr a = true) (h : s.misses ran a)
    (p : (s.rosterOf a).presence = .stale) (m : 2 ≤ (s.rosterOf a).missed) (o : s.orderly) {x : Claim} (mx : x ∈ s.cle.list)
    (d : dependsOn a x = true) : (missedSlots ran s).done x .ownerLost := by
  obtain ⟨l, r, e, -, below, -⟩ := addresses_split v
  obtain ⟨roster, -, misses⟩ := missSlots_others ran (s := s) fun k => Nat.lt_irrefl a (below a k).2
  have before : (l.foldl (missSlot ran) s).tracks x .ownerLost :=
    Stable.foldl (P := fun s => s.tracks x .ownerLost) (fun s b h => missSlot_tracks h ran b) l ⟨o, o.follows mx _⟩
  have ended : ((a :: r).foldl (missSlot ran) (l.foldl (missSlot ran) s)).done x .ownerLost := by
    generalize l.foldl (missSlot ran) s = u at roster misses before
    rw [← roster] at p m
    rw [List.foldl_cons, missSlot_loses (misses.mpr h) p m]
    exact Stable.foldl (P := fun s => s.done x .ownerLost) (fun s b k => missSlot_done k ran b) r
      (((before.congr (loses_cle u a)).ends d).congr (peerGone_cle a _))
  unfold missedSlots
  dsimp only
  rw [e, List.foldl_append]
  split
  · exact ended.congr (scanQueue_serves _).cle
  · exact ended

/-! ## A claim done with, at the entry to JOINED or HOLDING -/

theorem passRecord_done {s : State} {x : Claim} {r : EndReason} (h : s.done x r) (a inc : Nat) (w : StatusRecord) :
    (passRecord a inc w s).done x r := by
  refine (h.endWhere (fun c => c.heldSegs.any fun g => g.station == a && showsFault w.segments g.index) .segmentFault).congr ?_
  unfold passRecord
  rw [(sweepSegments_serves _ _ _ _).cle, (recordTanks_serves _ _ _ _).cle]
  rfl

theorem leaveList_done {s : State} {x c : Claim} {r : EndReason} (h : s.done x r) (m : c ∈ s.cle.list) : (leaveList c s).done x r :=
  h.sublist (by rw [leaveList_list (h.orderly.2 c m)]; exact List.filter_sublist)

/-- The end of a closing travel takes a claim from the list, if anything. -/
theorem cleNotice_done {s : State} {x : Claim} {r : EndReason} (h : s.done x r) {n : Notice} (k : n.kind = .travelDone .closed) :
    (cleNotice n s).done x r := by
  unfold cleNotice claimNotice
  rw [k]
  split
  · rename_i c e
    have m := List.mem_of_find?_eq_some e
    cases c.state
    case closing => exact leaveList_done h m
    all_goals exact h
  · exact h

theorem cleNotices_done {s : State} {x : Claim} {r : EndReason} (h : s.done x r) {l : List Notice}
    (k : ∀ n ∈ l, n.kind = .travelDone .closed) : (cleNotices l s).done x r := by
  unfold cleNotices
  induction l generalizing s with
  | nil => exact h
  | cons n l ih => exact ih (cleNotice_done h (k n (by simp))) fun m hm => k m (by simp [hm])

theorem stopInflow_done {s : State} {x : Claim} {r : EndReason} (h : s.done x r) : (stopInflow s).done x r := by
  unfold stopInflow
  split
  · have marked : (s.mapTrs fun t => { t with ownStop := true }).done x r := h.congr rfl
    exact marked.endSeq .stopped _
  · exact h

theorem stopTrain_done {s : State} {x : Claim} {r : EndReason} (h : s.done x r) : (stopTrain .supply s).done x r := by
  unfold stopTrain
  split
  · have e : (enterTrain .stopping .none .none .supply s).done x r := h.congr (enterTrain_cle _ _ _ _ s)
    generalize enterTrain .stopping .none .none .supply s = u at e
    have first : (stopFirst u).1.done x r := e.congr (by unfold stopFirst; simp)
    have notices := cleNotices_done first (closeRole_notices .divert (closeRole .highpress u).1)
    refine (stopInflow_done notices).congr ?_
    unfold stopLast
    rw [tryStopped_cle, askFlush_supply]
    simp
    rfl
  · exact h

theorem enterHolding_done {s : State} {x : Claim} {r : EndReason} (h : s.done x r) (first : Bool) : (enterHolding first s).done x r := by
  obtain ⟨v, e⟩ := entersHolding_eq s
  have start : s.entersHolding.done x r := h.congr (by rw [e])
  have split : enterHolding first s =
    if first then stopAll (stopTrain .supply s.entersHolding) else stopTrain .supply (stopAll s.entersHolding) := rfl
  rw [split]
  cases first
  · exact stopTrain_done (start.endWhere _ _)
  · exact (stopTrain_done start).endWhere _ _

theorem joinedNow_done {s : State} {x : Claim} {r : EndReason} (h : s.done x r) : s.joinedNow.done x r := by
  have entered : s.entersJoined.done x r := h.congr (by unfold State.entersJoined State.nowJoined; rw [putRoster_eq]; rfl)
  unfold State.joinedNow takeRecord
  exact passRecord_done (entered.congr (putNwt_cle _ _ _)) _ _ _

theorem join_done {s : State} {x : Claim} {r : EndReason} (h : s.done x r) : (join s).done x r := by
  rw [join_eq]
  split
  · exact enterHolding_done (joinedNow_done h) false
  · exact joinedNow_done h

/-! ## Nothing held, at the entry to JOINED or HOLDING -/

theorem SameHolds.cleNotice (n : Notice) (s : State) : SameHolds s (cleNotice n s) := by
  unfold Sys2Proof.Machine.cleNotice claimNotice
  repeat' split
  · exact toClosing _ _ s
  · exact toClosing _ _ s
  · exact toClosing _ _ s
  · exact setClaims s _
  · exact leaveList _ s
  · exact leaveList _ s
  · exact refl s
  · exact refl s

theorem SameHolds.stopTrain (c : StopCause) (s : State) : SameHolds s (stopTrain c s) := by
  have inflow : ∀ s, SameHolds s (stopInflow s) := by
    intro s
    unfold stopInflow
    split
    · exact (mapTrs s _).trans (endSeq _ _ _)
    · exact refl s
  have last : ∀ s, SameHolds s (stopLast c s) := fun s =>
    (((closeRole .feed s).trans (askFlush c _)).trans (mapTrs _ _)).trans (tryStopped _)
  unfold Sys2Proof.Machine.stopTrain
  split
  · have first := ((enterTrain .stopping .none .none c s).trans (closeRole .highpress _)).trans (closeRole .divert _)
    exact ((first.trans (foldl (fun s n => cleNotice n s) _ _)).trans (inflow _)).trans (last _)
  · exact refl s

theorem SameHolds.enterHolding (first : Bool) (s : State) : SameHolds s (enterHolding first s) := by
  obtain ⟨v, e⟩ := entersHolding_eq s
  have start : SameHolds s s.entersHolding := .of (by rw [e]) (by rw [e])
  have split : Sys2Proof.Machine.enterHolding first s = if first then stopAll (Sys2Proof.Machine.stopTrain .supply s.entersHolding)
    else Sys2Proof.Machine.stopTrain .supply (stopAll s.entersHolding) := rfl
  rw [split]
  cases first
  · exact (start.trans (endWhere _ _ _)).trans (stopTrain _ _)
  · exact (start.trans (stopTrain _ _)).trans (endWhere _ _ _)

theorem join_ridOf {s : State} {a : Nat} (k : s.ridOf a) : (join s).ridOf a := by
  have entered : SameHolds s s.entersJoined := by
    unfold State.entersJoined State.nowJoined
    rw [putRoster_eq]
    exact .of rfl rfl
  have entries (v : Vector (Option NwtEntry) 24) : (s.entersJoined.setNwt v).ridOf a :=
    have placed : SameHolds s.entersJoined (s.entersJoined.setNwt v) := .of rfl rfl
    placed.ridOf (entered.ridOf k)
  have joined : s.joinedNow.ridOf a := by
    unfold State.joinedNow takeRecord
    rw [putNwt_eq]
    exact passRecord_ridOf (entries _) _ _ _
  rw [join_eq]
  split
  · exact (SameHolds.enterHolding false _).ridOf joined
  · exact joined

end Sys2Proof.Machine
end

section

namespace Sys2Proof.Machine

/-! ## The records of losses, in ascending addresses (R29) -/

/-- A slot that loses no address makes no record. -/
theorem missSlot_port {ran : Nat} {s : State} {a : Nat}
    (h : a ∈ s.bc.heard ∨ (s.rosterOf a).presence ≠ .stale ∨ (s.rosterOf a).missed < 2) : (missSlot ran s a).port = s.port := by
  rcases missSlot_cases ran s a with ⟨v, w, e⟩ | ⟨stale, two, silent, -⟩
  · rw [e]
    rfl
  · rcases h with h | h | h
    · exact absurd h silent
    · exact absurd stale h
    · omega

theorem missSlots_port {ran : Nat} {l : List Nat} (nd : l.Nodup) {s : State}
    (h : ∀ a ∈ l, a ∈ s.bc.heard ∨ (s.rosterOf a).presence ≠ .stale ∨ (s.rosterOf a).missed < 2) :
    (l.foldl (missSlot ran) s).port = s.port := by
  induction l generalizing s with
  | nil => rfl
  | cons a l ih =>
    obtain ⟨n, nd⟩ := List.nodup_cons.mp nd
    refine (ih nd fun b m => ?_).trans (missSlot_port (h a List.mem_cons_self))
    have other : b ≠ a := fun e => n (e ▸ m)
    rw [missSlot_other ran s other, (missSlot_grows ran s a).bc]
    exact h b (List.mem_cons_of_mem a m)

theorem Grows.length {s t : State} (h : Grows s t) : s.port.ring.length ≤ t.port.ring.length := by
  simpa using h.ring.length_le

theorem loses_tells {s : State} (h : s.serving = true ∨ s.bc.busState = .silent) (a : Nat) :
    s.tells (s.loses a) 0 (.peer a (.lost (s.rosterOf a).incarnation (s.rosterOf a).leaving)) := by
  obtain ⟨v, w, e⟩ := loses_eq s a
  rw [e]
  exact reportPeer_tells (r := s) (s := (s.setRoster v).setNwt w) h rfl a _

/-- The PEER record of a loss: first where no lower address is lost, and where no claim ends behind at most one for each of them. -/
theorem missedSlots_tells {ran : Nat} {s : State} {a : Nat} (v : validAddr a = true) (h : s.misses ran a)
    (p : (s.rosterOf a).presence = .stale) (m : 2 ≤ (s.rosterOf a).missed) (k : s.serving = true ∨ s.bc.busState = .silent) :
    ((∀ b, validAddr b = true → b < a → b ∈ s.bc.heard ∨ (s.rosterOf b).presence ≠ .stale ∨ (s.rosterOf b).missed < 2) →
      s.tells (missedSlots ran s) 0 (.peer a (.lost (s.rosterOf a).incarnation (s.rosterOf a).leaving))) ∧
    (s.cle.list = [] → s.tells (missedSlots ran s) (a - 1) (.peer a (.lost (s.rosterOf a).incarnation (s.rosterOf a).leaving))) := by
  obtain ⟨l, r, e, len, below, -⟩ := addresses_split v
  obtain ⟨roster, -, misses⟩ := missSlots_others ran (s := s) fun k => Nat.lt_irrefl a (below a k).2
  have nd : l.Nodup := by
    have all : addresses.Nodup := by decide
    rw [e] at all
    exact (List.nodup_append.mp all).1
  have g := Grows.fold (missSlot_grows ran) l s
  have same := missSlots_port (ran := ran) nd (s := s)
  have few := fun c => missSlots_unclaims (s := s) c ran l
  have w := (missedSlots_after ran s).grows
  rw [e, List.foldl_append, List.foldl_cons] at w
  generalize l.foldl (missSlot ran) s = u at roster misses g same few w
  have state : u.serving = true ∨ u.bc.busState = .silent := by
    unfold State.serving
    rw [g.bc]
    exact k
  have told : u.tells (missSlot ran u a) 0 (.peer a (.lost (s.rosterOf a).incarnation (s.rosterOf a).leaving)) := by
    rw [missSlot_loses (misses.mpr h) (by rw [roster]; exact p) (by rw [roster]; exact m), ← roster]
    exact (loses_tells state a).grows (peerGone_works (Works.refl _) a).grows
  have last := told.grows ((Grows.fold (missSlot_grows ran) r _).trans w)
  refine ⟨fun none => ?_, fun c => ?_⟩
  · exact last.earlier (n := 0) g.length (by rw [same fun b i => none b (below b i).1 (below b i).2]; exact Nat.le_refl _)
  · exact last.earlier (n := a - 1) g.length (by rw [← len]; exact (few c).few)

/-! ## A boundary's blocks (R86, R109, R129, R144) -/

/-- Memory timers fall and queue entries age (R109, R119, R122). -/
theorem boundaryTanks_ridOf {s : State} {a : Nat} (k : s.ridOf a) : (boundaryTanks s).ridOf a := by
  have timed (s : State) (t : Nat) : SameHolds s (s.putTank t (tankTimers (s.tankOf t))) := .putTank s t rfl
  have kt := ((timed s 0).trans (timed _ 1)).ridOf k
  unfold boundaryTanks
  dsimp only
  generalize (s.putTank 0 (tankTimers (s.tankOf 0))).putTank 1 _ = u at kt
  refine kt.congr ⟨kt.tanks.grants, fun w m => ?_, fun x m => ?_⟩ rfl
  · obtain ⟨y, my, rfl⟩ := List.mem_map.mp m
    exact kt.tanks.waits y my
  · obtain ⟨y, my, rfl⟩ := List.mem_map.mp m
    exact kt.tanks.memory y my

theorem boundarySegments_ridOf {s : State} {a : Nat} (k : s.ridOf a) : (boundarySegments s).ridOf a := by
  refine k.holdWaits fun w m => ?_
  obtain ⟨y, my, rfl⟩ := List.mem_map.mp m
  exact k.segments.waits y my

theorem SameHolds.dueIf (c : Bool) (e : Due) (s : State) : SameHolds s (dueIf c e s) := by
  unfold Sys2Proof.Machine.dueIf
  split <;> exact .of rfl rfl

/-- FEED-OK found made at a boundary (R147). -/
theorem tryPending_cases (s : State) : tryPending s = s ∨ tryPending s = toPending s := by
  unfold tryPending
  split
  · exact .inr rfl
  · exact .inl rfl

theorem SameHolds.phaseTick (s : State) : SameHolds s (phaseTick s) := by
  have tried : ∀ s, SameHolds s (tryPending s) := fun s => by
    rcases tryPending_cases s with e | e <;> rw [e]
    · exact refl s
    · exact enterTrain _ _ _ _ s
  unfold Sys2Proof.Machine.phaseTick
  dsimp only
  repeat' split
  · exact ((mapTrs s _).trans (openRole _ _)).trans (tried _)
  · exact (mapTrs s _).trans (tried _)
  · exact (openRole _ s).trans (mapTrs _ _)
  · exact openRole _ s
  · exact mapTrs s _
  · exact mapTrs s _
  · exact mapTrs s _
  · exact refl s

theorem boundaryBlocks_ridOf {s : State} {a : Nat} (k : s.ridOf a) (p : Bool) : (boundaryBlocks p s).ridOf a := by
  have claims : ∀ s, SameHolds s (boundaryClaims s) := fun s => .of rfl rfl
  have train : ∀ s, SameHolds s (boundaryTrain p s) := fun s =>
    ((SameHolds.mapTrs s _).trans (.phaseTick _)).trans (.of rfl rfl)
  have blocks := boundarySegments_ridOf (boundaryTanks_ridOf ((SameHolds.dueIf s.swapsNow .planExchange s).ridOf k))
  exact ((((claims _).trans (.dueIf _ _ _)).trans (.dueIf _ _ _)).trans (train _)).ridOf blocks

theorem phaseTick_cle (s : State) : (phaseTick s).cle = s.cle := by
  have tried : ∀ s, (tryPending s).cle = s.cle := fun s => by
    rcases tryPending_cases s with e | e <;> rw [e]
    exact enterTrain_cle _ _ _ _ s
  unfold phaseTick
  dsimp only
  repeat' split
  all_goals simp [tried]

/-- A boundary at Tank Manager and arbiter leaves the claims, the train and the port. -/
theorem boundaryHolds_stands (s : State) : (boundarySegments (boundaryTanks s)).cle = s.cle ∧
    (boundarySegments (boundaryTanks s)).trs = s.trs ∧ (boundarySegments (boundaryTanks s)).port = s.port := by
  unfold boundarySegments State.setHoldWaits boundaryTanks State.setTankWaits State.setMemory State.putTank
  simp

theorem dueIf_cle (c : Bool) (e : Due) (s : State) : (dueIf c e s).cle = s.cle := by
  unfold dueIf
  split <;> rfl

/-- A boundary's blocks move the claims' ages and timers only (R86, R90, R93). -/
theorem boundaryBlocks_list (p : Bool) (s : State) :
    ∃ o : Claim → Bool, (boundaryBlocks p s).cle.list = s.cle.list.map fun c => claimTimers (o c) c := by
  have blocks : (boundarySegments (boundaryTanks (dueIf s.swapsNow .planExchange s))).cle = s.cle :=
    (boundaryHolds_stands _).1.trans (dueIf_cle _ _ s)
  have train : ∀ s, (boundaryTrain p s).cle = s.cle := fun s => phaseTick_cle _
  have fill : ∀ t s, (fillDue t s).cle = s.cle := fun t s => dueIf_cle _ _ s
  unfold boundaryBlocks
  dsimp only
  rw [train, fill, fill]
  generalize boundarySegments (boundaryTanks (dueIf s.swapsNow .planExchange s)) = u at blocks
  exact ⟨fun c => u.travelOf (targetRole c.target) == .opened, by rw [← blocks]; rfl⟩

theorem claimTimers_stands (o : Bool) (c : Claim) :
    (claimTimers o c).sequence = c.sequence ∧ (claimTimers o c).state = c.state ∧ (claimTimers o c).reason = c.reason := by
  unfold claimTimers
  dsimp only
  split
  · split <;> simp_all
  · split <;> simp_all
  · split <;> simp_all
  · simp_all

/-- In a station STOPPED or in FAULT the boundary makes no TRAIN record. -/
theorem boundaryBlocks_port {s : State} (h : s.trs.state = .stopped ∨ s.trs.state = .fault) (p : Bool) :
    (boundaryBlocks p s).port = s.port := by
  have due : ∀ c e (s : State), (dueIf c e s).port = s.port ∧ (dueIf c e s).trs = s.trs := fun c e s => by
    unfold dueIf
    split <;> exact ⟨rfl, rfl⟩
  have train : ∀ s : State, s.trs.state = .stopped ∨ s.trs.state = .fault → (boundaryTrain p s).port = s.port := by
    intro s h
    have idle : sensorTick (productTicks s.mch.quality.window (permitTick p s.trs)) = s.trs := by
      rcases h with h | h <;> simp [permitTick, productTicks, sensorTick, stoppable, rated, sensed, h]
    unfold boundaryTrain State.mapTrs
    dsimp only
    rw [idle]
    unfold phaseTick
    rcases h with h | h <;> simp [h]
  have claims : ∀ s, (boundaryClaims s).port = s.port ∧ (boundaryClaims s).trs = s.trs := fun _ => ⟨rfl, rfl⟩
  obtain ⟨port, trs⟩ := due s.swapsNow .planExchange s
  obtain ⟨-, trs', port'⟩ := boundaryHolds_stands (dueIf s.swapsNow .planExchange s)
  unfold boundaryBlocks fillDue
  dsimp only
  rw [train, (due _ _ _).1, (due _ _ _).1, (claims _).1, port', port]
  rw [(due _ _ _).2, (due _ _ _).2, (claims _).2, trs', trs]
  exact h

end Sys2Proof.Machine
end

section

namespace Sys2Proof.Machine

/-! ## From the count of missed slots to the end of the boundary (R3) -/

theorem countListen_cases (s : State) : countListen s = s ∨ countListen s = s.listened ∨ countListen s = join s.listened := by
  unfold countListen
  dsimp only
  repeat' split
  · exact .inr (.inr rfl)
  · exact .inr (.inl rfl)
  · exact .inl rfl

theorem listenCounted_cases (s : State) (src : BoundarySource) (ran now : Nat) (p : Bool) :
    s.listenCounted src ran now p = s.slotsOpened src ran now p ∨
      s.listenCounted src ran now p = (s.slotsOpened src ran now p).listened ∨
        s.listenCounted src ran now p = join (s.slotsOpened src ran now p).listened := by
  unfold State.listenCounted
  split
  · exact countListen_cases _
  · exact .inl rfl

theorem testTakeover_cases (src : BoundarySource) (s : State) : testTakeover src s = s ∨ testTakeover src s = takeover s := by
  rw [testTakeover_eq]
  split
  · exact .inr rfl
  · exact .inl rfl

theorem SameHolds.setBc (s : State) (x : BusCtl) : SameHolds s (s.setBc x) := .of rfl rfl

theorem boundary_ridOf {s : State} {src : BoundarySource} {ran now a : Nat} {p : Bool} (k : (s.slotsCounted src ran p).ridOf a) :
    (boundary src ran now p s).ridOf a := by
  have opened : (s.slotsOpened src ran now p).ridOf a := by
    rw [slotsOpened_eq]
    exact (SameHolds.setBc _ _).ridOf k
  have listened := (SameHolds.setBc (s.slotsOpened src ran now p) _ : SameHolds _ (s.slotsOpened src ran now p).listened).ridOf opened
  have counted : (s.listenCounted src ran now p).ridOf a := by
    rcases listenCounted_cases s src ran now p with e | e | e <;> rw [e]
    · exact opened
    · exact listened
    · exact join_ridOf listened
  rw [boundary_eq]
  refine boundaryBlocks_ridOf ?_ p
  rcases testTakeover_cases src (s.listenCounted src ran now p) with e | e <;> rw [e]
  · exact counted
  · exact ((SameHolds.setBc _ _).trans (.report _ _)).ridOf counted

/-- A claim done with before the rest of the boundary is done with after it, the others' ages and timers having moved. -/
theorem boundary_done {s : State} {src : BoundarySource} {ran : Nat} {p : Bool} {x : Claim} {r : EndReason}
    (k : (s.slotsCounted src ran p).done x r) (now : Nat) : ∃ u : State, u.done x r ∧ ∃ o : Claim → Bool,
      (boundary src ran now p s).cle.list = u.cle.list.map fun c => claimTimers (o c) c := by
  have opened : (s.slotsOpened src ran now p).done x r := k.congr (by rw [slotsOpened_eq]; rfl)
  have listened : (s.slotsOpened src ran now p).listened.done x r := opened.congr rfl
  have counted : (s.listenCounted src ran now p).done x r := by
    rcases listenCounted_cases s src ran now p with e | e | e <;> rw [e]
    · exact opened
    · exact listened
    · exact join_done listened
  rw [boundary_eq]
  refine ⟨_, counted.congr ?_, boundaryBlocks_list p _⟩
  rcases testTakeover_cases src (s.listenCounted src ran now p) with e | e <;> rw [e]
  exact report_cle _ _

/-- What has become of a claim that is done with, once the ages and timers have moved. -/
theorem State.done.timed {s : State} {x : Claim} {r : EndReason} (h : s.done x r) {l : List Claim} {o : Claim → Bool}
    (e : l = s.cle.list.map fun c => claimTimers (o c) c) :
    (∀ y ∈ l, y.sequence = x.sequence → y.state = .closing) ∧
      (x.state = .flowing → ∀ y ∈ l, y.sequence = x.sequence → y.reason = some r) ∧
      (x.state = .pathing ∨ x.state = .asking → ∀ y ∈ l, y.sequence ≠ x.sequence) := by
  obtain ⟨closes, flowed, gone⟩ := ended_of_follows h.follows h.closes
  have source : ∀ y ∈ l, ∃ c ∈ s.cle.list, y.sequence = c.sequence ∧ y.state = c.state ∧ y.reason = c.reason := by
    intro y m
    rw [e] at m
    obtain ⟨c, mc, rfl⟩ := List.mem_map.mp m
    exact ⟨c, mc, claimTimers_stands _ c⟩
  refine ⟨fun y m q => ?_, fun f y m q => ?_, fun f y m q => ?_⟩ <;> obtain ⟨c, mc, es, et, er⟩ := source y m
  · rw [et]
    exact closes c mc (es ▸ q)
  · rw [er]
    exact flowed f c mc (es ▸ q)
  · exact gone f c mc (es ▸ q)

theorem misses_roundOpened (s : State) (src : BoundarySource) (p : Bool) (ran a : Nat) :
    (s.roundOpened src p).misses ran a ↔ s.misses ran a := by
  cases src <;> exact .rfl

theorem listenCounted_nwtOf {s : State} {a : Nat} (h : a ≠ s.ident.address) (src : BoundarySource) (ran now : Nat) (p : Bool) :
    (s.listenCounted src ran now p).nwtOf a = (s.slotsOpened src ran now p).nwtOf a := by
  have other : a ≠ (s.slotsOpened src ran now p).listened.nowJoined.ident.address := by
    change a ≠ (s.slotsOpened src ran now p).ident.address
    rwa [slotsOpened_ident]
  have joined : (s.slotsOpened src ran now p).listened.joinedNow.nwtOf a = (s.slotsOpened src ran now p).nwtOf a := by
    unfold State.joinedNow
    rw [(takeRecord_works _ _ _ _ _).nwtOf, nwtOf_putNwt_other _ other]
    exact putRoster_nwtOf _ _ _ _
  rcases listenCounted_cases s src ran now p with e | e | e <;> rw [e]
  · rfl
  · rw [join_eq]
    split
    · obtain ⟨-, -, -, -, -, -, nwt⟩ := enterHolding_spec false (s.slotsOpened src ran now p).listened.joinedNow
      rw [nwt, joined]
    · exact joined

/-- The entries of another station after a boundary (R26, R27, R33, R34). -/
theorem boundary_entries {s : State} {a : Nat} (k : s.bc.clock.isSome) (v : validAddr a = true) (h : a ≠ s.ident.address)
    (src : BoundarySource) (ran now : Nat) (p : Bool) :
    (s.misses ran a → (boundary src ran now p s).rosterOf a = (s.rosterOf a).afterMiss ∧
      (boundary src ran now p s).nwtOf a = (s.rosterOf a).nwtAfterMiss (s.nwtOf a)) ∧
    (¬s.misses ran a → (boundary src ran now p s).rosterOf a = s.rosterOf a ∧ (boundary src ran now p s).nwtOf a = s.nwtOf a) := by
  obtain ⟨-, -, -, roster, nwt, -⟩ := boundary_rest src p (s.listenCounted src ran now p)
  have opened (b : Nat) : (s.slotsOpened src ran now p).rosterOf b = (missedSlots ran (s.roundOpened src p)).rosterOf b ∧
      (s.slotsOpened src ran now p).nwtOf b = (missedSlots ran (s.roundOpened src p)).nwtOf b := by
    rw [slotsOpened_eq]
    unfold State.slotsCounted
    rw [if_pos k]
    exact ⟨rfl, rfl⟩
  have counted := missedSlots_entries (ran := ran) (s := s.roundOpened src p) v
  rw [misses_roundOpened] at counted
  rw [boundary_eq, roster, nwt, listenCounted_rosterOf h, listenCounted_nwtOf h, (opened a).1, (opened a).2]
  exact counted

/-- A record told at the count of missed slots is told at the boundary, outside LISTEN. -/
theorem boundary_tells {s : State} {src : BoundarySource} {ran n : Nat} {p : Bool} {b : ReportBody} (l : s.bc.busState ≠ .listen)
    (h : s.tells (s.slotsCounted src ran p) n b) (now : Nat) : s.tells (boundary src ran now p s) n b := by
  have round : (boundary src ran now p s).bc.round = (s.slotsCounted src ran p).bc.round := by
    rw [(boundary_bc src ran now p s).1, newRound_eq, (slotsCounted_grows s src ran p).bc]
    rfl
  have ring : (s.slotsCounted src ran p).port.ring.map Report.made <+: (boundary src ran now p s).port.ring.map Report.made := by
    rw [boundary_eq, listenCounted_other (.inl l), ← slotsOpened_port s src ran now p]
    refine List.IsPrefix.trans ?_ (boundaryBlocks_grows p _).ring
    rcases testTakeover_cases src (s.slotsOpened src ran now p) with e | e <;> rw [e]
    exact (report_works (Works.refl ((s.slotsOpened src ran now p).setBc { (s.slotsOpened src ran now p).bc with markHolder := true })) _).ring
  have grown : Grows (s.slotsCounted src ran p) { s.slotsCounted src ran p with
      port := { (s.slotsCounted src ran p).port with ring := (boundary src ran now p s).port.ring } } := ⟨rfl, rfl, rfl, rfl, ring⟩
  have told := h.grows grown
  unfold State.tells at told ⊢
  rw [round]
  exact told

/-- A boundary in LISTEN at a hushed station, not the last, makes no record (R29). -/
theorem boundary_listen {s : State} (h : s.hush) (l : s.bc.busState = .listen) (k : s.bc.clock ≠ none) (n : s.bc.listenCount ≠ 1)
    (src : BoundarySource) (ran now : Nat) (p : Bool) : (boundary src ran now p s).port = s.port := by
  have opened : (s.roundOpened src p).hush := (h.setPins _).setBc _ (by cases src <;> rfl)
  have counted : s.slotsCounted src ran p = missedSlots ran (s.roundOpened src p) := if_pos (Option.isSome_iff_ne_none.mpr k)
  have port : (s.slotsOpened src ran now p).port = s.port := by
    rw [slotsOpened_port]
    exact (slotsCounted_unclaims h.noClaims src ran p).listen (by cases src <;> exact l)
  have hushed : (s.slotsOpened src ran now p).listened.hush := by
    unfold State.listened State.slotsOpened
    rw [counted]
    exact hush_mk (((opened.missedSlots ran).yieldMark src).openSlots now) rfl rfl (((opened.missedSlots ran).yieldMark src).openSlots now).2.1
  rw [boundary_eq, listenCounted_counts l k (.inl n), hushed.testTakeover, boundaryBlocks_port hushed.train]
  exact port

/-! ## Missed slots at a boundary (R26, R27, R33, R34) -/

/-- An address lost holds nothing at the end of the boundary (R115, R140). -/
theorem boundary_nothingHeld {s : State} {ran a : Nat} (k : s.bc.clock.isSome) (v : validAddr a = true) (h : s.misses ran a)
    (q : (s.rosterOf a).presence = .stale) (m : 2 ≤ (s.rosterOf a).missed) (free : s.freeUnheld) (src : BoundarySource) (now : Nat)
    (p : Bool) : (boundary src ran now p s).holdsNothingOf a := by
  have counted : (s.slotsCounted src ran p).ridOf a := by
    unfold State.slotsCounted
    rw [if_pos k]
    exact missedSlots_ridOf v ((misses_roundOpened s src p ran a).mpr h) q m free
  have rid := boundary_ridOf (now := now) counted
  exact (holdsNothingOf_iff _ _).mpr ⟨rid.tanks, rid.segments⟩

/-- The claims that depend on an address lost, at the end of the boundary (R99). -/
theorem boundary_claimsEnd {s : State} {ran a : Nat} (k : s.bc.clock.isSome) (v : validAddr a = true) (h : s.misses ran a)
    (q : (s.rosterOf a).presence = .stale) (m : 2 ≤ (s.rosterOf a).missed) (o : s.orderly) {x : Claim} (mx : x ∈ s.cle.list)
    (d : dependsOn a x = true) (src : BoundarySource) (now : Nat) (p : Bool) :
    (∀ y ∈ (boundary src ran now p s).cle.list, y.sequence = x.sequence → y.state = .closing) ∧
      (x.state = .flowing → ∀ y ∈ (boundary src ran now p s).cle.list, y.sequence = x.sequence → y.reason = some .ownerLost) ∧
      (x.state = .pathing ∨ x.state = .asking → ∀ y ∈ (boundary src ran now p s).cle.list, y.sequence ≠ x.sequence) := by
  have counted : (s.slotsCounted src ran p).done x .ownerLost := by
    unfold State.slotsCounted
    rw [if_pos k]
    exact missedSlots_done (s := s.roundOpened src p) v ((misses_roundOpened s src p ran a).mpr h) q m (o.congr rfl) mx d
  obtain ⟨u, done, _, e⟩ := boundary_done counted now
  exact done.timed e

/-- The PEER record of an address lost (R29). -/
theorem boundary_reportsLoss {s : State} {ran a : Nat} (k : s.bc.clock.isSome) (v : validAddr a = true) (h : s.misses ran a)
    (q : (s.rosterOf a).presence = .stale) (m : 2 ≤ (s.rosterOf a).missed) (st : s.serving = true ∨ s.bc.busState = .silent)
    (src : BoundarySource) (now : Nat) (p : Bool) :
    ((∀ b, validAddr b = true → b < a → b ∈ s.bc.heard ∨ (s.rosterOf b).presence ≠ .stale ∨ (s.rosterOf b).missed < 2) →
      s.tells (boundary src ran now p s) 0 (.peer a (.lost (s.rosterOf a).incarnation (s.rosterOf a).leaving))) ∧
    (s.cle.list = [] →
      s.tells (boundary src ran now p s) (a - 1) (.peer a (.lost (s.rosterOf a).incarnation (s.rosterOf a).leaving))) := by
  have outside : s.bc.busState ≠ .listen := by
    rintro l
    rcases st with st | st
    · simp [State.serving, l] at st
    · rw [l] at st
      cases st
  have heard : (s.roundOpened src p).bc.heard = s.bc.heard := by cases src <;> rfl
  have state : (s.roundOpened src p).serving = true ∨ (s.roundOpened src p).bc.busState = .silent := by cases src <;> exact st
  obtain ⟨first, noClaims⟩ := missedSlots_tells (s := s.roundOpened src p) v ((misses_roundOpened s src p ran a).mpr h) q m state
  rw [heard] at first
  have counted : s.slotsCounted src ran p = missedSlots ran (s.roundOpened src p) := if_pos k
  rw [← counted] at first noClaims
  exact ⟨fun c => boundary_tells outside (first c) now, fun c => boundary_tells outside (noClaims c) now⟩

/-- The station at an instant, with the grace still running and with what is on its line then. -/
def State.movedWith (s : State) (ms x : Nat) (d : List Due) (l : Option OutFrame) : State :=
  (s.movedTo ms x d).setBc { (s.movedTo ms x d).bc with line := l }

/-- The command of a boundary is the boundary at its instant (R3). -/
theorem exec_boundaryBy {s : State} {row : Instr} {permit : Bool} {ran : Nat} (r : s.ready) (h : s.hearing = true)
    (b : s.boundaryBy permit ran row) :
    ∃ src now ms x d l, exec row s = .next (boundary src ran now permit (s.movedWith ms x d l)) := by
  unfold State.boundaryBy at b
  split at b
  · obtain ⟨rfl, rfl, g⟩ := b
    obtain ⟨x, d, e⟩ := timeTo_movedTo g
    exact ⟨.timer, 4, 104, x, d, s.bc.line, by rw [exec_localRoundTimer r, roundTimer_boundary h g, e]; rfl⟩
  · obtain ⟨rfl, rfl, g, n, a, k, own⟩ := b
    obtain ⟨x, d, e⟩ := timeTo_movedTo g
    by_cases c : a = s.ident.address
    · obtain ⟨line, dormant⟩ := own c
      subst c
      refine ⟨.mark n s.ident.address, 0, ran, x, d, none, ?_⟩
      rw [exec_validMark r, takeMark_own k line h g, e, frameEnded_boundary (by exact dormant)]
      rfl
    · exact ⟨.mark n a, 0, _, x, d, s.bc.line, by rw [exec_validMark r, takeMark_adopts k c h g, e]; rfl⟩
  · exact b.elim

/-- Settles O22: the boundary's effect is read off the count of missed slots, and the rest of the boundary touches neither the entries of another
station nor the claims that have ended, and gives the lost address nothing to hold. -/
theorem missedSlots_obligation : Obligations.MissedSlots := by
  intro row permit ran a c s r hear b k v other
  have hushed : s.bc.busState = .listen → s.lawEleven → s.hush := fun l law => lawEleven_hush law l
  obtain ⟨src, now, ms, x, d, l, e⟩ := exec_boundaryBy r hear b
  have clock : (s.movedWith ms x d l).bc.clock.isSome := by
    change (s.bc.clock.map fun c => max c ms).isSome
    rw [k]
    rfl
  obtain ⟨missed, kept⟩ := boundary_entries clock v (by exact other) src ran now permit
  have misses (occurred : 4 * (a + 1) ≤ ran) (heard : a ∉ s.bc.heard) : (s.movedWith ms x d l).misses ran a := ⟨other, occurred, heard⟩
  refine ⟨_, e, fun h => kept fun ⟨_, occurred, heard⟩ => ?_, fun occurred heard present => ?_, fun occurred heard stale few => ?_,
    fun occurred heard stale two => ?_, fun listen count law => ?_, fun heard absent => ?_⟩
  · exact h.elim heard fun h => absurd occurred (by omega)
  · have stands : ((s.movedWith ms x d l).rosterOf a).presence = .present := present
    obtain ⟨roster, nwt⟩ := missed (misses occurred heard)
    simp only [RosterEntry.afterMiss, RosterEntry.nwtAfterMiss, stands] at roster nwt
    exact ⟨roster, nwt⟩
  · have stands : ((s.movedWith ms x d l).rosterOf a).presence = .stale := stale
    have once : ((s.movedWith ms x d l).rosterOf a).missed < 2 := few
    obtain ⟨roster, nwt⟩ := missed (misses occurred heard)
    simp only [RosterEntry.afterMiss, RosterEntry.nwtAfterMiss, stands, if_pos once] at roster nwt
    refine ⟨?_, nwt⟩
    rw [roster, ← stands]
    rfl
  · have stands : ((s.movedWith ms x d l).rosterOf a).presence = .stale := stale
    have twice : ¬((s.movedWith ms x d l).rosterOf a).missed < 2 := Nat.not_lt.mpr two
    obtain ⟨roster, nwt⟩ := missed (misses occurred heard)
    simp only [RosterEntry.afterMiss, RosterEntry.nwtAfterMiss, stands, if_neg twice] at roster nwt
    exact ⟨roster, nwt, fun free => boundary_nothingHeld clock v (misses occurred heard) stale two free src now permit,
      fun once train y m dep => boundary_claimsEnd clock v (misses occurred heard) stale two ⟨once, train⟩ m dep src now permit,
      fun st => boundary_reportsLoss clock v (misses occurred heard) stale two st src now permit⟩
  · have hush : (s.movedWith ms x d l).hush := hushed listen law
    rw [boundary_listen hush listen (Option.isSome_iff_ne_none.mp clock) count]
    rfl
  · by_cases occurred : 4 * (a + 1) ≤ ran
    · have stands : ((s.movedWith ms x d l).rosterOf a).presence = .absent := absent
      obtain ⟨roster, nwt⟩ := missed (misses occurred heard)
      simp only [RosterEntry.afterMiss, RosterEntry.nwtAfterMiss, stands] at roster nwt
      exact ⟨roster, nwt⟩
    · exact kept fun h => occurred h.2.1

end Sys2Proof.Machine
end

section

namespace Sys2Proof.Machine

/-! ## Claims that a cause does not reach (R83) -/

/-- A cause that ends another claim, or finds the claim in CLOSING, leaves it where it is. -/
theorem endSeq_keeps {s : State} (h : s.orderly) {x : Claim} (m : x ∈ s.cle.list) (r : EndReason) {q : Nat}
    (k : x.sequence = q → x.state = .closing) : x ∈ (endSeq r s q).cle.list := by
  unfold endSeq
  cases e : s.claimOf q with
  | none => exact m
  | some c =>
    have mc : c ∈ s.cle.list := List.mem_of_find?_eq_some e
    have cs := claimOf_sequence e
    by_cases d : x.sequence = c.sequence
    · have same : c = x := h.eq_of_sequence m mc d.symm
      subst same
      dsimp only
      unfold endClaim
      rw [k cs]
      exact m
    · have put : x ∈ (s.putClaim (c.closes r)).cle.list := List.mem_map.mpr ⟨x, m, if_neg d⟩
      have left {u : State} {y : Claim} (my : x ∈ u.cle.list) (n : y.creator ≠ .train) (es : y.sequence = c.sequence) :
          x ∈ (leaveList y u).cle.list := by
        rw [leaveList_list n, es]
        exact List.mem_filter.mpr ⟨my, by simpa using d⟩
      have valve : (closeValve c r s).cle = (s.putClaim (c.closes r)).cle := closeRole_cle _ _
      dsimp only
      unfold endClaim
      split
      · rw [toClosing_eq]
        split
        · exact left (by rw [valve]; exact put) (h.2 c mc) rfl
        · rw [valve]
          exact put
      · exact m
      · exact left m (h.2 c mc) rfl

theorem endWhere_keeps {s : State} (h : s.orderly) {x : Claim} (m : x ∈ s.cle.list) {p : Claim → Bool}
    (k : p x = true → x.state = .closing) (r : EndReason) : x ∈ (endWhere p r s).cle.list := by
  have reached : x.sequence ∈ s.seqsWhere p → x.state = .closing := by
    intro i
    obtain ⟨c, mc, e⟩ := List.mem_map.mp i
    obtain ⟨mc, pc⟩ := List.mem_filter.mp mc
    exact k (h.eq_of_sequence m mc e ▸ pc)
  have all : ∀ (l : List Nat) (s : State), s.orderly → x ∈ s.cle.list → (x.sequence ∈ l → x.state = .closing) →
      x ∈ (l.foldl (endSeq r) s).cle.list := by
    intro l
    induction l with
    | nil => exact fun s _ m _ => m
    | cons q l ih =>
      intro s h m k
      exact ih _ (endSeq_list h r q).1 (endSeq_keeps h m r fun e => k (e ▸ List.mem_cons_self)) fun i => k (List.mem_cons_of_mem q i)
  exact all _ s h m reached

/-! ## A record at the claims (R98) -/

/-- A claim holds a segment that a record shows FAULT (R98). -/
def Claim.holdsFaulty (src : Nat) (items : List SegItem) (c : Claim) : Bool :=
  c.heldSegs.any fun g => g.station == src && showsFault items g.index

theorem holdsFaulty_iff (src : Nat) (items : List SegItem) (c : Claim) : c.holdsFaulty src items = true ↔
    ∃ g ∈ c.path.take c.held, g.station = src ∧ ∃ i ∈ items, i.index = g.index ∧ i.status = .fault := by
  simp [Claim.holdsFaulty, Claim.heldSegs, showsFault]

theorem recordClaims_eq (src : Nat) (items : List SegItem) (s : State) :
    recordClaims src items s = endWhere (Claim.holdsFaulty src items) .segmentFault s := rfl

theorem passRecord_cle (a inc : Nat) (r : StatusRecord) (s : State) : (passRecord a inc r s).cle = (recordClaims a r.segments s).cle := by
  unfold passRecord
  rw [(sweepSegments_serves _ _ _ _).cle, (recordTanks_serves _ _ _ _).cle]

/-- What a record does at a claim: SEGMENT-FAULT where it holds a segment shown FAULT and is not in CLOSING yet, and nothing else (R98). -/
theorem recordClaims_claim {s : State} (o : s.orderly) {x : Claim} (m : x ∈ s.cle.list) (src : Nat) (items : List SegItem) :
    ((∃ g ∈ x.path.take x.held, g.station = src ∧ ∃ i ∈ items, i.index = g.index ∧ i.status = .fault) →
      (x.state = .pathing ∨ x.state = .asking → ∀ y ∈ (recordClaims src items s).cle.list, y.sequence ≠ x.sequence) ∧
      (x.state = .flowing → ∀ y ∈ (recordClaims src items s).cle.list, y.sequence = x.sequence →
        y.state = .closing ∧ y.reason = some .segmentFault) ∧
      (x.state = .closing → x ∈ (recordClaims src items s).cle.list)) ∧
    ((∀ g ∈ x.path.take x.held, g.station = src → ∀ i ∈ items, i.index = g.index → i.status ≠ .fault) →
      x ∈ (recordClaims src items s).cle.list) := by
  rw [recordClaims_eq, ← holdsFaulty_iff]
  refine ⟨fun d => ?_, fun sound => endWhere_keeps o m (fun d => ?_) _⟩
  · obtain ⟨-, k, c⟩ := endWhere_closes o m d .segmentFault
    obtain ⟨closes, flowed, gone⟩ := ended_of_follows k c
    exact ⟨gone, fun f y my e => ⟨closes y my e, flowed f y my e⟩, fun f => endWhere_keeps o m (fun _ => f) _⟩
  · obtain ⟨g, mg, station, i, mi, index, fault⟩ := (holdsFaulty_iff _ _ _).mp d
    exact absurd fault (sound g mg station i mi index)

end Sys2Proof.Machine
end

section

namespace Sys2Proof.Machine

/-! ## The queue scan appends grants (R110) -/

/-- What the queue scan and its admissions leave of the Tank Manager: grants join the tails, entries leave the wait queue, the memory stands. -/
structure Admits (s t : State) : Prop where
  grants : ∀ i, (s.tankOf i).grants <+: (t.tankOf i).grants
  waits : t.tkm.waits.Sublist s.tkm.waits
  memory : t.tkm.memory = s.tkm.memory

theorem Admits.refl (s : State) : Admits s s := ⟨fun _ => List.prefix_refl _, List.Sublist.refl _, rfl⟩

theorem Admits.trans {s t u : State} (h : Admits s t) (k : Admits t u) : Admits s u :=
  ⟨fun i => (h.grants i).trans (k.grants i), k.waits.trans h.waits, k.memory.trans h.memory⟩

theorem SameHolds.admits {s t : State} (h : SameHolds s t) : Admits s t :=
  ⟨fun i => by rw [h.grants], by rw [h.waits], h.memory⟩

theorem scanEntry_admits (s : State) (w : TankWait) : Admits s (scanEntry s w) := by
  unfold scanEntry admitRequest
  split
  · refine Admits.trans (t := (s.setTankWaits (s.tkm.waits.erase w)).setGrants w.tank _) ⟨fun i => ?_, List.erase_sublist, rfl⟩
      (SameHolds.send _ _ _).admits
    rw [tankOf_setGrants]
    split
    · rename_i e
      rw [← e.1]
      exact List.prefix_append _ _
    · exact List.prefix_refl _
  · exact .refl s

theorem scanQueue_admits (s : State) : Admits s (scanQueue s) :=
  Stable.foldl (P := Admits s) (fun _ w h => h.trans (scanEntry_admits _ w)) _ (.refl s)

theorem scanQueue_noWaits {s : State} (h : s.tkm.waits = []) : scanQueue s = s := by
  unfold scanQueue
  rw [h]
  rfl

/-! ## Grants and queue entries after a record (R113, R114) -/

/-- The Tank Manager once a record's grants and queue entries are examined. -/
def State.examined (s : State) (src inc : Nat) (claims : List ClaimItem) : State :=
  ((s.setGrants 0 ((s.tankOf 0).grants.filterMap (examineGrant s.ident.address src inc claims 0))).setGrants 1
    ((s.tankOf 1).grants.filterMap (examineGrant s.ident.address src inc claims 1))).setTankWaits
      (s.tkm.waits.filterMap (examineWait s.ident.address src inc claims))

theorem examined_grants (s : State) (src inc : Nat) (claims : List ClaimItem) {i : Nat} (h : i < 2) :
    ((s.examined src inc claims).tankOf i).grants = (s.tankOf i).grants.filterMap (examineGrant s.ident.address src inc claims i) := by
  change (((s.setGrants 0 _).setGrants 1 _).tankOf i).grants = _
  rw [tankOf_setGrants]
  split
  · rename_i e
    rw [← e.1]
  · rename_i n
    obtain rfl : i = 0 := by omega
    rw [tankOf_setGrants, if_pos ⟨rfl, by omega⟩]

/-- A record at the Tank Manager: grants and entries, the memory, and at most a scan (R113, R114, R119). -/
theorem recordTanks_cases (src inc : Nat) (claims : List ClaimItem) (s : State) :
    recordTanks src inc claims s = scanQueue (examineRevoked src inc claims (s.examined src inc claims)) ∨
      recordTanks src inc claims s = examineRevoked src inc claims (s.examined src inc claims) := by
  unfold recordTanks State.examined
  dsimp only
  split
  · exact .inl rfl
  · exact .inr rfl

/-- An entry of a record's claim list shows the claim against the tank. -/
theorem shownItem_eq (own : Nat) (claims : List ClaimItem) (id : ClaimId) (t : Nat) :
    shownItem own claims id t = claims.find? fun i => decide (i.sequence = id.sequence ∧ i.tank = ⟨own, t⟩) := by
  unfold shownItem
  congr 1
  funext i
  simp [Bool.decide_and]
  rfl

/-- A grant after a record of its claimant, by what the record shows of its claim (R113, R114). -/
theorem examineGrant_eq (own src inc t : Nat) (claims : List ClaimItem) (g : Grant) : examineGrant own src inc claims t g =
    if g.id.address = src ∧ g.id.incarnation = inc then
      match claims.find? fun i => i.sequence = g.id.sequence ∧ i.tank = ⟨own, t⟩ with
      | some i =>
        match i.status with
        | .flowing d => some { g with
            delivered := max g.delivered d
            remaining := if g.delivered < d then g.volume - d else g.remaining
            absentCount := 0 }
        | .closing d => some { g with
            delivered := max g.delivered d
            remaining := if g.delivered < d then g.volume - d else g.remaining
            absentCount := 0 }
        | _ => some { g with absentCount := 0 }
      | none => if g.absentCount = 0 then some { g with absentCount := 1 } else none
    else some g := by
  have figure (d : Nat) : (if g.delivered < d then some { g with delivered := d, remaining := g.volume - d, absentCount := 0 }
      else some { g with absentCount := 0 }) = some { g with
        delivered := max g.delivered d
        remaining := if g.delivered < d then g.volume - d else g.remaining
        absentCount := 0 } := by
    split
    · rw [Nat.max_eq_right (by omega)]
    · rw [Nat.max_eq_left (by omega)]
  unfold examineGrant
  rw [shownItem_eq]
  by_cases c : g.id.address = src ∧ g.id.incarnation = inc
  · rw [if_pos c, if_pos (by simp [c.1, c.2])]
    cases claims.find? fun i => decide (i.sequence = g.id.sequence ∧ i.tank = ⟨own, t⟩) with
    | none =>
      dsimp only
      by_cases z : g.absentCount = 0
      · rw [if_pos z, if_pos (by omega), z]
      · rw [if_neg z, if_neg (by omega)]
    | some i =>
      obtain ⟨_, _, status, _, _⟩ := i
      cases status
      case flowing d => exact figure d
      case closing d => exact figure d
      all_goals rfl
  · rw [if_neg c, if_neg (by simpa using c)]

/-- A queue entry after a record of its claimant (R114). -/
theorem examineWait_eq (own src inc : Nat) (claims : List ClaimItem) (w : TankWait) : examineWait own src inc claims w =
    if w.id.address = src ∧ w.id.incarnation = inc then
      if ∃ i ∈ claims, i.sequence = w.id.sequence ∧ i.tank = ⟨own, w.tank⟩ then some { w with absentCount := 0 }
      else if w.absentCount = 0 then some { w with absentCount := 1 } else none
    else some w := by
  unfold examineWait
  rw [shownItem_eq]
  by_cases c : w.id.address = src ∧ w.id.incarnation = inc
  · rw [if_pos c, if_pos (by simp [c.1, c.2])]
    cases e : claims.find? fun i => decide (i.sequence = w.id.sequence ∧ i.tank = ⟨own, w.tank⟩) with
    | none =>
      have n : ¬∃ i ∈ claims, i.sequence = w.id.sequence ∧ i.tank = ⟨own, w.tank⟩ := by simpa using e
      dsimp only
      rw [if_neg n]
      by_cases z : w.absentCount = 0
      · rw [if_pos z, if_pos (by omega), z]
      · rw [if_neg z, if_neg (by omega)]
    | some i =>
      have shown := List.find?_some e
      exact (if_pos ⟨i, List.mem_of_find?_eq_some e, by simpa using shown⟩).symm
  · rw [if_neg c, if_neg (by simpa using c)]

/-! ## The revocation memory after a record (R119) -/

/-- The REVOKE of a memory entry (R119). -/
def Revoked.revoke (m : Revoked) : Message := ⟨m.id.address, .revoke m.id.sequence⟩

/-- The places free in the transmit queue for a message offered now (R19). -/
def State.places (s : State) : Nat := if s.serving then 16 - s.bc.queue.length else 0

/-- An entry by itself: REVOKE again, or out, or as it stands. -/
theorem examineMemory_eq (src inc : Nat) (claims : List ClaimItem) (m : Revoked) (s : State) : examineMemory src inc claims m s =
    if s.resends src inc claims m then
      ((offer m.revoke s).1, some { m with timer := if (offer m.revoke s).2 then 5 else 0 })
    else if m.ofSender src inc && !s.stillFlows claims m then (s, none) else (s, some m) := by
  unfold examineMemory State.resends State.stillFlows
  rw [shownItem_eq]
  by_cases c : m.id.address = src ∧ m.id.incarnation = inc
  · have sender : m.ofSender src inc = true := by simp [Revoked.ofSender, c]
    rw [if_pos (by simp [c.1, c.2]), sender]
    cases claims.find? fun i => decide (i.sequence = m.id.sequence ∧ i.tank = ⟨s.ident.address, m.tank⟩) with
    | none => rfl
    | some i =>
      obtain ⟨_, _, status, _, _⟩ := i
      cases status
      case flowing =>
        by_cases z : m.timer = 0
        · have again : (true && true && decide (m.timer = 0)) = true := by simp [z]
          exact (if_pos z).trans (if_pos again).symm
        · have still : ¬(true && true && decide (m.timer = 0)) = true := by simp [z]
          exact (if_neg z).trans ((if_neg still).trans (if_neg (by simp))).symm
      all_goals rfl
  · have other : m.ofSender src inc = false := by simpa [Revoked.ofSender] using c
    rw [if_neg (by simpa using c), other]
    rfl

/-- Offering to a queue with a place, and to one without (R19). -/
theorem offer_places (m : Message) (s : State) :
    (s.places = 0 → offer m s = (s, false)) ∧
      (s.places ≠ 0 → offer m s = (s.setBc { s.bc with queue := s.bc.queue ++ [m] }, true) ∧
        (s.setBc { s.bc with queue := s.bc.queue ++ [m] }).places = s.places - 1) := by
  unfold offer State.places
  cases v : s.serving
  · exact ⟨fun _ => rfl, fun n => absurd rfl n⟩
  · simp only [if_pos, Bool.true_and]
    refine ⟨fun z => if_neg (by simp; omega), fun z => ⟨if_pos (by simp; omega), ?_⟩⟩
    have v' : (s.setBc { s.bc with queue := s.bc.queue ++ [m] }).serving = true := v
    rw [if_pos v']
    simp
    omega

theorem memoryAfter_congr {s t : State} (h : t.ident = s.ident) (src inc : Nat) (claims : List ClaimItem) (k : Nat) (l : List Revoked) :
    t.memoryAfter src inc claims k l = s.memoryAfter src inc claims k l ∧ t.resends src inc claims = s.resends src inc claims := by
  have flows : t.stillFlows claims = s.stillFlows claims := by
    unfold State.stillFlows
    rw [h]
  have resends : t.resends src inc claims = s.resends src inc claims := by
    unfold State.resends
    rw [flows]
  refine ⟨?_, resends⟩
  induction l generalizing k with
  | nil => rfl
  | cons m l ih =>
    unfold State.memoryAfter
    rw [resends, flows, ih, ih]

/-- The entries examined in their order: the memory after the record, and the REVOKEs that found a place, oldest first. -/
theorem examineEntries_eq (src inc : Nat) (claims : List ClaimItem) (l : List Revoked) (s : State) :
    examineEntries src inc claims l s = (s.setBc { s.bc with
        queue := s.bc.queue ++ ((l.filter (s.resends src inc claims)).take s.places).map Revoked.revoke },
      s.memoryAfter src inc claims s.places l) := by
  induction l generalizing s with
  | nil => simp [examineEntries, State.memoryAfter, State.setBc]
  | cons m l ih =>
    unfold examineEntries State.memoryAfter
    dsimp only
    rw [examineMemory_eq]
    by_cases c : s.resends src inc claims m = true
    · rw [if_pos c, if_pos c, List.filter_cons_of_pos c]
      obtain ⟨full, room⟩ := offer_places m.revoke s
      by_cases z : s.places = 0
      · rw [full z]
        dsimp only
        rw [ih, z]
        simp
      · obtain ⟨e, places⟩ := room z
        rw [e]
        dsimp only
        obtain ⟨memory, resends⟩ := memoryAfter_congr (t := s.setBc { s.bc with queue := s.bc.queue ++ [m.revoke] }) (s := s) rfl src inc
          claims (s.places - 1) l
        obtain ⟨k, ek⟩ := Nat.exists_eq_succ_of_ne_zero z
        rw [ih, places, memory, resends, if_neg z, ek]
        simp [State.setBc]
    · rw [if_neg c, if_neg c, List.filter_cons_of_neg c]
      split
      · rw [ih]
        rfl
      · rw [ih]
        rfl

end Sys2Proof.Machine
end

section

namespace Sys2Proof.Machine

/-! ## One segment at a time (R134, R137, R139) -/

/-- From `s` to `t` the grants, the wait queue and the memory of the Tank Manager stand. -/
structure SameTanks (s t : State) : Prop where
  grants : ∀ k, (t.tankOf k).grants = (s.tankOf k).grants
  waits : t.tkm.waits = s.tkm.waits
  memory : t.tkm.memory = s.tkm.memory

theorem SameTanks.refl (s : State) : SameTanks s s := ⟨fun _ => rfl, rfl, rfl⟩

theorem SameTanks.trans {s t u : State} (h : SameTanks s t) (k : SameTanks t u) : SameTanks s u :=
  ⟨fun i => (k.grants i).trans (h.grants i), k.waits.trans h.waits, k.memory.trans h.memory⟩

/-- From `s` to `t` at most the segment `i` changed, entries left the hold wait queue, and the Tank Manager stands. -/
structure OnlySegment (i : Nat) (s t : State) : Prop where
  others : ∀ j, j ≠ i → t.segOf j = s.segOf j
  waits : t.sga.waits.Sublist s.sga.waits
  tanks : SameTanks s t

namespace OnlySegment

variable {i : Nat} {s t u : State}

theorem refl (i : Nat) (s : State) : OnlySegment i s s := ⟨fun _ _ => rfl, List.Sublist.refl _, .refl s⟩

theorem trans (h : OnlySegment i s t) (k : OnlySegment i t u) : OnlySegment i s u :=
  ⟨fun j n => (k.others j n).trans (h.others j n), k.waits.trans h.waits, h.tanks.trans k.tanks⟩

theorem holds (i : Nat) {s t : State} (h : SameHolds s t) : OnlySegment i s t :=
  ⟨fun j _ => by unfold State.segOf; rw [h.sga], by rw [h.sga], h.grants, h.waits, h.memory⟩

theorem putSeg (i : Nat) (s : State) (x : Segment) : OnlySegment i s (s.putSeg i x) :=
  ⟨fun j n => by rw [segOf_putSeg, if_neg fun e => n e.1.symm], List.Sublist.refl _, fun _ => rfl, rfl, rfl⟩

theorem holdWaits (i : Nat) {s : State} {l : List HoldWait} (h : l.Sublist s.sga.waits) : OnlySegment i s (s.setHoldWaits l) :=
  ⟨fun _ _ => rfl, h, fun _ => rfl, rfl, rfl⟩

theorem refuseWaiters (i : Nat) (s : State) : OnlySegment i s (refuseWaiters i s) :=
  (holdWaits i List.filter_sublist).trans (.holds i (.foldl (fun s _ => .send _ _ s) _ _))

theorem giveAttempt (i : Nat) (id : ClaimId) (s : State) : OnlySegment i s (giveAttempt i id s) := by
  have opened := holds i (.openRole (.segment i) s)
  unfold Sys2Proof.Machine.giveAttempt
  dsimp only
  generalize (openRole (.segment i) s).1 = u at opened
  have closed := ((opened.trans (holds i (.closeRole (.segment i) u))).trans (putSeg i _ ⟨.fault, none, 0⟩)).trans
    (holds i (.send id.address (.holdRefused id.sequence i .segmentOut) _))
  split
  · exact (opened.trans (putSeg i u _)).trans (holds i (.send _ _ _))
  · split
    · exact closed
    · exact closed.trans (refuseWaiters i _)

theorem clearFault (i : Nat) (s : State) : OnlySegment i s (clearFault i s) := by
  rcases clearFault_cases i s with e | ⟨-, e⟩ <;> rw [e]
  · exact refl i s
  · exact putSeg i s _

theorem releaseSeg (i : Nat) (s : State) : OnlySegment i s (releaseSeg i s) := by
  unfold Sys2Proof.Machine.releaseSeg
  split
  · have freed := (holds i (.closeRole (.segment i) s)).trans (putSeg i _ ⟨.free, none, 0⟩)
    dsimp only
    split
    · exact (freed.trans (holdWaits i List.erase_sublist)).trans (giveAttempt i _ _)
    · exact freed
  · exact ((putSeg i s ⟨.fault, none, 0⟩).trans (holds i (.closeRole (.segment i) _))).trans (clearFault i _)
  · exact refl i s

end OnlySegment

/-! ## The sweep at one hold (R139) -/

/-- A hold is the sender's. -/
def sentBy (src inc : Nat) (id : ClaimId) : Prop := id.address = src ∧ id.incarnation = inc

section

variable {src inc i : Nat} {claims : List ClaimItem} {s : State} {id : ClaimId}

theorem showsClaim_iff (claims : List ClaimItem) (id : ClaimId) : showsClaim claims id = true ↔ ∃ x ∈ claims, x.sequence = id.sequence := by
  simp [showsClaim]

/-- The sweep at a hold of the sender. -/
theorem sweepHold_sender (e : (s.segOf i).holder = some id) (o : sentBy src inc id) : sweepHold src inc claims s i =
    if ∃ x ∈ claims, x.sequence = id.sequence then s.putSeg i { s.segOf i with absentCount := 0 }
    else if (s.segOf i).absentCount = 0 then s.putSeg i { s.segOf i with absentCount := 1 } else releaseSeg i s := by
  unfold sweepHold
  dsimp only
  rw [e]
  dsimp only
  rw [if_pos (by simp [o.1, o.2])]
  by_cases shown : ∃ x ∈ claims, x.sequence = id.sequence
  · rw [if_pos shown, if_pos ((showsClaim_iff claims id).mpr shown)]
  · rw [if_neg shown, if_neg fun k => shown ((showsClaim_iff claims id).mp k)]
    by_cases z : (s.segOf i).absentCount = 0
    · rw [if_pos z, if_pos (by omega), z]
    · rw [if_neg z, if_neg (by omega)]

/-- The sweep passes by a segment that the sender does not hold. -/
theorem sweepHold_other (h : ∀ id, (s.segOf i).holder = some id → ¬sentBy src inc id) : sweepHold src inc claims s i = s := by
  unfold sweepHold
  dsimp only
  split
  · rename_i id e
    exact if_neg (by simpa [sentBy] using h id e)
  · rfl

theorem sweepHold_only (src inc : Nat) (claims : List ClaimItem) (s : State) (i : Nat) : OnlySegment i s (sweepHold src inc claims s i) := by
  by_cases h : ∃ id, (s.segOf i).holder = some id ∧ sentBy src inc id
  · obtain ⟨id, e, o⟩ := h
    rw [sweepHold_sender e o]
    split
    · exact .putSeg i s _
    · split
      · exact .putSeg i s _
      · exact .releaseSeg i s
  · rw [sweepHold_other fun id e o => h ⟨id, e, o⟩]
    exact .refl i s

/-- A hold that is not released by the sweep: shown, or absent for the first time. -/
def State.keepsHold (s : State) (src inc : Nat) (claims : List ClaimItem) (i : Nat) : Prop :=
  ∀ id, (s.segOf i).holder = some id → sentBy src inc id → (s.segOf i).absentCount = 0 ∨ ∃ x ∈ claims, x.sequence = id.sequence

theorem sweepHold_waits (h : s.keepsHold src inc claims i) : (sweepHold src inc claims s i).sga.waits = s.sga.waits := by
  by_cases k : ∃ id, (s.segOf i).holder = some id ∧ sentBy src inc id
  · obtain ⟨id, e, o⟩ := k
    rw [sweepHold_sender e o]
    split
    · rfl
    · rename_i n
      rw [if_pos ((h id e o).resolve_right n)]
      rfl
  · rw [sweepHold_other fun id e o => k ⟨id, e, o⟩]

/-! ## A hold released with nobody waiting (R134, R137) -/

theorem releaseSeg_held (l : i < 4) (k : (s.segOf i).state = .held) (w : ∀ x ∈ s.sga.waits, x.segment ≠ i) :
    (releaseSeg i s).segOf i = ⟨.free, none, 0⟩ := by
  have closed := (SameHolds.closeRole (.segment i) s).sga
  unfold releaseSeg
  rw [k]
  dsimp only
  generalize (closeRole (.segment i) s).1 = u at closed
  have none : (u.putSeg i ⟨.free, none, 0⟩).firstWaiter i = none := by
    refine List.find?_eq_none.mpr fun x m => ?_
    have m : x ∈ u.sga.waits := m
    rw [closed] at m
    simpa using w x m
  rw [none]
  dsimp only
  rw [segOf_putSeg, if_pos ⟨rfl, l⟩]

theorem releaseSeg_fault (l : i < 4) (k : (s.segOf i).state = .fault) :
    ((releaseSeg i s).segOf i).holder = none ∧ ((releaseSeg i s).segOf i).state ≠ .held := by
  have put := segOf_putSeg s i i ⟨.fault, none, 0⟩
  rw [if_pos ⟨rfl, l⟩] at put
  have closed := (SameHolds.closeRole (.segment i) (s.putSeg i ⟨.fault, none, 0⟩)).sga
  unfold releaseSeg
  rw [k]
  dsimp only
  generalize (closeRole (.segment i) (s.putSeg i ⟨.fault, none, 0⟩)).1 = u at closed
  have seg : u.segOf i = ⟨.fault, none, 0⟩ := by
    unfold State.segOf
    rw [closed]
    exact put
  rcases clearFault_cases i u with e | ⟨-, e⟩ <;> rw [e]
  · rw [seg]
    exact ⟨rfl, nofun⟩
  · rw [segOf_putSeg, if_pos ⟨rfl, l⟩, seg]
    exact ⟨rfl, nofun⟩

end

/-! ## The sweep over the holds (R139) -/

/-- The hold wait queue after a record (R139). -/
def State.waitsSwept (s : State) (src inc : Nat) (claims : List ClaimItem) : State :=
  s.setHoldWaits (s.sga.waits.filterMap (sweepWait src inc claims))

theorem sweepHolds_others (src inc : Nat) (claims : List ClaimItem) (l : List Nat) (s : State) {i : Nat} (n : i ∉ l) :
    (l.foldl (sweepHold src inc claims) s).segOf i = s.segOf i := by
  induction l generalizing s with
  | nil => rfl
  | cons j l ih =>
    exact (ih _ (List.not_mem_of_not_mem_cons n)).trans ((sweepHold_only src inc claims s j).others i (List.ne_of_not_mem_cons n))

theorem sweepHolds_sublist (src inc : Nat) (claims : List ClaimItem) (l : List Nat) (s : State) :
    (l.foldl (sweepHold src inc claims) s).sga.waits.Sublist s.sga.waits :=
  Stable.foldl (P := fun t => t.sga.waits.Sublist s.sga.waits) (fun t i h => (sweepHold_only src inc claims t i).waits.trans h) l
    (List.Sublist.refl _)

/-- The sweep at the arbiter leaves the Tank Manager's part of the record. -/
theorem sweepSegments_tanks (src inc : Nat) (claims : List ClaimItem) (s : State) : SameTanks s (sweepSegments src inc claims s) :=
  Stable.foldl (P := SameTanks s) (fun t i h => h.trans (sweepHold_only src inc claims t i).tanks) _
    (⟨fun _ => rfl, rfl, rfl⟩ : SameTanks s (s.waitsSwept src inc claims))

/-- The segment after the sweep is the segment after the sweep at its own hold, the queue having lost entries at most. -/
theorem sweepSegments_segOf (src inc : Nat) (claims : List ClaimItem) (s : State) {i : Nat} (h : i < 4) :
    ∃ u : State, u.segOf i = s.segOf i ∧ u.sga.waits.Sublist (s.waitsSwept src inc claims).sga.waits ∧
      (sweepSegments src inc claims s).segOf i = (sweepHold src inc claims u i).segOf i := by
  have all : ∀ i < 4, List.range 4 = List.range i ++ i :: List.range' (i + 1) (3 - i) ∧ i ∉ List.range i ∧
      i ∉ List.range' (i + 1) (3 - i) := by decide
  obtain ⟨e, before, after⟩ := all i h
  refine ⟨(List.range i).foldl (sweepHold src inc claims) (s.waitsSwept src inc claims), ?_, sweepHolds_sublist _ _ _ _ _, ?_⟩
  · exact sweepHolds_others _ _ _ _ _ before
  · unfold sweepSegments
    rw [e, List.foldl_append, List.foldl_cons]
    exact sweepHolds_others _ _ _ _ _ after

theorem sweepHolds_waits {src inc : Nat} {claims : List ClaimItem} {l : List Nat} (nd : l.Nodup) {s : State}
    (h : ∀ i ∈ l, s.keepsHold src inc claims i) : (l.foldl (sweepHold src inc claims) s).sga.waits = s.sga.waits := by
  induction l generalizing s with
  | nil => rfl
  | cons i l ih =>
    obtain ⟨n, nd⟩ := List.nodup_cons.mp nd
    refine (ih nd fun j m => ?_).trans (sweepHold_waits (h i List.mem_cons_self))
    unfold State.keepsHold
    rw [(sweepHold_only src inc claims s i).others j fun e => n (e ▸ m)]
    exact h j (List.mem_cons_of_mem i m)

/-- A sweep that releases no hold leaves the queue to the entries' own sweep. -/
theorem sweepSegments_waits {src inc : Nat} {claims : List ClaimItem} {s : State} (h : ∀ i, s.keepsHold src inc claims i) :
    (sweepSegments src inc claims s).sga.waits = s.sga.waits.filterMap (sweepWait src inc claims) :=
  sweepHolds_waits (List.nodup_range) (s := s.waitsSwept src inc claims) fun i _ => h i

/-- A hold wait queue entry after a record of its claimant (R139). -/
theorem sweepWait_eq (src inc : Nat) (claims : List ClaimItem) (w : HoldWait) : sweepWait src inc claims w =
    if w.id.address = src ∧ w.id.incarnation = inc then
      if ∃ x ∈ claims, x.sequence = w.id.sequence then some { w with absentCount := 0 }
      else if w.absentCount = 0 then some { w with absentCount := 1 } else none
    else some w := by
  unfold sweepWait
  by_cases c : w.id.address = src ∧ w.id.incarnation = inc
  · rw [if_pos c, if_pos (by simp [c.1, c.2])]
    by_cases shown : ∃ x ∈ claims, x.sequence = w.id.sequence
    · rw [if_pos shown, if_pos ((showsClaim_iff claims w.id).mpr shown)]
    · rw [if_neg shown, if_neg fun k => shown ((showsClaim_iff claims w.id).mp k)]
      by_cases z : w.absentCount = 0
      · rw [if_pos z, if_pos (by omega), z]
      · rw [if_neg z, if_neg (by omega)]
  · rw [if_neg c, if_neg (by simpa using c)]

theorem sweepWait_segment {src inc : Nat} {claims : List ClaimItem} {w x : HoldWait} (h : sweepWait src inc claims w = some x) :
    x.segment = w.segment := by
  unfold sweepWait at h
  repeat' split at h
  all_goals cases h
  all_goals rfl

/-- With nobody waiting for a segment, nobody waits for it after the entries' sweep. -/
theorem waitsSwept_segment {src inc : Nat} {claims : List ClaimItem} {s : State} {i : Nat} (h : ∀ w ∈ s.sga.waits, w.segment ≠ i) :
    ∀ w ∈ (s.waitsSwept src inc claims).sga.waits, w.segment ≠ i := by
  intro w m
  obtain ⟨x, mx, e⟩ := List.mem_filterMap.mp m
  rw [sweepWait_segment e]
  exact h x mx

end Sys2Proof.Machine
end

section

namespace Sys2Proof.Machine

/-! ## A record at the Tank Manager (R113, R114, R119) -/

theorem examineRevoked_eq (src inc : Nat) (claims : List ClaimItem) (s : State) : examineRevoked src inc claims s =
    (s.setBc { s.bc with
      queue := s.bc.queue ++ ((s.tkm.memory.filter (s.resends src inc claims)).take s.places).map Revoked.revoke }).setMemory
        (s.memoryAfter src inc claims s.places s.tkm.memory) := by
  unfold examineRevoked
  rw [examineEntries_eq]

/-- What a record leaves of the Tank Manager and of the transmit queue. -/
structure TanksRecorded (src inc : Nat) (claims : List ClaimItem) (s t : State) : Prop where
  grants : ∀ k, k < 2 → (s.tankOf k).grants.filterMap (examineGrant s.ident.address src inc claims k) <+: (t.tankOf k).grants
  noneMore : s.tkm.waits = [] → ∀ k, k < 2 → (t.tankOf k).grants.length ≤ (s.tankOf k).grants.length
  waits : t.tkm.waits.Sublist (s.tkm.waits.filterMap (examineWait s.ident.address src inc claims))
  memory : t.tkm.memory = s.memoryAfter src inc claims s.places s.tkm.memory
  queue : s.bc.queue ++ ((s.tkm.memory.filter (s.resends src inc claims)).take s.places).map Revoked.revoke <+: t.bc.queue

/-- Before the scan. -/
theorem examineRevoked_recorded (src inc : Nat) (claims : List ClaimItem) (s : State) :
    TanksRecorded src inc claims s (examineRevoked src inc claims (s.examined src inc claims)) ∧
      (examineRevoked src inc claims (s.examined src inc claims)).tkm.waits =
        s.tkm.waits.filterMap (examineWait s.ident.address src inc claims) := by
  have grants (k : Nat) (h : k < 2) := examined_grants s src inc claims h
  have waits : (s.examined src inc claims).tkm.waits = s.tkm.waits.filterMap (examineWait s.ident.address src inc claims) := rfl
  have memory : (s.examined src inc claims).tkm.memory = s.tkm.memory := rfl
  have bc : (s.examined src inc claims).bc = s.bc := rfl
  have ident : (s.examined src inc claims).ident = s.ident := rfl
  generalize s.examined src inc claims = u at grants waits memory bc ident
  have places : u.places = s.places := by
    unfold State.places State.serving
    rw [bc]
  obtain ⟨after, resends⟩ := memoryAfter_congr ident src inc claims s.places s.tkm.memory
  have left : ∀ k, ((examineRevoked src inc claims u).tankOf k).grants = (u.tankOf k).grants := by
    rw [examineRevoked_eq]
    exact fun _ => rfl
  refine ⟨⟨fun k h => ?_, fun _ k h => ?_, ?_, ?_, ?_⟩, ?_⟩
  · rw [left, grants k h]
  · rw [left, grants k h]
    exact List.length_filterMap_le _ _
  · rw [examineRevoked_eq, ← waits]
    exact List.Sublist.refl _
  · rw [examineRevoked_eq, ← after, ← memory, ← places]
    rfl
  · rw [examineRevoked_eq, ← bc, ← resends, ← memory, ← places]
    exact List.prefix_refl _
  · rw [examineRevoked_eq, ← waits]
    rfl

theorem recordTanks_recorded (src inc : Nat) (claims : List ClaimItem) (s : State) :
    TanksRecorded src inc claims s (recordTanks src inc claims s) := by
  obtain ⟨h, waits⟩ := examineRevoked_recorded src inc claims s
  rcases recordTanks_cases src inc claims s with e | e <;> rw [e]
  · generalize examineRevoked src inc claims (s.examined src inc claims) = u at h waits
    have a := scanQueue_admits u
    refine ⟨fun k l => (h.grants k l).trans (a.grants k), fun none => ?_, a.waits.trans h.waits, a.memory.trans h.memory,
      h.queue.trans (scanQueue_works (Works.refl u)).queue⟩
    rw [scanQueue_noWaits (by rw [waits, none]; rfl)]
    exact h.noneMore none
  · exact h

/-! ## A record at the blocks (R32) -/

/-- The claims' part of a record leaves what the record examines at the Tank Manager and the arbiter. -/
theorem recordClaims_holds (src : Nat) (items : List SegItem) (s : State) : SameHolds s (recordClaims src items s) := .endWhere _ _ s

theorem passRecord_recorded (src inc : Nat) (r : StatusRecord) (s : State) :
    TanksRecorded src inc r.claims (recordClaims src r.segments s) (passRecord src inc r s) := by
  have h := recordTanks_recorded src inc r.claims (recordClaims src r.segments s)
  unfold passRecord
  generalize recordTanks src inc r.claims (recordClaims src r.segments s) = u at h
  obtain ⟨grants, waits, memory⟩ := sweepSegments_tanks src inc r.claims u
  exact ⟨fun k l => by rw [grants]; exact h.grants k l, fun none k l => by rw [grants]; exact h.noneMore none k l,
    by rw [waits]; exact h.waits, memory.trans h.memory, h.queue.trans (sweepSegments_works (Works.refl u) _ _ _).queue⟩

end Sys2Proof.Machine
end

section

namespace Sys2Proof.Machine

/-! ## A record at the arbiter (R138, R139) -/

theorem passRecord_holdWaits {s : State} {src inc : Nat} {r : StatusRecord} (h : ∀ i, s.keepsHold src inc r.claims i) :
    (passRecord src inc r s).sga.waits = s.sga.waits.filterMap (sweepWait src inc r.claims) := by
  have sga := (recordTanks_sga src inc r.claims _).trans (recordClaims_holds src r.segments s).sga
  unfold passRecord
  generalize recordTanks src inc r.claims (recordClaims src r.segments s) = u at sga
  have same : ∀ i, u.keepsHold src inc r.claims i := fun i => by
    unfold State.keepsHold State.segOf
    rw [sga]
    exact h i
  rw [sweepSegments_waits same, sga]

/-- A segment after a record is as the sweep at its hold leaves it. -/
theorem passRecord_segOf (src inc : Nat) (r : StatusRecord) (s : State) {i : Nat} (l : i < 4) :
    ∃ u : State, u.segOf i = s.segOf i ∧ ((∀ w ∈ s.sga.waits, w.segment ≠ i) → ∀ w ∈ u.sga.waits, w.segment ≠ i) ∧
      (passRecord src inc r s).segOf i = (sweepHold src inc r.claims u i).segOf i := by
  have sga := (recordTanks_sga src inc r.claims _).trans (recordClaims_holds src r.segments s).sga
  unfold passRecord
  generalize recordTanks src inc r.claims (recordClaims src r.segments s) = v at sga
  obtain ⟨u, seg, waits, e⟩ := sweepSegments_segOf src inc r.claims v l
  refine ⟨u, ?_, fun n w m => ?_, e⟩
  · rw [seg]
    unfold State.segOf
    rw [sga]
  · exact waitsSwept_segment (s := v) (by rw [sga]; exact n) w (waits.mem m)

/-- A hold after a record: the segments of others stand; of the sender's, one shown counts from 0, one absent for the first time counts 1, and one
absent again with nobody waiting is FREE, or stays out of HELD without a holder where it was in FAULT (R139). -/
theorem passRecord_hold (src inc : Nat) (r : StatusRecord) (s : State) {i : Nat} (l : i < 4) :
    ((∀ id, (s.segOf i).holder = some id → id.address ≠ src ∨ id.incarnation ≠ inc) → (passRecord src inc r s).segOf i = s.segOf i) ∧
    (∀ id, (s.segOf i).holder = some id → id.address = src → id.incarnation = inc →
      ((∃ x ∈ r.claims, x.sequence = id.sequence) →
        (passRecord src inc r s).segOf i = { s.segOf i with absentCount := 0 }) ∧
      ((∀ x ∈ r.claims, x.sequence ≠ id.sequence) → (s.segOf i).absentCount = 0 →
        (passRecord src inc r s).segOf i = { s.segOf i with absentCount := 1 }) ∧
      ((∀ x ∈ r.claims, x.sequence ≠ id.sequence) → 1 ≤ (s.segOf i).absentCount → (∀ w ∈ s.sga.waits, w.segment ≠ i) →
        ((s.segOf i).state = .held → (passRecord src inc r s).segOf i = ⟨.free, none, 0⟩) ∧
        ((s.segOf i).state = .fault → ((passRecord src inc r s).segOf i).holder = none ∧
          ((passRecord src inc r s).segOf i).state ≠ .held))) := by
  obtain ⟨u, seg, waits, e⟩ := passRecord_segOf src inc r s l
  rw [e, ← seg]
  refine ⟨fun n => ?_, fun id holder address incarnation => ?_⟩
  · rw [sweepHold_other fun id holder sent => (n id holder).elim (· sent.1) (· sent.2)]
  · rw [sweepHold_sender holder ⟨address, incarnation⟩]
    refine ⟨fun shown => ?_, fun absent once => ?_, fun absent again n => ?_⟩
    · rw [if_pos shown, segOf_putSeg, if_pos ⟨rfl, l⟩]
    · rw [if_neg fun ⟨x, m, shown⟩ => absent x m shown, if_pos once, segOf_putSeg, if_pos ⟨rfl, l⟩]
    · rw [if_neg fun ⟨x, m, shown⟩ => absent x m shown, if_neg (by omega)]
      exact ⟨fun held => releaseSeg_held l held (waits n), fun fault => releaseSeg_fault l fault⟩

/-! ## A record by itself (R32) -/

theorem exec_statusRecord {s : State} (h : s.ready) (src inc : Nat) (round : Word) (r : StatusRecord) :
    exec (.statusRecord src inc round r) s = .next (recordAlone src inc round r s) :=
  congrArg Host.Outcome.next (act_ready h _)

/-- Where a record by itself is not taken. -/
theorem recordAlone_other {s : State} {src : Nat}
    (h : s.hearing = false ∨ validAddr src = false ∨ src = s.ident.address ∨ (s.rosterOf src).presence ≠ .present)
    (inc : Nat) (round : Word) (r : StatusRecord) : recordAlone src inc round r s = s := by
  unfold recordAlone
  rw [if_neg]
  rcases h with h | h | h | h <;> simp [h]

/-- A record of a peer that is PRESENT is taken. -/
theorem recordAlone_taken {s : State} {src : Nat} (h : s.hearing = true) (v : validAddr src = true) (n : src ≠ s.ident.address)
    (p : (s.rosterOf src).presence = .present) (inc : Nat) (round : Word) (r : StatusRecord) :
    recordAlone src inc round r s = takeRecord src inc round r s := if_pos (by simp [h, v, n, p])

/-- Settles O21: the record is the NWT entry, and each block's part of it is read off that block, the others' parts leaving it alone. -/
theorem recordReplacesEntry : Obligations.RecordReplacesEntry := by
  intro src inc round r s ready
  refine ⟨fun hear v other present => ?_, fun h => by rw [exec_statusRecord ready, recordAlone_other h]⟩
  have works := takeRecord_works src inc round r s
  refine ⟨_, (exec_statusRecord ready _ _ _ _).trans (congrArg _ (recordAlone_taken hear v other present _ _ _)), ?_, ?_, fun a n => ?_, ?_⟩
  · rw [works.nwtOf, nwtOf_putNwt, if_pos ⟨rfl, v⟩]
  · rw [works.roster, putNwt_eq]
    rfl
  · rw [works.nwtOf, nwtOf_putNwt_other s n]
  unfold takeRecord
  rw [putNwt_eq]
  generalize (s.putNwt src (some ⟨r, round, s.bc.round, false⟩)).nwt = w
  have same : SameHolds s (recordClaims src r.segments (s.setNwt w)) :=
    (SameHolds.of rfl rfl : SameHolds s (s.setNwt w)).trans (recordClaims_holds _ _ _)
  have claimed : Works (s.setNwt w) (recordClaims src r.segments (s.setNwt w)) := recordClaims_works (Works.refl _) _ _
  have ident : (recordClaims src r.segments (s.setNwt w)).ident = s.ident := claimed.ident
  have serving : (recordClaims src r.segments (s.setNwt w)).serving = s.serving := claimed.serving
  have none : s.cle.list = [] → (recordClaims src r.segments (s.setNwt w)).bc.queue = s.bc.queue := fun c => by
    rw [recordClaims_eq, endWhere_noClaims (s := s.setNwt w) c]
    rfl
  have seg (i : Nat) : (s.setNwt w).segOf i = s.segOf i := rfl
  have tanks := passRecord_recorded src inc r (s.setNwt w)
  have claims := passRecord_cle src inc r (s.setNwt w)
  have claim {x : Claim} (o : s.orderly) (m : x ∈ s.cle.list) := recordClaims_claim (s := s.setNwt w) (o.congr rfl) m src r.segments
  generalize recordClaims src r.segments (s.setNwt w) = c at same ident serving none tanks claims claim
  obtain ⟨grants, noneMore, waits, memory, queue⟩ := tanks
  rw [ident] at grants waits
  have places {before : List Message} {k : Nat} (eb : before = c.bc.queue) (ek : k = if s.serving then 16 - before.length else 0) :
      c.places = k := by
    unfold State.places
    rw [ek, eb, serving]
  refine ⟨fun once train x m => ?_, fun k l => ⟨?_, fun noWaits => ?_⟩, ?_,
    fun before k eb ek => ⟨?_, ?_, ?_⟩, fun keep => ?_, fun i l => ?_⟩
  · rw [claims]
    exact claim ⟨once, train⟩ m
  · have shown := grants k l
    rw [same.grants, show examineGrant s.ident.address src inc r.claims k = _ from funext (examineGrant_eq _ _ _ _ _)] at shown
    exact shown
  · rw [← same.grants k]
    exact noneMore (same.waits.trans noWaits) k l
  · rw [same.waits, show examineWait s.ident.address src inc r.claims = _ from funext (examineWait_eq _ _ _ _)] at waits
    exact waits
  · exact fun c => eb.trans (none c)
  · rw [memory, places eb ek, (memoryAfter_congr ident src inc r.claims k c.tkm.memory).1, same.memory]
  · rw [places eb ek, (memoryAfter_congr ident src inc r.claims k c.tkm.memory).2, same.memory, ← eb] at queue
    exact queue
  · have held : ∀ i, (s.setNwt w).keepsHold src inc r.claims i := fun i => by
      unfold State.keepsHold
      rw [seg]
      exact fun id e o => keep i id e o.1 o.2
    rw [passRecord_holdWaits held, show sweepWait src inc r.claims = _ from funext (sweepWait_eq _ _ _)]
    rfl
  · have hold := passRecord_hold src inc r (s.setNwt w) l
    rw [seg] at hold
    exact hold

end Sys2Proof.Machine
end

section

namespace Sys2Proof.Machine

/-! ## Windows (R46, R47) -/

theorem classify_below {l h v : Nat} (b : v < l) : classify l h v = .below := if_pos b

theorem classify_inside {l h v : Nat} (a : l ≤ v) (b : v ≤ h) : classify l h v = .inside := by
  unfold classify
  rw [if_neg (by omega), if_pos b]

theorem classify_above {l h v : Nat} (a : l ≤ h) (b : h < v) : classify l h v = .above := by
  unfold classify
  rw [if_neg (by omega), if_neg (by omega)]

/-- INITIAL and FAULT are left by direct classification (R47). -/
theorem windowAfter_unmeasured {w : WindowState} (e : w = .initial ∨ w = .fault) (l h y v : Nat) :
    windowAfter w l h y v = classify l h v := by
  rcases e with rfl | rfl <;> rfl

/-- In ABOVE the high mark is lowered by the hysteresis (Table 3-2). -/
theorem windowAfter_above (l h y v : Nat) :
    windowAfter .above l h y v = if v < l then .below else if v + y ≤ h then .inside else .above := rfl

/-! ## The strapping table (R44) -/

theorem rising_pairwise {l : List (Nat × Nat)} (h : rising l = true) : l.Pairwise fun p q => p.1 < q.1 := by
  rw [rising_iff] at h
  have order : IsTrans (Nat × Nat) fun p q => p.1 < q.1 ∧ p.2 ≤ q.2 :=
    ⟨fun _ _ _ a b => ⟨a.1.trans b.1, a.2.trans b.2⟩⟩
  exact (List.isChain_iff_pairwise.mp h).imp And.left

/-- A raw mean at or above the last raw value gives the last volume. -/
theorem volumeFrom_last {r : Nat} {p last : Nat × Nat} {l : List (Nat × Nat)} (o : (p :: l).Pairwise fun p q => p.1 < q.1)
    (e : (p :: l).getLast? = some last) (h : last.1 ≤ r) : volumeFrom r p l = last.2 := by
  induction l generalizing p with
  | nil =>
    cases e
    rfl
  | cons q l ih =>
    have o' := (List.pairwise_cons.mp o).2
    have e' : (q :: l).getLast? = some last := by rwa [List.getLast?_cons_cons] at e
    have reached : q.1 ≤ last.1 := by
      rcases List.mem_cons.mp (List.mem_of_getLast? e') with rfl | m
      · exact Nat.le_refl _
      · exact Nat.le_of_lt ((List.pairwise_cons.mp o').1 _ m)
    rw [volumeFrom, if_neg (by omega)]
    exact ih o' e'

/-- A raw mean within a pair of neighbours is interpolated between them. -/
theorem volumeFrom_between {r : Nat} {p lower upper : Nat × Nat} {before after : List (Nat × Nat)}
    (o : ∀ q ∈ before, q.1 < lower.1) (h : lower.1 ≤ r) (k : r < upper.1) :
    volumeFrom r p (before ++ lower :: upper :: after) = interpolate r lower upper := by
  induction before generalizing p with
  | nil => rw [List.nil_append, volumeFrom, if_neg (by omega), volumeFrom, if_pos k]
  | cons q before ih =>
    have below := o q List.mem_cons_self
    rw [List.cons_append, volumeFrom, if_neg (by omega)]
    exact ih fun x m => o x (List.mem_cons_of_mem q m)

theorem interpolate_start {p q : Nat × Nat} (h : p.1 < q.1) : interpolate p.1 p q = p.2 := by
  unfold interpolate
  rw [Nat.sub_self, Nat.mul_zero, Nat.zero_mul, Nat.zero_add, Nat.div_eq_of_lt (by omega), Nat.add_zero]

theorem volumeOf_first {r : Nat} {first : Nat × Nat} {points : List (Nat × Nat)} (e : points.head? = some first) (h : r ≤ first.1) :
    volumeOf points r = first.2 := by
  obtain ⟨rest, rfl⟩ := List.head?_eq_some_iff.mp e
  exact if_pos h

theorem volumeOf_last {r : Nat} {last : Nat × Nat} {points : List (Nat × Nat)} (o : rising points = true)
    (e : points.getLast? = some last) (h : last.1 ≤ r) : volumeOf points r = last.2 := by
  cases points with
  | nil => cases e
  | cons p rest =>
    have sorted := rising_pairwise o
    unfold volumeOf
    dsimp only
    split
    · rename_i low
      rw [List.getLast?_cons] at e
      cases rest with
      | nil =>
        cases e
        rfl
      | cons q rest =>
        have m : last ∈ q :: rest := List.mem_of_getLast? (by simpa [List.getLast?_cons] using e)
        have := (List.pairwise_cons.mp sorted).1 _ m
        omega
    · exact volumeFrom_last sorted e h

theorem volumeOf_between {r : Nat} {before after : List (Nat × Nat)} {lower upper : Nat × Nat}
    (o : rising (before ++ lower :: upper :: after) = true) (h : lower.1 ≤ r) (k : r < upper.1) :
    volumeOf (before ++ lower :: upper :: after) r = interpolate r lower upper := by
  obtain ⟨-, -, across⟩ := List.pairwise_append.mp (rising_pairwise o)
  have below : ∀ q ∈ before, q.1 < lower.1 := fun q m => across q m lower List.mem_cons_self
  cases before with
  | nil =>
    unfold volumeOf
    dsimp only [List.nil_append]
    split
    · obtain rfl : r = lower.1 := by omega
      exact (interpolate_start k).symm
    · rw [volumeFrom, if_pos k]
  | cons p before =>
    have := below p List.mem_cons_self
    unfold volumeOf
    dsimp only [List.cons_append]
    rw [if_neg (by omega)]
    exact volumeFrom_between (fun q m => below q (List.mem_cons_of_mem p m)) h k

/-- Settles O38: the windows are ladders of the marks, and the interpolation is the floor of the exact value and a half. -/
theorem levelConversion : Obligations.LevelConversion := by
  refine ⟨fun l h y v => ⟨?_, ?_, ?_, ?_, ?_, ?_, ?_, ?_, ?_, fun w e => ?_⟩,
    fun r first last points => ⟨volumeOf_first, volumeOf_last, fun before after lower upper o e a b => ?_⟩⟩
  · exact classify_below
  · exact classify_inside
  · exact classify_above
  · exact classify_below
  · exact classify_inside
  · exact classify_above
  · exact fun a => if_pos a
  · exact fun a b => by rw [windowAfter_above, if_neg (by omega), if_pos b]
  · exact fun a b => by rw [windowAfter_above, if_neg (by omega), if_neg (by omega)]
  · rw [windowAfter_unmeasured e]
    exact ⟨classify_below, classify_inside, classify_above⟩
  · subst e
    rw [volumeOf_between o a b]
    unfold interpolate
    rw [Nat.add_sub_cancel_left]
    exact ⟨Nat.mul_div_le _ _, Nat.lt_mul_div_succ _ (by omega), Nat.le_add_right _ _⟩

end Sys2Proof.Machine
end

section

namespace Sys2Proof.Machine

/-! ## The sample clock (R41 to R43) -/

theorem isRail_eq (v : Nat) : isRail v = (decide (v = 0) || decide (v = 4095)) := by
  unfold isRail
  grind

/-- A channel that the tick reaches is active and has its sample (R41 to R43). -/
theorem tickChannel_on (v : Nat) (c : Channel) : tickChannel true v c =
    { c with active := true, accumulator := c.accumulator + v, count := c.count + 1, rail := c.rail || decide (v = 0) || decide (v = 4095) } := by
  rw [Bool.or_assoc, ← isRail_eq]
  rfl

theorem tickChannel_off (v : Nat) (c : Channel) : tickChannel false v c = c := rfl

theorem readingDone_iff {n : Nat} {c : Channel} (h : c.active = true) : readingDone (some n) c = true ↔ c.count = 2 ^ n := by
  simp [readingDone, h]

/-- The tick that completes a reading is the one that brings its last sample (R42). -/
theorem readingDone_ticked {on : Bool} (h : on = true) {e : Option Nat} {n : Nat} (k : e = some n) (v : Nat) (c : Channel) :
    readingDone e (tickChannel on v c) = true ↔ c.count + 1 = 2 ^ n := by
  rw [h, k]
  exact readingDone_iff rfl

theorem dueIf_eq (c : Bool) (e : Due) (s : State) : dueIf c e s = s.setDue (s.due ++ if c then [e] else []) := by
  cases c
  · exact (congrArg s.setDue (List.append_nil s.due)).symm
  · rfl

/-- The channels after a tick. -/
def State.ticked (s : State) (v0 v1 vq : Nat) : Channels where
  level := put (put s.mch.level 0 (tickChannel (s.hasTank 0) v0 (s.levelCh 0))) 1 (tickChannel (s.hasTank 1) v1 (s.levelCh 1))
  quality := tickChannel s.highpressOn vq s.mch.quality

/-- A tick replaces the channels, and the readings that are complete fall due behind what was due (R41, R42). -/
theorem sampleTick_eq (v0 v1 vq : Nat) (s : State) : sampleTick v0 v1 vq s = (s.setMch (s.ticked v0 v1 vq)).setDue
    (s.due ++ (if readingDone (s.levelExp 0) (tickChannel (s.hasTank 0) v0 (s.levelCh 0)) then [.levelReading 0] else []) ++
      (if readingDone (s.levelExp 1) (tickChannel (s.hasTank 1) v1 (s.levelCh 1)) then [.levelReading 1] else []) ++
      if readingDone s.qualityExp (tickChannel s.highpressOn vq s.mch.quality) then [.qualityReading] else []) := by
  unfold sampleTick
  simp only [dueIf_eq]
  rfl

theorem ticked_level (s : State) (v0 v1 vq : Nat) {i v : Nat} (h : (i = 0 ∧ v = v0) ∨ (i = 1 ∧ v = v1)) :
    look (s.ticked v0 v1 vq).level Channel.initial i = tickChannel (s.hasTank i) v (s.levelCh i) := by
  unfold State.ticked
  rcases h with ⟨rfl, rfl⟩ | ⟨rfl, rfl⟩
  · rw [look_put_other _ (by decide), look_put_same _ (by decide)]
  · exact look_put_same _ (by decide) _ _

theorem exec_sampleClockTick {s : State} (h : s.ready) (v0 v1 vq : Nat) :
    exec (.sampleClockTick v0 v1 vq) s = .next (if s.hearing then sampleTick v0 v1 vq s else s) :=
  congrArg Host.Outcome.next (act_ready h _)

/-- Settles O39. -/
theorem samplesAreTaken : Obligations.SamplesAreTaken := by
  intro v0 v1 vq s ready
  rw [exec_sampleClockTick ready]
  refine ⟨fun hearing => ⟨sampleTick v0 v1 vq s, by rw [if_pos hearing], ?_⟩, fun deaf => by rw [deaf]; rfl⟩
  rw [sampleTick_eq, ready.2]
  refine ⟨rfl, fun i v which => ⟨fun on => ?_, fun off => ?_, fun u on setup => ?_⟩, fun on => ?_, fun u on setup => ?_, fun off => ?_⟩
  · exact (ticked_level s v0 v1 vq which).trans (by rw [on, tickChannel_on])
  · exact (ticked_level s v0 v1 vq which).trans (by rw [off, tickChannel_off])
  · rw [← readingDone_ticked on (show s.levelExp i = some u.n by rw [State.levelExp, setup]; rfl) v]
    rcases which with ⟨rfl, rfl⟩ | ⟨rfl, rfl⟩ <;> simp
  · exact (congrArg (tickChannel · vq s.mch.quality) on).trans (tickChannel_on _ _)
  · rw [← readingDone_ticked on (show s.qualityExp = some u.n by rw [State.qualityExp, setup]; rfl) vq]
    simp
  · exact (congrArg (tickChannel · vq s.mch.quality) off).trans (tickChannel_off _ _)

end Sys2Proof.Machine
end

section

namespace Sys2Proof.Machine

/-! ## What a level event touches -/

/-- From `s` to `t` nothing changed but claims, tanks and the transmit queue. -/
def Manages (s t : State) : Prop := t = { s with cle := t.cle, tkm := t.tkm, bc := { s.bc with queue := t.bc.queue } }

namespace Manages

variable {s t u : State}

theorem refl (s : State) : Manages s s := rfl

theorem trans (h : Manages s t) (k : Manages t u) : Manages s u := by
  unfold Manages at h k ⊢
  rw [k, h]

theorem fold {α : Type} {f : State → α → State} (hf : ∀ s a, Manages s (f s a)) (l : List α) (s : State) : Manages s (l.foldl f s) := by
  induction l generalizing s with
  | nil => exact .refl s
  | cons a l ih => exact (hf s a).trans (ih _)

theorem setTkm (s : State) (x : Tanks) : Manages s (s.setTkm x) := rfl

theorem setCle (s : State) (x : Claims) : Manages s (s.setCle x) := rfl

theorem offer (m : Message) (s : State) : Manages s (offer m s).1 := by
  unfold Sys2Proof.Machine.offer
  split <;> rfl

theorem setup (h : Manages s t) : t.setup = s.setup := by rw [h]
theorem mch (h : Manages s t) : t.mch = s.mch := by rw [h]
theorem fsc (h : Manages s t) : t.fsc = s.fsc := by rw [h]
theorem trs (h : Manages s t) : t.trs = s.trs := by rw [h]
theorem ila (h : Manages s t) : t.ila = s.ila := by rw [h]
theorem pls (h : Manages s t) : t.pls = s.pls := by rw [h]
theorem due (h : Manages s t) : t.due = s.due := by rw [h]
theorem act (h : Manages s t) : t.act = s.act := by rw [h]
theorem port (h : Manages s t) : t.port = s.port := by rw [h]

theorem train (h : Manages s t) (x : Train) : Manages (s.setTrs x) (t.setTrs x) := by
  rw [h]
  rfl

theorem levelCh (h : Manages s t) (i : Nat) : t.levelCh i = s.levelCh i := by
  unfold State.levelCh
  rw [h.mch]

theorem limit (h : Manages s t) (i k : Nat) : t.limit i k = s.limit i k := by
  unfold State.limit State.plan
  rw [h.levelCh, h.pls]

theorem room (h : Manages s t) (i : Nat) : t.room i = s.room i := by
  unfold State.room State.capacity State.tankSetup State.plan
  rw [h.levelCh, h.pls, h.setup]

/-! ### The Tank Manager's operations -/

theorem scanEntry (s : State) (w : TankWait) : Manages s (scanEntry s w) := by
  unfold Sys2Proof.Machine.scanEntry admitRequest
  split
  · exact ((setTkm s _).trans (setTkm _ _)).trans (offer _ _)
  · exact refl s

theorem scanQueue (s : State) : Manages s (scanQueue s) := fold scanEntry _ s

theorem takeBack (i : Nat) (g : Grant) (s : State) : Manages s (takeBack i g s) :=
  ((setTkm s _).trans (offer _ _)).trans (setTkm _ _)

theorem createClaim (n : NewClaim) (s : State) : Manages s (createClaim n s).1 := by
  unfold Sys2Proof.Machine.createClaim
  split
  · exact refl s
  · exact ((setCle s _).trans (offer _ _)).trans (setCle _ _)

theorem askFill (i n : Nat) (src : Source) (v : Nat) (s : State) : Manages s (askFill i n src v s) := by
  unfold Sys2Proof.Machine.askFill
  dsimp only
  split <;> exact (createClaim _ s).trans (setTkm _ _)

theorem attemptFill (i : Nat) (s : State) : Manages s (attemptFill i s) := by
  unfold Sys2Proof.Machine.attemptFill
  dsimp only
  repeat' split
  · exact (setTkm s _).trans (setTkm _ _)
  · exact (setTkm s _).trans (askFill _ _ _ _ _)
  · exact (setTkm s _).trans (setTkm _ _)
  · exact refl s

theorem fillEvent (i : Nat) (before after : WindowState) (s : State) : Manages s (fillEvent i before after s) := by
  unfold Sys2Proof.Machine.fillEvent
  repeat' split
  · exact setTkm s _
  · exact attemptFill i s
  · exact refl s

theorem fillLate (s : State) : Manages s (fillLate s) := by
  unfold Sys2Proof.Machine.fillLate
  split
  · exact (setTkm s _).trans (fillEvent _ _ _ _)
  · exact refl s

end Manages

/-! ## Automatic fill leaves the grants -/

theorem SameHolds.setLate (s : State) (e : Option LevelEvent) : SameHolds s (s.setLate e) := ⟨rfl, rfl, rfl, fun _ => rfl⟩

theorem SameHolds.askFill (i n : Nat) (src : Source) (v : Nat) (s : State) : SameHolds s (askFill i n src v s) := by
  unfold Sys2Proof.Machine.askFill
  dsimp only
  split <;> exact (createClaim _ s).trans (putTank _ i rfl)

theorem SameHolds.attemptFill (i : Nat) (s : State) : SameHolds s (attemptFill i s) := by
  unfold Sys2Proof.Machine.attemptFill
  dsimp only
  have waits : SameHolds s (s.putTank i { s.tankOf i with retry := 50 }) := putTank s i rfl
  generalize s.putTank i { s.tankOf i with retry := 50 } = u at waits
  repeat' split
  · exact waits.trans (putTank u i rfl)
  · exact waits.trans (askFill _ _ _ _ u)
  · exact waits.trans (putTank u i rfl)
  · exact refl s

theorem SameHolds.fillEvent (i : Nat) (before after : WindowState) (s : State) : SameHolds s (fillEvent i before after s) := by
  unfold Sys2Proof.Machine.fillEvent
  repeat' split
  · exact putTank s i rfl
  · exact attemptFill i s
  · exact refl s

theorem SameHolds.fillLate (s : State) : SameHolds s (fillLate s) := by
  unfold Sys2Proof.Machine.fillLate
  split
  · exact (setLate s _).trans (fillEvent _ _ _ _)
  · exact refl s

/-! ## A level event, step by step (R121) -/

/-- The revocation run of a valid reading (R121 step 1). -/
def State.levelRun (s : State) (i : Nat) (run : Bool) : State := if run then revocationRun i s else s

theorem levelRun_valid (s : State) (i : Nat) : s.levelRun i true = revocationRun i s := if_pos rfl

theorem levelEvent_serving {s : State} (h : s.serving = true) (i : Nat) (run : Bool) (before after : WindowState) :
    levelEvent i run before after s =
      if (s.levelRun i run).readingPends (1 - i) then (s.levelRun i run).setLate (some ⟨i, before, after⟩)
      else scanAndFill i before after (s.levelRun i run) := if_pos h

theorem levelEvent_idle {s : State} (h : s.serving = false) (i : Nat) (run : Bool) (before after : WindowState) :
    levelEvent i run before after s = s := by
  unfold levelEvent
  rw [h]
  rfl

theorem SameHolds.scanAndFill (i : Nat) (before after : WindowState) (s : State) :
    SameHolds (scanQueue s) (scanAndFill i before after s) := (fillLate _).trans (fillEvent _ _ _ _)

theorem Manages.scanAndFill (i : Nat) (before after : WindowState) (s : State) : Manages s (scanAndFill i before after s) :=
  ((scanQueue s).trans (fillLate _)).trans (fillEvent _ _ _ _)

/-- The grants after a level event are those after its run, or after the queue scan behind the run (R110, R121). -/
theorem levelEvent_grants {s : State} (h : s.serving = true) (i : Nat) (run : Bool) (before after : WindowState) :
    SameHolds (s.levelRun i run) (levelEvent i run before after s) ∨
      SameHolds (scanQueue (s.levelRun i run)) (levelEvent i run before after s) := by
  rw [levelEvent_serving h]
  split
  · exact .inl (.setLate _ _)
  · exact .inr (.scanAndFill _ _ _ _)

/-! ## Grants that are taken back (R116 to R118) -/

theorem takeBack_grants {i : Nat} (h : i < 2) (g : Grant) (s : State) :
    ((takeBack i g s).tankOf i).grants = (s.tankOf i).grants.erase g := by
  have sent := (SameHolds.offer ⟨g.id.address, .revoke g.id.sequence⟩ (s.setGrants i ((s.tankOf i).grants.erase g))).grants i
  rw [tankOf_setGrants, if_pos ⟨rfl, h⟩] at sent
  exact sent

/-- From `s` to `t` grants of tank `i` were taken back. -/
structure Revokes (i : Nat) (s t : State) : Prop where
  manages : Manages s t
  grants : (t.tankOf i).grants.Sublist (s.tankOf i).grants

theorem Revokes.refl (i : Nat) (s : State) : Revokes i s s := ⟨.refl s, List.Sublist.refl _⟩

theorem Revokes.trans {i : Nat} {s t u : State} (h : Revokes i s t) (k : Revokes i t u) : Revokes i s u :=
  ⟨h.manages.trans k.manages, k.grants.trans h.grants⟩

theorem Revokes.takeBack {i : Nat} (h : i < 2) (g : Grant) (s : State) : Revokes i s (takeBack i g s) :=
  ⟨.takeBack i g s, by rw [takeBack_grants h]; exact List.erase_sublist⟩

theorem Revokes.revokeClass {i : Nat} (h : i < 2) (k fuel : Nat) (s : State) : Revokes i s (revokeClass i k fuel s) := by
  induction fuel generalizing s with
  | zero => exact .refl i s
  | succ fuel ih =>
    unfold Sys2Proof.Machine.revokeClass
    repeat' split
    · exact (Revokes.takeBack h _ s).trans (ih _)
    · exact .refl i s
    · exact .refl i s

theorem Revokes.revokeInflow {i : Nat} (h : i < 2) (fuel : Nat) (s : State) : Revokes i s (revokeInflow i fuel s) := by
  induction fuel generalizing s with
  | zero => exact .refl i s
  | succ fuel ih =>
    unfold Sys2Proof.Machine.revokeInflow
    repeat' split
    · exact (Revokes.takeBack h _ s).trans (ih _)
    · exact .refl i s
    · exact .refl i s

/-- The runs of some classes, one after the other. -/
def revokeClasses (i : Nat) (l : List Nat) (s : State) : State := l.foldl (fun s k => revokeClass i k grantLimit s) s

theorem revocationRun_eq (i : Nat) (s : State) :
    revocationRun i s = revokeInflow i grantLimit (revokeClasses i [5, 4, 3, 2, 1] s) := rfl

theorem Revokes.revokeClasses {i : Nat} (h : i < 2) (l : List Nat) (s : State) : Revokes i s (revokeClasses i l s) := by
  induction l generalizing s with
  | nil => exact .refl i s
  | cons k l ih => exact (Revokes.revokeClass h k _ s).trans (ih _)

theorem Revokes.revocationRun {i : Nat} (h : i < 2) (s : State) : Revokes i s (revocationRun i s) :=
  (Revokes.revokeClasses h _ s).trans (.revokeInflow h _ _)

theorem Manages.levelEvent {i : Nat} (h : i < 2) (run : Bool) (before after : WindowState) (s : State) :
    Manages s (levelEvent i run before after s) := by
  have ran : Manages s (s.levelRun i run) := by
    unfold State.levelRun
    split
    · exact (Revokes.revocationRun h s).manages
    · exact .refl s
  cases serving : s.serving with
  | false => rw [levelEvent_idle serving]; exact .refl s
  | true =>
    rw [levelEvent_serving serving]
    split
    · exact ran.trans (.setTkm _ _)
    · exact ran.trans (.scanAndFill _ _ _ _)

/-! ## Committed totals (Law 3) -/

theorem sumRemaining_append (l m : List Grant) : sumRemaining (l ++ m) = sumRemaining l + sumRemaining m := by
  simp [sumRemaining]

theorem sumRemaining_sublist {l m : List Grant} (h : l.Sublist m) : sumRemaining l ≤ sumRemaining m :=
  (h.map _).sum_le_sum fun _ _ => Nat.zero_le _

theorem sumRemaining_zero {l : List Grant} (h : ∀ g ∈ l, g.remaining = 0) : sumRemaining l = 0 := by
  unfold sumRemaining
  rw [List.sum_eq_zero]
  simpa using h

theorem Revokes.committed {i : Nat} {s t : State} (h : Revokes i s t) (k : Nat) : t.committed i k ≤ s.committed i k :=
  sumRemaining_sublist (h.grants.filter _)

/-- The better of a victim found so far and a grant (R117). -/
def betterVictim (best : Option Grant) (g : Grant) : Option Grant :=
  if g.remaining = 0 then best
  else match best with
    | some b => if b.cls ≤ g.cls then some g else best
    | none => some g

theorem victim_eq (k : Nat) (l : List Grant) : victim k l = (drawsTo k l).foldl betterVictim none := rfl

theorem betterVictim_cases (best : Option Grant) (g : Grant) :
    betterVictim best g = best ∧ (g.remaining = 0 ∨ best ≠ none) ∨ betterVictim best g = some g := by
  unfold betterVictim
  split
  · rename_i e
    exact .inl ⟨rfl, .inl e⟩
  · split
    · split
      · exact .inr rfl
      · exact .inl ⟨rfl, .inr nofun⟩
    · exact .inr rfl

/-- The victim of some grants is one of them, and there is none only where nothing remains (R117). -/
theorem foldl_betterVictim (l : List Grant) (best : Option Grant) :
    (∀ g, l.foldl betterVictim best = some g → best = some g ∨ g ∈ l) ∧
      (l.foldl betterVictim best = none → best = none ∧ ∀ g ∈ l, g.remaining = 0) := by
  induction l generalizing best with
  | nil => exact ⟨fun g e => .inl e, fun e => ⟨e, nofun⟩⟩
  | cons x l ih =>
    obtain ⟨found, nobody⟩ := ih (betterVictim best x)
    rw [List.foldl_cons]
    refine ⟨fun g e => ?_, fun e => ?_⟩
    · rcases found g e with b | m
      · rcases betterVictim_cases best x with ⟨c, -⟩ | c
        · exact .inl (c ▸ b)
        · rw [c] at b
          cases b
          exact .inr List.mem_cons_self
      · exact .inr (List.mem_cons_of_mem x m)
    · obtain ⟨b, rest⟩ := nobody e
      rcases betterVictim_cases best x with ⟨c, zero⟩ | c
      · have none : best = none := c ▸ b
        exact ⟨none, List.forall_mem_cons.mpr ⟨zero.resolve_right (absurd none), rest⟩⟩
      · rw [c] at b
        cases b

theorem victim_some {k : Nat} {l : List Grant} {g : Grant} (h : victim k l = some g) : g ∈ l := by
  rcases (foldl_betterVictim _ none).1 g h with e | m
  · cases e
  · exact List.mem_of_mem_filter m

theorem victim_none {k : Nat} {l : List Grant} (h : victim k l = none) : sumRemaining (drawsTo k l) = 0 :=
  sumRemaining_zero ((foldl_betterVictim _ none).2 h).2

theorem newestInflow_some {l : List Grant} {g : Grant} (h : newestInflow l = some g) : g ∈ l :=
  List.mem_of_mem_filter (List.mem_reverse.mp (List.mem_of_find?_eq_some h))

theorem newestInflow_none {l : List Grant} (h : newestInflow l = none) : sumRemaining (inflows l) = 0 := by
  refine sumRemaining_zero fun g m => ?_
  have := List.find?_eq_none.mp h g (List.mem_reverse.mpr m)
  simpa using this

/-! ## Laws 4 and 5 at a tank -/

/-- Laws 4 and 5 at one tank: no committed total is above its limit. -/
structure State.lawful (s : State) (i : Nat) : Prop where
  draws : ∀ k, 1 ≤ k → k ≤ 5 → s.committed i k ≤ s.limit i k
  inflows : s.committedIn i ≤ s.room i

/-- The run of one class ends with the class within its limit (R117). -/
theorem revokeClass_limits {i : Nat} (h : i < 2) (k : Nat) {fuel : Nat} {s : State} (b : (s.tankOf i).grants.length ≤ fuel) :
    (revokeClass i k fuel s).committed i k ≤ (revokeClass i k fuel s).limit i k := by
  induction fuel generalizing s with
  | zero =>
    unfold State.committed
    rw [revokeClass, List.length_eq_zero_iff.mp (Nat.le_zero.mp b)]
    exact Nat.zero_le _
  | succ fuel ih =>
    rw [revokeClass]
    split
    · split
      · rename_i g e
        refine ih ?_
        rw [takeBack_grants h, List.length_erase_of_mem (victim_some e)]
        omega
      · rename_i e
        unfold State.committed
        rw [victim_none e]
        exact Nat.zero_le _
    · omega

/-- The run of the inflows ends with them within the room (R118). -/
theorem revokeInflow_limits {i : Nat} (h : i < 2) {fuel : Nat} {s : State} (b : (s.tankOf i).grants.length ≤ fuel) :
    (revokeInflow i fuel s).committedIn i ≤ (revokeInflow i fuel s).room i := by
  induction fuel generalizing s with
  | zero =>
    unfold State.committedIn
    rw [revokeInflow, List.length_eq_zero_iff.mp (Nat.le_zero.mp b)]
    exact Nat.zero_le _
  | succ fuel ih =>
    rw [revokeInflow]
    split
    · split
      · rename_i g e
        refine ih ?_
        rw [takeBack_grants h, List.length_erase_of_mem (newestInflow_some e)]
        omega
      · rename_i e
        unfold State.committedIn
        rw [newestInflow_none e]
        exact Nat.zero_le _
    · omega

/-- Taking grants back keeps a class within its limit. -/
theorem Revokes.limits {i k : Nat} {s t : State} (h : Revokes i s t) (l : s.committed i k ≤ s.limit i k) :
    t.committed i k ≤ t.limit i k := by
  rw [h.manages.limit]
  exact (h.committed k).trans l

theorem revokeClasses_limits {i : Nat} (h : i < 2) {l : List Nat} {k : Nat} (m : k ∈ l) {s : State}
    (b : (s.tankOf i).grants.length ≤ grantLimit) : (revokeClasses i l s).committed i k ≤ (revokeClasses i l s).limit i k := by
  induction l generalizing s with
  | nil => cases m
  | cons j l ih =>
    have first := Revokes.revokeClass h j grantLimit s
    rcases List.mem_cons.mp m with rfl | m
    · exact (Revokes.revokeClasses h l _).limits (revokeClass_limits h k b)
    · exact ih m (first.grants.length_le.trans b)

/-- After a revocation run Laws 4 and 5 hold at its tank (R116). -/
theorem revocationRun_lawful {i : Nat} (h : i < 2) {s : State} (b : (s.tankOf i).grants.length ≤ 8) :
    (revocationRun i s).lawful i := by
  rw [revocationRun_eq]
  refine ⟨fun k one five => (Revokes.revokeInflow h _ _).limits (revokeClasses_limits h ?_ b),
    revokeInflow_limits h ((Revokes.revokeClasses h _ s).grants.length_le.trans b)⟩
  simp only [List.mem_cons, List.not_mem_nil, or_false]
  omega

/-! ## The queue scan (R110) -/

theorem scanEntry_other {i : Nat} (w : TankWait) (s : State) (h : w.tank ≠ i ∨ s.fits w.tank w.kind w.cls w.volume = false) :
    ((scanEntry s w).tankOf i).grants = (s.tankOf i).grants := by
  unfold scanEntry admitRequest
  split
  · rename_i f
    rw [(SameHolds.send _ _ _).grants, tankOf_setGrants,
      if_neg fun e => h.elim (· e.1) fun n => absurd (f.symm.trans n) nofun]
    rfl
  · rfl

theorem scanEntry_admitted {i : Nat} (h : i < 2) {w : TankWait} {s : State} (e : w.tank = i)
    (f : s.fits w.tank w.kind w.cls w.volume = true) : ((scanEntry s w).tankOf i).grants =
      (s.tankOf i).grants ++ [newGrant w.id w.kind w.cls w.volume s.bc.round] := by
  unfold scanEntry admitRequest
  rw [if_pos f, (SameHolds.send _ _ _).grants, tankOf_setGrants, if_pos ⟨e, by omega⟩, e]
  rfl

/-- What a new draw or transfer commits to the classes from its own on (R105). -/
theorem drawsTo_newGrant {kind : ClaimKind} (h : kind ≠ .inflow) (k : Nat) (id : ClaimId) (cls v : Nat) (round : Word) :
    sumRemaining (drawsTo k [newGrant id kind cls v round]) = if cls ≤ k then v else 0 := by
  by_cases below : cls ≤ k <;> simp [drawsTo, newGrant, sumRemaining, below, h]

theorem drawsTo_append (k : Nat) (l m : List Grant) : drawsTo k (l ++ m) = drawsTo k l ++ drawsTo k m := List.filter_append ..

theorem inflows_append (l m : List Grant) : inflows (l ++ m) = inflows l ++ inflows m := List.filter_append ..

/-- A claim that fits keeps Laws 4 and 5 (R105). -/
theorem fits_lawful {i : Nat} {kind : ClaimKind} {cls v : Nat} {s : State} (l : s.lawful i) (f : s.fits i kind cls v = true)
    (id : ClaimId) (round : Word) :
    (∀ k, 1 ≤ k → k ≤ 5 → sumRemaining (drawsTo k ((s.tankOf i).grants ++ [newGrant id kind cls v round])) ≤ s.limit i k) ∧
      sumRemaining (inflows ((s.tankOf i).grants ++ [newGrant id kind cls v round])) ≤ s.room i := by
  obtain ⟨draws, room⟩ := l
  unfold State.fits at f
  simp only [Bool.and_eq_true] at f
  obtain ⟨-, f⟩ := f
  simp only [drawsTo_append, inflows_append, sumRemaining_append]
  change (∀ k, _ → _ → s.committed i k + _ ≤ _) ∧ s.committedIn i + _ ≤ _
  cases kind
  case inflow =>
    simp only [Bool.and_eq_true, decide_eq_true_eq] at f
    obtain ⟨fit, -⟩ := f
    unfold State.headroom at fit
    refine ⟨fun k one five => draws k one five, ?_⟩
    change s.committedIn i + v ≤ s.room i
    omega
  all_goals
    have all : ∀ j ∈ [1, 2, 3, 4, 5], j < cls ∨ s.committed i j + v + forClass (s.plan i).floor j ≤ (s.levelCh i).accepted := by
      simpa only [List.all_eq_true, Bool.or_eq_true, decide_eq_true_eq] using f
    refine ⟨fun k one five => ?_, room⟩
    have before := draws k one five
    have fit := all k (by simp only [List.mem_cons, List.not_mem_nil, or_false]; omega)
    rw [drawsTo_newGrant]
    · unfold State.limit at before ⊢
      split <;> omega
    · exact nofun

theorem scanEntry_lawful {i : Nat} (h : i < 2) {s : State} (l : s.lawful i) (w : TankWait) : (scanEntry s w).lawful i := by
  have frame := Manages.scanEntry s w
  have figures : (∀ k, 1 ≤ k → k ≤ 5 → sumRemaining (drawsTo k ((scanEntry s w).tankOf i).grants) ≤ s.limit i k) ∧
      sumRemaining (inflows ((scanEntry s w).tankOf i).grants) ≤ s.room i := by
    by_cases joins : w.tank = i ∧ s.fits w.tank w.kind w.cls w.volume = true
    · obtain ⟨e, f⟩ := joins
      rw [scanEntry_admitted h e f]
      exact fits_lawful l (e ▸ f) _ _
    · rw [scanEntry_other w s (by by_cases e : w.tank = i <;> simp_all)]
      exact ⟨l.draws, l.inflows⟩
  exact ⟨fun k one five => by rw [frame.limit]; exact figures.1 k one five, by rw [frame.room]; exact figures.2⟩

theorem scanQueue_lawful {i : Nat} (h : i < 2) {s : State} (l : s.lawful i) : (scanQueue s).lawful i :=
  Stable.foldl (P := fun s => s.lawful i) (fun _ w l => scanEntry_lawful h l w) _ l

/-- A tank without a measured level admits nothing (R105). -/
theorem scanQueue_unmeasured {i : Nat} {s : State} (h : measured (s.levelCh i).window = false) :
    ((scanQueue s).tankOf i).grants = (s.tankOf i).grants := by
  refine (Stable.foldl (P := fun t => measured (t.levelCh i).window = false ∧ (t.tankOf i).grants = (s.tankOf i).grants)
    (fun t w p => ?_) _ ⟨h, rfl⟩).2
  refine ⟨by rw [(Manages.scanEntry t w).levelCh]; exact p.1, (scanEntry_other w t ?_).trans p.2⟩
  by_cases e : w.tank = i
  · right
    rw [e]
    unfold State.fits
    rw [p.1]
    rfl
  · exact .inl e

/-! ## A level reading (R50) -/

/-- The state with its level channel as the reading leaves it, before the WINDOW record. -/
def State.converted (s : State) (i : Nat) (u : LevelSetup) : State :=
  s.setMch { s.mch with level := put s.mch.level i (levelAfter u (s.plan i) (s.levelCh i)) }

theorem reportLevel_same {s : State} {i : Nat} {before : WindowState} (h : (s.levelCh i).window = before) (c : WindowCause) :
    reportLevel i before c s = s := if_pos h

theorem reportLevel_changed {s : State} {i : Nat} {before : WindowState} (h : (s.levelCh i).window ≠ before) (c : WindowCause) :
    reportLevel i before c s = report (.window i before (s.levelCh i).window (s.levelCh i).accepted c (some s.pls.generation)) s :=
  if_neg h

theorem completeLevel_eq (i : Nat) (u : LevelSetup) (s : State) :
    completeLevel i u s = reportLevel i (s.levelCh i).window .reading (s.converted i u) := rfl

theorem converted_levelCh {i : Nat} (h : i < 2) (u : LevelSetup) (s : State) :
    (s.converted i u).levelCh i = levelAfter u (s.plan i) (s.levelCh i) := look_put_same _ h _ _

theorem converted_levelCh_other {i j : Nat} (h : j ≠ i) (u : LevelSetup) (s : State) : (s.converted i u).levelCh j = s.levelCh j :=
  look_put_other _ h.symm _ _

/-- Apart from the channel a completed reading touches the ring alone. -/
theorem completeLevel_ring (i : Nat) (u : LevelSetup) (s : State) : ∃ l, completeLevel i u s =
    (s.converted i u).setPort { s.port with ring := l } := by
  rw [completeLevel_eq]
  by_cases e : ((s.converted i u).levelCh i).window = (s.levelCh i).window
  · rw [reportLevel_same e]
    exact ⟨s.port.ring, rfl⟩
  · rw [reportLevel_changed e]
    exact report_ring _ _

theorem levelReading_eq {i : Nat} {u : LevelSetup} {s : State} (setup : look s.setup.levels none i = some u)
    (active : (s.levelCh i).active = true) (count : (s.levelCh i).count = 2 ^ u.n) : levelReading i s =
      levelEvent i (!(s.levelCh i).rail) (s.levelCh i).window ((completeLevel i u s).levelCh i).window (completeLevel i u s) := by
  unfold levelReading
  rw [setup]
  exact if_pos ((readingDone_iff active).mpr count)

theorem sumRemaining_cast (l : List Grant) : (l.map fun g => (g.remaining : Int)).sum = (sumRemaining l : Int) := by
  induction l with
  | nil => rfl
  | cons g l ih =>
    rw [List.map_cons, List.sum_cons, ih]
    exact (Int.natCast_add g.remaining (sumRemaining l)).symm

theorem drawsTo_eq (k : Nat) (l : List Grant) : (l.filter fun g => g.kind ≠ .inflow ∧ g.cls ≤ k) = drawsTo k l := by
  unfold drawsTo
  congr 1
  funext g
  by_cases e : g.kind = .inflow <;> simp [e]

/-- The sums of Laws 4 and 5 as the statement writes them. -/
theorem lawful_iff (s : State) (i : Nat) : s.lawful i ↔
    (∀ k, 1 ≤ k → k ≤ 5 →
      ((((s.tankOf i).grants.filter fun g => g.kind ≠ .inflow ∧ g.cls ≤ k).map (·.remaining)).sum : Int) ≤
        max 0 (((s.levelCh i).accepted : Int) - forClass (s.plan i).floor k)) ∧
    ((((s.tankOf i).grants.filter fun g => g.kind = .inflow).map (·.remaining)).sum : Int) ≤
      max 0 ((s.capacity i : Int) - (s.plan i).topMargin - (s.levelCh i).accepted) := by
  simp only [sumRemaining_cast, drawsTo_eq]
  change _ ↔ (∀ k, _ → _ → (s.committed i k : Int) ≤ _) ∧ (s.committedIn i : Int) ≤ _
  have limit : ∀ k, s.committed i k ≤ s.limit i k ↔
      (s.committed i k : Int) ≤ max 0 (((s.levelCh i).accepted : Int) - forClass (s.plan i).floor k) := fun k => by
    unfold State.limit
    omega
  have room : s.committedIn i ≤ s.room i ↔
      (s.committedIn i : Int) ≤ max 0 ((s.capacity i : Int) - (s.plan i).topMargin - (s.levelCh i).accepted) := by
    unfold State.room
    omega
  simp only [← limit, ← room]
  exact ⟨fun l => ⟨l.draws, l.inflows⟩, fun l => ⟨l.1, l.2⟩⟩

theorem SameHolds.lawful {s t : State} (h : SameHolds s t) (m : Manages s t) {i : Nat} (l : s.lawful i) : t.lawful i := by
  refine ⟨fun k one five => ?_, ?_⟩
  · rw [m.limit, State.committed, h.grants]
    exact l.draws k one five
  · rw [m.room, State.committedIn, h.grants]
    exact l.inflows

section

variable {i : Nat} {u : LevelSetup} {s : State}

theorem levelAfter_rail {p : PlanEntry} {c : Channel} (h : c.rail = true) : levelAfter u p c =
    { c with window := .fault, accumulator := 0, count := 0, rail := false } := if_pos h

theorem levelAfter_valid {p : PlanEntry} {c : Channel} (h : c.rail = false) : levelAfter u p c = { c with
    accepted := volumeOf u.points (c.accumulator / 2 ^ u.n)
    window := windowAfter c.window p.low p.high p.hysteresis (volumeOf u.points (c.accumulator / 2 ^ u.n))
    accumulator := 0, count := 0, rail := false } := by
  unfold levelAfter
  rw [h]
  rfl

theorem completeLevel_levelCh (two : i < 2) : (completeLevel i u s).levelCh i = levelAfter u (s.plan i) (s.levelCh i) := by
  obtain ⟨l, e⟩ := completeLevel_ring i u s
  rw [e]
  exact converted_levelCh two u s

theorem completeLevel_holds : SameHolds s (completeLevel i u s) := by
  obtain ⟨l, e⟩ := completeLevel_ring i u s
  rw [e]
  exact .of rfl rfl

/-- No change of window makes no record (R55). -/
theorem completeLevel_same (h : ((completeLevel i u s).levelCh i).window = (s.levelCh i).window) (two : i < 2) :
    (completeLevel i u s).port = s.port := by
  rw [completeLevel_levelCh two, ← converted_levelCh two] at h
  rw [completeLevel_eq, reportLevel_same h]
  rfl

/-- A change of window makes its WINDOW record (R55). -/
theorem completeLevel_changed (h : ((completeLevel i u s).levelCh i).window ≠ (s.levelCh i).window) (two : i < 2)
    (room : s.port.ring.length < 32) : (completeLevel i u s).port = { s.port with ring := s.port.ring ++
      [⟨.window i (s.levelCh i).window ((completeLevel i u s).levelCh i).window ((completeLevel i u s).levelCh i).accepted .reading
        (some s.pls.generation), s.bc.round, false⟩] } := by
  rw [completeLevel_levelCh two, ← converted_levelCh two] at h ⊢
  rw [completeLevel_eq, reportLevel_changed h, report_joins (s := s.converted i u) _ room]
  rfl

variable (setup : look s.setup.levels none i = some u) (active : (s.levelCh i).active = true)
  (count : (s.levelCh i).count = 2 ^ u.n) (two : i < 2)

include setup active count

theorem levelReading_port : (levelReading i s).port = (completeLevel i u s).port := by
  rw [levelReading_eq setup active count]
  exact levelEvent_port _ _ _ _ _

include two

/-- Behind the channel's completion a level reading touches claims, tanks and queue alone. -/
theorem levelReading_manages : Manages (completeLevel i u s) (levelReading i s) := by
  rw [levelReading_eq setup active count]
  exact .levelEvent two _ _ _ _

/-- A FAULT reading leaves its tank's grants: no run, and nothing is admitted to a tank in FAULT (R116). -/
theorem levelReading_rail (serving : s.serving = true) (rail : (s.levelCh i).rail = true) :
    ((levelReading i s).tankOf i).grants = (s.tankOf i).grants := by
  have works : Works s (completeLevel i u s) := completeLevel_works (.refl s) i u
  have fault : measured ((completeLevel i u s).levelCh i).window = false := by
    rw [completeLevel_levelCh two, levelAfter_rail rail]
    rfl
  rw [levelReading_eq setup active count, rail]
  rcases levelEvent_grants (works.serving.trans serving) i (!true) (s.levelCh i).window ((completeLevel i u s).levelCh i).window with h | h
  · exact (h.grants i).trans (completeLevel_holds.grants i)
  · exact ((h.grants i).trans (scanQueue_unmeasured fault)).trans (completeLevel_holds.grants i)

/-- After a valid reading Laws 4 and 5 hold at its tank (R116): the run brings them, and the scan keeps them. -/
theorem levelReading_lawful (serving : s.serving = true) (rail : (s.levelCh i).rail = false)
    (bound : (s.tankOf i).grants.length ≤ 8) : (levelReading i s).lawful i := by
  have works : Works s (completeLevel i u s) := completeLevel_works (.refl s) i u
  have run : (revocationRun i (completeLevel i u s)).lawful i :=
    revocationRun_lawful two (by rw [completeLevel_holds.grants]; exact bound)
  rw [levelReading_eq setup active count, rail, Bool.not_false, levelEvent_serving (works.serving.trans serving), levelRun_valid]
  generalize revocationRun i (completeLevel i u s) = r at run ⊢
  split
  · exact (SameHolds.setLate r _).lawful (.setTkm r _) run
  · exact (SameHolds.scanAndFill i _ _ r).lawful ((Manages.fillLate _).trans (.fillEvent _ _ _ _)) (scanQueue_lawful two run)

end

/-- Settles O40: the channel is converted and its WINDOW record made, and the level event behind them touches claims, tanks and queue. -/
theorem levelReadingCompletes : Obligations.LevelReadingCompletes := by
  intro i rest s due two u setup active count
  have step : exec (.levelReadingComplete i) s = .next (levelReading i (s.setDue rest)) :=
    congrArg Host.Outcome.next (ownEvent_next due)
  refine ⟨_, step, ?_⟩
  have frame := levelReading_manages (s := s.setDue rest) setup active count two
  have port := levelReading_port (s := s.setDue rest) setup active count
  have rail := levelReading_rail (s := s.setDue rest) setup active count two
  have lawful := levelReading_lawful (s := s.setDue rest) setup active count two
  have same := completeLevel_same (i := i) (u := u) (s := s.setDue rest)
  have changed := completeLevel_changed (i := i) (u := u) (s := s.setDue rest)
  have channel := (frame.levelCh i).trans (completeLevel_levelCh two)
  rw [← frame.levelCh] at same changed
  obtain ⟨l, ring⟩ := completeLevel_ring i u (s.setDue rest)
  rw [ring] at frame
  refine ⟨frame.due, fun r => channel.trans (levelAfter_rail r), fun r => channel.trans (levelAfter_valid r),
    fun j n => (frame.levelCh j).trans (converted_levelCh_other n u (s.setDue rest)), congrArg (·.quality) frame.mch, frame.setup,
    frame.pls, frame.fsc, frame.ila, frame.trs, fun w => port.trans (same w two), fun w room => port.trans (changed w two room),
    rail, fun serving r bound => (lawful_iff _ i).mp (lawful serving r bound)⟩

end Sys2Proof.Machine
end

section

namespace Sys2Proof.Machine

/-! ## Close requests, actuator by actuator (R66, R69) -/

theorem actWith_congr {s t : State} (h : t.setup = s.setup) (r : Role) : t.actWith r = s.actWith r := by
  unfold State.actWith State.actSetup
  rw [h]

theorem commandOf_congr {s t : State} (h : t.setup = s.setup) (a : t.act = s.act) (r : Role) : t.commandOf r = s.commandOf r := by
  unfold State.commandOf State.actOf
  rw [actWith_congr h, a]

theorem travelOf_congr {s t : State} (h : t.setup = s.setup) (a : t.act = s.act) (r : Role) : t.travelOf r = s.travelOf r := by
  unfold State.travelOf State.actOf
  rw [actWith_congr h, a]

/-- The actuator of a role is set up with it. -/
theorem actWith_setup {s : State} {r : Role} {a : Nat} (h : s.actWith r = some a) : ∃ u, s.actSetup a = some u ∧ u.role = r := by
  have found := List.find?_some h
  cases e : s.actSetup a with
  | none => rw [e] at found; cases found
  | some u => exact ⟨u, rfl, actWith_role h e⟩

/-- Two roles are not borne by one actuator. -/
theorem actWith_ne {s : State} {r r' : Role} (n : r' ≠ r) {a b : Nat} (h : s.actWith r = some a) (k : s.actWith r' = some b) :
    a ≠ b := by
  rintro rfl
  obtain ⟨u, e, role⟩ := actWith_setup h
  exact n ((actWith_role k e).symm.trans role)

/-- The state of a close request once the command is safe, before a travel starts (R51, R66). -/
def State.madeSafe (s : State) (a : Nat) (u : ActuatorSetup) : State :=
  if (s.actOf a).command = .safe then s else stopQuality u (s.putAct a { s.actOf a with command := .safe })

theorem closeReq_eq {s : State} {a : Nat} {u : ActuatorSetup} (h : s.actSetup a = some u) : closeReq a s =
    if (s.actOf a).travel = .closed || (s.actOf a).travel = .closing then (s.madeSafe a u, [])
    else startTravel a u false (s.madeSafe a u) := by
  unfold closeReq
  rw [h]
  rfl

theorem closeRole_eq {s : State} {r : Role} {a : Nat} (h : s.actWith r = some a) : closeRole r s = closeReq a s := by
  unfold closeRole
  rw [h]

theorem closeRole_none {s : State} {r : Role} (h : s.actWith r = none) : closeRole r s = (s, []) := by
  unfold closeRole
  rw [h]

/-- The notices of a close request: at most one, the end of a travel that it starts (R67). -/
theorem closeRole_told (r : Role) (s : State) : (closeRole r s).2.length ≤ 1 ∧
    ∀ n ∈ (closeRole r s).2, n.role = r ∧ n.kind = .travelDone .closed ∧ s.travelOf r ≠ .closing := by
  cases h : s.actWith r with
  | none => rw [closeRole_none h]; exact ⟨Nat.zero_le 1, nofun⟩
  | some a =>
    obtain ⟨u, e, role⟩ := actWith_setup h
    rw [closeRole_eq h, closeReq_eq e]
    split
    · exact ⟨Nat.zero_le 1, nofun⟩
    · rename_i still
      have travel : s.travelOf r ≠ .closing := fun c => still (by
        unfold State.travelOf at c
        rw [h] at c
        simp [c])
      unfold startTravel
      dsimp only
      split
      · exact ⟨Nat.le_refl 1, fun n m => by cases List.mem_singleton.mp m; exact ⟨role, rfl, travel⟩⟩
      · exact ⟨Nat.zero_le 1, nofun⟩

/-- From `s` to `t` actuators changed, and the quality channel with its record and the train's quality timers. -/
def Closes (s t : State) : Prop :=
  t = { s with
    act := t.act
    mch := { s.mch with quality := t.mch.quality }
    port := { s.port with ring := t.port.ring }
    trs := { s.trs with marginal := t.trs.marginal, sensor := t.trs.sensor, good := t.trs.good } }

theorem Closes.refl (s : State) : Closes s s := rfl

theorem Closes.trans {s t u : State} (h : Closes s t) (k : Closes t u) : Closes s u := by
  unfold Closes at h k ⊢
  rw [k, h]

theorem Closes.putAct (s : State) (a : Nat) (x : Actuator) : Closes s (s.putAct a x) := rfl

theorem qualityOff_told {s : State} (h : s.mch.quality.window ≠ .initial) : qualityOff s =
    (report (.window 2 s.mch.quality.window .initial 0 .pumpOff none) (s.setMch { s.mch with quality := Channel.initial })).setTrs
      { s.trs with marginal := none, sensor := none, good := none } := by
  unfold qualityOff
  rw [if_neg h]
  exact congrArg (State.setTrs · { s.trs with marginal := none, sensor := none, good := none }) (if_neg h.symm)

theorem qualityOff_silent {s : State} (h : s.mch.quality.window = .initial) :
    qualityOff s = s.setMch { s.mch with quality := Channel.initial } := if_pos h

theorem Closes.qualityOff (s : State) : Closes s (qualityOff s) := by
  by_cases h : s.mch.quality.window = .initial
  · rw [qualityOff_silent h]
    rfl
  · rw [qualityOff_told h]
    obtain ⟨l, e⟩ := report_ring (.window 2 s.mch.quality.window .initial 0 .pumpOff none)
      (s.setMch { s.mch with quality := Channel.initial })
    rw [e]
    rfl

theorem qualityOff_act (s : State) : (Machine.qualityOff s).act = s.act := by
  by_cases h : s.mch.quality.window = .initial
  · rw [qualityOff_silent h]
    rfl
  · rw [qualityOff_told h]
    exact State.vacant.report_act _ _

theorem qualityOff_tells {s : State} (h : s.mch.quality.window ≠ .initial) :
    s.tells (qualityOff s) 0 (.window 2 s.mch.quality.window .initial 0 .pumpOff none) := by
  rw [qualityOff_told h]
  exact report_tells (s.setMch { s.mch with quality := Channel.initial }) _

theorem qualityOff_length (s : State) : (qualityOff s).port.ring.length ≤ s.port.ring.length + 1 := by
  by_cases h : s.mch.quality.window = .initial
  · rw [qualityOff_silent h]
    exact Nat.le_succ _
  · rw [qualityOff_told h]
    exact (report_length _ _).2

section

variable {s : State} {a : Nat} {u : ActuatorSetup}

theorem madeSafe_closes : Closes s (s.madeSafe a u) := by
  unfold State.madeSafe stopQuality
  split
  · exact .refl s
  · split
    · exact (Closes.putAct s a _).trans (.qualityOff _)
    · exact .putAct s a _

theorem madeSafe_act : (s.madeSafe a u).act = (s.putAct a { s.actOf a with command := .safe }).act ∨
    (s.actOf a).command = .safe ∧ (s.madeSafe a u).act = s.act := by
  unfold State.madeSafe stopQuality
  split
  · rename_i safe
    exact .inr ⟨safe, rfl⟩
  · split
    · exact .inl (qualityOff_act _)
    · exact .inl rfl

theorem madeSafe_length : (s.madeSafe a u).port.ring.length ≤ s.port.ring.length + 1 := by
  unfold State.madeSafe stopQuality
  split
  · exact Nat.le_succ _
  · split
    · exact qualityOff_length _
    · exact Nat.le_succ _

theorem madeSafe_command (h : (s.actSetup a).isSome = true) : ((s.madeSafe a u).actOf a).command = .safe := by
  rcases madeSafe_act (s := s) (a := a) (u := u) with e | ⟨safe, e⟩
  · rw [State.vacant.actOf_congr e, actOf_putAct_same h]
  · rw [State.vacant.actOf_congr e, safe]

theorem madeSafe_other {b : Nat} (h : a ≠ b) : (s.madeSafe a u).actOf b = s.actOf b := by
  rcases madeSafe_act (s := s) (a := a) (u := u) with e | ⟨-, e⟩
  · rw [State.vacant.actOf_congr e, actOf_putAct_other h]
  · rw [State.vacant.actOf_congr e]

end

/-- A close request: its actuator as made safe, with at most a travel started. -/
theorem closeReq_putAct {s : State} {a : Nat} {u : ActuatorSetup} (h : s.actSetup a = some u) : ∃ x,
    (closeReq a s).1 = (s.madeSafe a u).putAct a x ∧ x.command = .safe ∨ (closeReq a s).1 = s.madeSafe a u := by
  rw [closeReq_eq h]
  split
  · exact ⟨Actuator.initial, .inr rfl⟩
  · obtain ⟨x, e, c, -⟩ := startTravel_putAct a u false (s.madeSafe a u)
    exact ⟨x, .inl ⟨e, c.trans (madeSafe_command (by rw [h]; rfl))⟩⟩

theorem closeRole_closes (r : Role) (s : State) : Closes s (closeRole r s).1 := by
  cases h : s.actWith r with
  | none => rw [closeRole_none h]; exact .refl s
  | some a =>
    obtain ⟨u, e, -⟩ := actWith_setup h
    rw [closeRole_eq h]
    obtain ⟨x, ⟨k, -⟩ | k⟩ := closeReq_putAct e
    · rw [k]
      exact madeSafe_closes.trans (.putAct _ _ _)
    · rw [k]
      exact madeSafe_closes

theorem closeRole_length (r : Role) (s : State) : (closeRole r s).1.port.ring.length ≤ s.port.ring.length + 1 := by
  cases h : s.actWith r with
  | none => rw [closeRole_none h]; exact Nat.le_succ _
  | some a =>
    obtain ⟨u, e, -⟩ := actWith_setup h
    rw [closeRole_eq h]
    obtain ⟨x, ⟨k, -⟩ | k⟩ := closeReq_putAct e
    · rw [k]
      exact madeSafe_length
    · rw [k]
      exact madeSafe_length

/-- A close request leaves its role's actuator commanded safe (R66). -/
theorem closeRole_command (r : Role) (s : State) : (closeRole r s).1.commandOf r = .safe := by
  unfold State.commandOf
  rw [actWith_congr (closeRole_works (.refl s) r).setup]
  cases h : s.actWith r with
  | none => rfl
  | some a =>
    obtain ⟨u, e, -⟩ := actWith_setup h
    have set : (s.actSetup a).isSome = true := by rw [e]; rfl
    rw [closeRole_eq h]
    dsimp only
    obtain ⟨x, ⟨k, safe⟩ | k⟩ := closeReq_putAct e
    · rw [k, actOf_putAct_same (by rw [State.actSetup, madeSafe_closes]; exact set), safe]
    · rw [k, madeSafe_command set]

/-- A close request leaves the actuators of the other roles. -/
theorem closeRole_other {r r' : Role} (n : r' ≠ r) {s : State} {b : Nat} (k : s.actWith r' = some b) :
    (closeRole r s).1.actOf b = s.actOf b := by
  cases h : s.actWith r with
  | none => rw [closeRole_none h]
  | some a =>
    obtain ⟨u, e, -⟩ := actWith_setup h
    have apart := actWith_ne n h k
    rw [closeRole_eq h]
    obtain ⟨x, ⟨k, -⟩ | k⟩ := closeReq_putAct e
    · rw [k, actOf_putAct_other apart, madeSafe_other apart]
    · rw [k, madeSafe_other apart]

theorem closeRole_command_other {r r' : Role} (n : r' ≠ r) (s : State) : (closeRole r s).1.commandOf r' = s.commandOf r' := by
  unfold State.commandOf
  rw [actWith_congr (closeRole_works (.refl s) r).setup]
  cases k : s.actWith r' with
  | none => rfl
  | some b => exact congrArg Actuator.command (closeRole_other n k)

/-- The stop of a HIGHPRESS that was commanded on makes the WINDOW record PUMP-OFF of a quality channel in use (R51, R55). -/
theorem closeHighpress_tells {s : State} (on : s.highpressOn = true) (w : s.mch.quality.window ≠ .initial) :
    s.tells (closeRole .highpress s).1 0 (.window 2 s.mch.quality.window .initial 0 .pumpOff none) := by
  unfold State.highpressOn State.commandOf at on
  cases h : s.actWith .highpress with
  | none => rw [h] at on; cases on
  | some a =>
    rw [h] at on
    obtain ⟨u, e, role⟩ := actWith_setup h
    have told : s.tells (s.madeSafe a u) 0 (.window 2 s.mch.quality.window .initial 0 .pumpOff none) := by
      unfold State.madeSafe stopQuality
      rw [if_neg (by simpa using on), if_pos role]
      exact qualityOff_tells (s := s.putAct a { s.actOf a with command := .safe }) w
    rw [closeRole_eq h]
    obtain ⟨x, ⟨k, -⟩ | k⟩ := closeReq_putAct e
    · rw [k]
      exact told
    · rw [k]
      exact told

/-! ## The notices of DIVERT's close request -/

/-- A closing travel that has ended is not for a claim unless one in CLOSING waits for it (R67). -/
theorem cleNotice_unheard {n : Notice} (k : n.kind = .travelDone .closed) {s : State}
    (h : ∀ c ∈ s.cle.list, c.state = .closing → targetRole c.target ≠ n.role) : cleNotice n s = s := by
  unfold cleNotice
  split
  · rename_i c e
    have found := List.find?_some e
    simp only [Bool.and_eq_true, beq_iff_eq, Bool.or_eq_true] at found
    obtain ⟨target, flowing | closing⟩ := found
    · unfold claimNotice
      rw [k, flowing]
    · exact absurd target (h c (List.mem_of_find?_eq_some e) closing)
  · rfl

/-- A closing travel of DIVERT that has ended is for the claims alone. -/
theorem divertNotice_closed {n : Notice} (r : n.role = .divert) (k : n.kind = .travelDone .closed) (s : State) :
    divertNotice s n = cleNotice n s := by
  have train : ∀ s, trsNotice n s = s := fun s => by
    unfold trsNotice
    rw [r, k]
  unfold divertNotice
  rw [train, train, ite_self]

theorem targetRole_divert {x : Target} (h : targetRole x = .divert) : x = .product := by
  cases x with
  | product => rfl
  | _ => cases h

theorem divertNotices_closed {l : List Notice} (h : ∀ n ∈ l, n.role = .divert ∧ n.kind = .travelDone .closed) (s : State) :
    divertNotices l s = cleNotices l s := by
  unfold divertNotices cleNotices
  induction l generalizing s with
  | nil => rfl
  | cons n l ih =>
    obtain ⟨role, kind⟩ := h n List.mem_cons_self
    rw [List.foldl_cons, List.foldl_cons, divertNotice_closed role kind]
    exact ih (fun m k => h m (List.mem_cons_of_mem n k)) _

theorem closeDivert_eq (s : State) : closeDivert s = cleNotices (closeRole .divert s).2 (closeRole .divert s).1 := by
  obtain ⟨-, told⟩ := closeRole_told .divert s
  exact divertNotices_closed (fun n m => ⟨(told n m).1, (told n m).2.1⟩) _

/-! ## What requests, outcomes and ends of claims keep -/

/-- A relation between states that messages offered one after the other keep. -/
structure Sends (R : State → State → Prop) : Prop where
  refl : ∀ s, R s s
  trans : ∀ {s t u}, R s t → R t u → R s u
  offers : ∀ m s, R s (offer m s).1

/-- A relation between states that the parts of an outcome keep: train, claims, tanks, queue and ring changed, and close requests. -/
structure Carries (R : State → State → Prop) : Prop extends Sends R where
  train : ∀ s x, R s (s.setTrs x)
  claims : ∀ s x, R s (s.setCle x)
  tanks : ∀ s x, R s (s.setTkm x)
  reports : ∀ b s, R s (report b s)
  closes : ∀ r s, R s (closeRole r s).1

namespace Sends

variable {R : State → State → Prop} (k : Sends R)

include k

theorem fold {α : Type} {f : State → α → State} (hf : ∀ s a, R s (f s a)) (l : List α) (s : State) : R s (l.foldl f s) := by
  induction l generalizing s with
  | nil => exact k.refl s
  | cons a l ih => exact k.trans (hf s a) (ih _)

theorem freeSegs (q : Nat) (l : List SegId) (s : State) : R s (freeSegs q l s) := k.fold (fun s _ => k.offers _ s) l s

theorem finalMessages (c : Claim) (s : State) : R s (finalMessages c s) := by
  unfold Machine.finalMessages
  dsimp only
  repeat' split
  · exact k.freeSegs _ _ s
  · exact k.trans (k.freeSegs _ _ s) (k.freeSegs _ _ _)
  · exact k.freeSegs _ _ s
  · exact k.trans (k.offers _ s) (k.freeSegs _ _ _)
  · exact k.trans (k.offers _ s) (k.freeSegs _ _ _)

end Sends

namespace Carries

variable {R : State → State → Prop} (k : Carries R)

include k

theorem enterTrain (a : TrainState) (b : DivertCause) (c : FaultCause) (d : StopCause) (s : State) : R s (enterTrain a b c d s) :=
  k.trans (k.train s _) (k.reports _ _)

theorem tryStopped (s : State) : R s (tryStopped s) := by
  unfold Machine.tryStopped
  split
  · exact k.trans (k.train s _) (k.enterTrain _ _ _ _ _)
  · exact k.refl s

theorem createClaim (n : NewClaim) (s : State) : R s (createClaim n s).1 := by
  unfold Machine.createClaim
  split
  · exact k.refl s
  · exact k.trans (k.trans (k.claims s _) (k.offers _ _)) (k.claims _ _)

theorem askNext (fuel : Nat) (s : State) : R s (askNext fuel s) := by
  induction fuel generalizing s with
  | zero => exact k.refl s
  | succ fuel ih =>
    unfold Machine.askNext
    repeat' split
    · dsimp only
      split
      · exact k.trans (k.createClaim _ s) (k.train _ _)
      · split
        · exact k.trans (k.trans (k.createClaim _ s) (k.train _ _)) (k.train _ _)
        · exact k.trans (k.trans (k.trans (k.createClaim _ s) (k.train _ _)) (k.train _ _)) (ih _)
    · exact k.refl s
    · exact k.refl s

theorem askFlush (c : StopCause) (s : State) : R s (askFlush c s) := by
  unfold Machine.askFlush
  split
  · exact k.train s _
  · dsimp only
    split <;> exact k.trans (k.createClaim _ s) (k.train _ _)
  · exact k.train s _

theorem stopFirst (s : State) : R s (stopFirst s).1 := k.trans (k.closes .highpress s) (k.closes .divert _)

theorem stopLast (c : StopCause) (s : State) : R s (stopLast c s) :=
  k.trans (k.trans (k.trans (k.closes .feed s) (k.askFlush c _)) (k.train _ _)) (k.tryStopped _)

theorem stopRevoked (s : State) : R s (stopRevoked s) :=
  k.trans (k.trans (k.enterTrain _ _ _ _ s) (k.stopFirst _)) (k.stopLast _ _)

theorem failedDest (r : EndReason) (s : State) : R s (failedDest r s) := by
  unfold Machine.failedDest
  dsimp only
  repeat' split
  · exact k.train s _
  · exact k.trans (k.train s _) (k.train _ _)
  · exact k.trans (k.trans (k.train s _) (k.train _ _)) (k.askNext _ _)

theorem inflowEffect (r : EndReason) (s : State) : R s (inflowEffect r s) := by
  unfold Machine.inflowEffect
  split
  · exact k.refl s
  · exact k.trans (k.train s _) (k.askNext _ _)
  · split
    · exact k.trans (k.train s _) (k.askNext _ _)
    · exact k.train s _
  · exact k.failedDest _ s

theorem runningOutcome (r : EndReason) (s : State) : R s (runningOutcome r s) := by
  have told : R s (tellTrain .producing (Machine.inflowEffect r (changeTrain .diverting .noDestination .none .none s))) :=
    k.trans (k.trans (k.train s _) (k.inflowEffect r _)) (k.reports _ _)
  unfold Machine.runningOutcome
  dsimp only
  repeat' split
  · exact k.trans told (k.stopRevoked _)
  · exact k.trans (k.inflowEffect r s) (k.stopRevoked _)
  · exact told
  · exact k.inflowEffect r s

theorem inflowOutcome (r : EndReason) (s : State) : R s (inflowOutcome r s) := by
  unfold Machine.inflowOutcome
  dsimp only
  split
  · exact k.train s _
  · exact k.trans (k.train s _) (k.runningOutcome r _)
  · exact k.trans (k.train s _) (k.runningOutcome r _)
  · exact k.trans (k.train s _) (k.train _ _)

theorem flushOutcome (r : EndReason) (s : State) : R s (flushOutcome r s) := by
  unfold Machine.flushOutcome
  dsimp only
  split
  · exact k.trans (k.trans (k.train s _) (k.train _ _)) (k.tryStopped _)
  · exact k.train s _

theorem fillOutcome (t : Nat) (r : EndReason) (s : State) : R s (fillOutcome t r s) := by
  unfold Machine.fillOutcome
  dsimp only
  split <;> exact k.tanks s _

theorem handOutcome (c : Claim) (r : EndReason) (s : State) : R s (handOutcome c r s) := by
  unfold Machine.handOutcome trainOutcome
  split
  · exact k.refl s
  · exact k.fillOutcome _ r s
  · exact k.refl s
  · split
    · split
      · exact k.inflowOutcome r s
      · exact k.refl s
    · split
      · exact k.flushOutcome r s
      · exact k.refl s
    · exact k.refl s

theorem leaveList (c : Claim) (s : State) : R s (leaveList c s) :=
  k.trans (k.trans (k.trans (k.toSends.finalMessages c s) (k.reports _ _)) (k.claims _ _)) (k.handOutcome _ _ _)

theorem toClosing (c : Claim) (r : EndReason) (s : State) : R s (toClosing c r s) := by
  have valve : R s (closeValve c r s) := k.trans (k.claims s _) (k.closes _ _)
  rw [toClosing_eq]
  split
  · exact k.trans valve (k.leaveList _ _)
  · exact valve

theorem endSeq (r : EndReason) (q : Nat) (s : State) : R s (endSeq r s q) := by
  unfold Machine.endSeq endClaim
  repeat' split
  · exact k.toClosing _ r s
  · exact k.refl s
  · exact k.leaveList _ s
  · exact k.refl s

theorem stopInflow (s : State) : R s (stopInflow s) := by
  unfold Machine.stopInflow
  split
  · exact k.trans (k.train s _) (k.endSeq _ _ _)
  · exact k.refl s

/-- A closing travel that has ended. -/
theorem cleNotice {n : Notice} (h : n.kind = .travelDone .closed) (s : State) : R s (cleNotice n s) := by
  unfold Machine.cleNotice claimNotice
  rw [h]
  split
  · rename_i c _
    cases c.state
    case closing => exact k.leaveList _ s
    all_goals exact k.refl s
  · exact k.refl s

theorem cleNotices {l : List Notice} (h : ∀ n ∈ l, n.kind = .travelDone .closed) (s : State) : R s (cleNotices l s) := by
  unfold Machine.cleNotices
  induction l generalizing s with
  | nil => exact k.refl s
  | cons n l ih => exact k.trans (k.cleNotice (h n List.mem_cons_self) s) (ih (fun m hm => h m (List.mem_cons_of_mem n hm)) _)

end Carries

/-! ## Two relations that they keep -/

/-- The level channels stand. -/
theorem carries_levels : Carries fun s t => t.mch.level = s.mch.level where
  refl _ := rfl
  trans h k := k.trans h
  train _ _ := rfl
  claims _ _ := rfl
  tanks _ _ := rfl
  offers m s := by unfold offer; split <;> rfl
  reports b s := by obtain ⟨l, e⟩ := report_ring b s; rw [e]; rfl
  closes r s := by rw [closeRole_closes r s]

/-- From `s` to `t` no role's actuator was newly driven. -/
structure Undriven (s t : State) : Prop where
  setup : t.setup = s.setup
  command : ∀ r, s.commandOf r ≠ .drive → t.commandOf r ≠ .drive

theorem Undriven.of {s t : State} (h : t.setup = s.setup) (a : t.act = s.act) : Undriven s t :=
  ⟨h, fun r k => by rwa [commandOf_congr h a]⟩

theorem carries_undriven : Carries Undriven where
  refl _ := .of rfl rfl
  trans h k := ⟨k.setup.trans h.setup, fun r c => k.command r (h.command r c)⟩
  train _ _ := .of rfl rfl
  claims _ _ := .of rfl rfl
  tanks _ _ := .of rfl rfl
  offers m s := by unfold offer; split <;> exact .of rfl rfl
  reports b s := by obtain ⟨l, e⟩ := report_ring b s; rw [e]; exact .of rfl rfl
  closes r s := by
    refine ⟨(closeRole_works (.refl s) r).setup, fun r' k => ?_⟩
    by_cases n : r' = r
    · rw [n, closeRole_command]
      nofun
    · rwa [closeRole_command_other n]

end Sys2Proof.Machine
end

section

namespace Sys2Proof.Machine

/-! ## A completed quality reading (R52, R53) -/

/-- A mean without a rail sample has a quality value below 2000 (R52). -/
theorem qualityOf_le {r : Nat} (h : r ≤ 4094) : qualityOf r ≤ 1999 := by
  unfold qualityOf
  omega

/-- The state with its quality channel as the reading leaves it, before the WINDOW record. -/
def State.qualityRead (s : State) (u : QualitySetup) : State :=
  s.setMch { s.mch with quality := qualityAfter u s.mch.quality }

theorem qualityAfter_rail {u : QualitySetup} {c : Channel} (h : c.rail = true) : qualityAfter u c =
    { c with window := .fault, accumulator := 0, count := 0, rail := false } := if_pos h

theorem qualityAfter_valid {u : QualitySetup} {c : Channel} (h : c.rail = false) : qualityAfter u c = { c with
    accepted := qualityOf (c.accumulator / 2 ^ u.n)
    window := windowAfter c.window u.accept u.reject u.hysteresis (qualityOf (c.accumulator / 2 ^ u.n))
    accumulator := 0, count := 0, rail := false } := by
  unfold qualityAfter
  rw [h]
  rfl

/-- The window after a reading: FAULT at a rail sample, else that of the value (R52, R53). -/
theorem qualityAfter_window (u : QualitySetup) (c : Channel) : (qualityAfter u c).window =
    if c.rail then .fault else windowAfter c.window u.accept u.reject u.hysteresis (qualityOf (c.accumulator / 2 ^ u.n)) := by
  cases h : c.rail
  · rw [qualityAfter_valid h]; rfl
  · rw [qualityAfter_rail h]; rfl

/-- The value after a reading: a rail sample leaves the accepted one (R53). -/
theorem qualityAfter_accepted (u : QualitySetup) (c : Channel) : (qualityAfter u c).accepted =
    if c.rail then c.accepted else qualityOf (c.accumulator / 2 ^ u.n) := by
  cases h : c.rail
  · rw [qualityAfter_valid h]; rfl
  · rw [qualityAfter_rail h]; rfl

section

variable {u : QualitySetup} {s : State}

/-- No change of window makes no record (R55). -/
theorem completeQuality_same (h : (qualityAfter u s.mch.quality).window = s.mch.quality.window) :
    completeQuality u s = s.qualityRead u := if_pos h

/-- A change of window makes its WINDOW record (R55). -/
theorem completeQuality_changed (h : (qualityAfter u s.mch.quality).window ≠ s.mch.quality.window) : completeQuality u s =
    report (.window 2 s.mch.quality.window (qualityAfter u s.mch.quality).window (qualityAfter u s.mch.quality).accepted .reading none)
      (s.qualityRead u) := if_neg h

/-- Apart from the channel a completed reading touches the ring alone. -/
theorem completeQuality_ring (u : QualitySetup) (s : State) :
    ∃ l, completeQuality u s = (s.qualityRead u).setPort { s.port with ring := l } := by
  by_cases e : (qualityAfter u s.mch.quality).window = s.mch.quality.window
  · rw [completeQuality_same e]
    exact ⟨s.port.ring, rfl⟩
  · rw [completeQuality_changed e]
    exact report_ring _ _

theorem completeQuality_length (u : QualitySetup) (s : State) :
    s.port.ring.length ≤ (completeQuality u s).port.ring.length ∧
      (completeQuality u s).port.ring.length ≤ s.port.ring.length + 1 := by
  refine ⟨(completeQuality_works (.refl s) u).grows.length, ?_⟩
  by_cases e : (qualityAfter u s.mch.quality).window = s.mch.quality.window
  · rw [completeQuality_same e]
    exact Nat.le_succ _
  · rw [completeQuality_changed e]
    exact (report_length _ _).2

end

/-! ## The quality event of the train (R156) -/

/-- A quality event changes timers of the train alone. -/
theorem qualityTimers_eq (before after : WindowState) (x : Train) : ∃ m d e g, qualityTimers before after x =
    { x with marginal := m, sensor := d, settle := e, good := g } := by
  unfold qualityTimers
  dsimp only
  repeat' split
  all_goals exact ⟨_, _, _, _, rfl⟩

/-- The train's timers after a quality event. -/
def State.qualityTimed (s : State) (before after : WindowState) : State := s.mapTrs (qualityTimers before after)

theorem qualityTimed_watching (s : State) (before after : WindowState) : (s.qualityTimed before after).watching = s.watching := by
  obtain ⟨m, d, e, g, h⟩ := qualityTimers_eq before after s.trs
  unfold State.qualityTimed State.mapTrs
  rw [h]
  rfl

/-- The window in which a reading ends asks for an excursion: ABOVE or FAULT, newly entered (R156). -/
def excursionWindow (before after : WindowState) : Bool := enters .above before after || enters .fault before after

theorem excursionWindow_iff (before after : WindowState) : excursionWindow before after = true ↔
    after ≠ before ∧ (after = .above ∨ after = .fault) := by
  cases before <;> cases after <;> decide

theorem qualityEvent_eq (before after : WindowState) (s : State) : qualityEvent before after s =
    if s.watching && excursionWindow before after then excursion (s.qualityTimed before after) else s.qualityTimed before after := by
  rw [← qualityTimed_watching s before after]
  rfl

theorem qualityReading_eq {u : QualitySetup} {s : State} (setup : s.setup.quality = some u)
    (active : s.mch.quality.active = true) (count : s.mch.quality.count = 2 ^ u.n) : qualityReading s =
      qualityEvent s.mch.quality.window (qualityAfter u s.mch.quality).window (completeQuality u s) := by
  have window : (completeQuality u s).mch.quality.window = (qualityAfter u s.mch.quality).window := by
    obtain ⟨l, e⟩ := completeQuality_ring u s
    rw [e]
    rfl
  unfold qualityReading
  rw [setup]
  dsimp only
  rw [if_pos ((readingDone_iff active).mpr count), window]

/-! ## The divert of an excursion -/

/-- DIVERT's close request ends no claim while a product claim in CLOSING has its travel to wait for. -/
theorem closeDivert_closingStill {s : State} (h : s.closingStill) : closeDivert s = (closeRole .divert s).1 := by
  rw [closeDivert_eq]
  refine foldl_fixed fun n m => ?_
  obtain ⟨role, kind, travel⟩ := (closeRole_told .divert s).2 n m
  refine cleNotice_unheard kind fun c mem closing target => travel (h ⟨c, ?_, closing, targetRole_divert (target.trans role)⟩).2
  rwa [closeRole_cle] at mem

/-- Two states with the same claims, actuators and setup wait for the same closing travels. -/
theorem closingStill_congr {s t : State} (setup : t.setup = s.setup) (act : t.act = s.act) (cle : t.cle = s.cle)
    (h : s.closingStill) : t.closingStill := by
  unfold State.closingStill
  rw [cle, commandOf_congr setup act, travelOf_congr setup act]
  exact h

/-- In a watched state the tank that the product goes to is the same one diverted. -/
theorem toDiverting_destination {s : State} (h : s.watching = true) (c : DivertCause) :
    (changeTrain .diverting c .none .none s).destination = s.destination := by
  have on : (s.trs.state = .producing ∨ s.trs.state = .diverting) := by
    unfold State.watching watched at h
    simp only [Bool.or_eq_true, beq_iff_eq, Bool.and_eq_true] at h
    exact h.imp_right And.left
  have after : (changeTrain .diverting c .none .none s).trs.state = .diverting := rfl
  rw [destination_iff, destination_iff, after]
  simp only [on, or_true, true_and]
  rfl

/-- A watched train that diverts tells its TRAIN record (R145). -/
theorem toDiverting_tells {s : State} (h : s.watching = true) (c : DivertCause) :
    s.tellsTrain (toDiverting c s) 0 .diverting c .none .none s.destination := by
  rw [← toDiverting_destination h c]
  exact report_tells (changeTrain .diverting c .none .none s) _

/-- What an excursion does to a watched train (R156). -/
theorem excursion_diverts {s : State} (h : s.watching = true) (k : s.closingStill) :
    (excursion s).mch = s.mch ∧ (excursion s).trs.state = .diverting ∧ (excursion s).trs.divertCause = .quality ∧
      (excursion s).trs.diversion = 0 ∧ (excursion s).trs.good = none ∧ (excursion s).commandOf .divert ≠ .drive ∧
      s.tellsTrain (excursion s) 0 .diverting .quality .none .none s.destination := by
  have enter : ∃ l, toDiverting .quality s = (changeTrain .diverting .quality .none .none s).setPort { s.port with ring := l } :=
    report_ring _ _
  have told := toDiverting_tells h .quality
  obtain ⟨l, e⟩ := enter
  have still : (toDiverting .quality s).closingStill :=
    closingStill_congr (by rw [e]; rfl) (by rw [e]; rfl) (by rw [e]; rfl) k
  have same := closeDivert_closingStill still
  have serves := closeRole_serves (r := .divert) nofun (toDiverting .quality s)
  have safe := closeRole_command .divert (toDiverting .quality s)
  have tells := told.later (closeRole_works (.refl _) .divert)
  unfold excursion
  rw [same]
  generalize (closeRole .divert (toDiverting .quality s)).1 = t at serves safe tells
  have command : (t.mapTrs fun x => { x with diversion := 0, good := none }).commandOf .divert = t.commandOf .divert := rfl
  refine ⟨?_, ?_, ?_, rfl, rfl, by rw [command, safe]; nofun, tells⟩ <;> rw [serves, e] <;> rfl

/-- Before an excursion a reading touches the channel, the ring and timers of the train. -/
theorem qualityRead_timed (u : QualitySetup) (s : State) (before after : WindowState) : ∃ l m d e g,
    (completeQuality u s).qualityTimed before after = ((s.qualityRead u).setPort { s.port with ring := l }).setTrs
      { s.trs with marginal := m, sensor := d, settle := e, good := g } := by
  obtain ⟨l, ring⟩ := completeQuality_ring u s
  obtain ⟨m, d, e, g, timers⟩ := qualityTimers_eq before after s.trs
  refine ⟨l, m, d, e, g, ?_⟩
  rw [ring, ← timers]
  rfl

/-- DIVERT's close request with its notices leaves the level channels. -/
theorem closeDivert_levels (s : State) : (closeDivert s).mch.level = s.mch.level := by
  rw [closeDivert_eq]
  exact (carries_levels.cleNotices (closeRole_notices .divert s) _).trans (carries_levels.closes .divert s)

theorem excursion_levels (s : State) : (excursion s).mch.level = s.mch.level :=
  (closeDivert_levels _).trans (carries_levels.enterTrain _ _ _ _ s)

section

variable {u : QualitySetup} {s : State} (setup : s.setup.quality = some u) (active : s.mch.quality.active = true)
  (count : s.mch.quality.count = 2 ^ u.n)

include setup active count

/-- A completed reading without an excursion touches the channel, the ring and timers of the train. -/
theorem qualityReading_plain
    (h : s.watching = false ∨ excursionWindow s.mch.quality.window (qualityAfter u s.mch.quality).window = false) : ∃ l m d e g,
    qualityReading s = ((s.qualityRead u).setPort { s.port with ring := l }).setTrs
      { s.trs with marginal := m, sensor := d, settle := e, good := g } := by
  have watching : (completeQuality u s).watching = s.watching := by
    obtain ⟨l, e⟩ := completeQuality_ring u s
    rw [e]
    rfl
  rw [qualityReading_eq setup active count, qualityEvent_eq, watching, if_neg]
  · exact qualityRead_timed u s _ _
  · rcases h with h | h <;> simp [h]

/-- A completed reading with an excursion: the divert comes behind the channel's completion (R156). -/
theorem qualityReading_excursion (watching : s.watching = true)
    (h : excursionWindow s.mch.quality.window (qualityAfter u s.mch.quality).window = true) :
    qualityReading s = excursion ((completeQuality u s).qualityTimed s.mch.quality.window (qualityAfter u s.mch.quality).window) := by
  have same : (completeQuality u s).watching = s.watching := by
    obtain ⟨l, e⟩ := completeQuality_ring u s
    rw [e]
    rfl
  rw [qualityReading_eq setup active count, qualityEvent_eq, same, watching, h]
  rfl

theorem qualityReading_levels : (qualityReading s).mch.level = s.mch.level := by
  rw [qualityReading_eq setup active count, qualityEvent_eq]
  obtain ⟨l, m, d, e, g, timed⟩ := qualityRead_timed u s s.mch.quality.window (qualityAfter u s.mch.quality).window
  split
  · rw [excursion_levels, timed]
    rfl
  · rw [timed]
    rfl

/-- No change of window makes no record (R55). -/
theorem qualityReading_same (h : (qualityAfter u s.mch.quality).window = s.mch.quality.window) :
    (qualityReading s).port = s.port := by
  have no : excursionWindow s.mch.quality.window (qualityAfter u s.mch.quality).window = false := by
    rw [Bool.eq_false_iff, Ne, excursionWindow_iff]
    exact fun x => x.1 h
  have watching : (completeQuality u s).watching = s.watching := by rw [completeQuality_same h]; rfl
  rw [qualityReading_eq setup active count, qualityEvent_eq, no, Bool.and_false, completeQuality_same h]
  rfl

/-- A change of window makes its WINDOW record (R55). -/
theorem qualityReading_changed (h : (qualityAfter u s.mch.quality).window ≠ s.mch.quality.window) :
    s.tells (qualityReading s) 0 (.window 2 s.mch.quality.window (qualityAfter u s.mch.quality).window
      (qualityAfter u s.mch.quality).accepted .reading none) := by
  have told : s.tells (completeQuality u s) 0 (.window 2 s.mch.quality.window (qualityAfter u s.mch.quality).window
      (qualityAfter u s.mch.quality).accepted .reading none) := by
    rw [completeQuality_changed h]
    exact report_tells (s.qualityRead u) _
  rw [qualityReading_eq setup active count]
  exact told.later (qualityEvent_works (.refl _) _ _)

/-- An excursion behind a reading leaves its channel and diverts the train (R156). -/
theorem qualityReading_diverts (watching : s.watching = true) (still : s.closingStill)
    (h : excursionWindow s.mch.quality.window (qualityAfter u s.mch.quality).window = true) :
    ∀ t, t = qualityReading s → t.mch.quality = qualityAfter u s.mch.quality ∧ t.trs.state = .diverting ∧
      t.trs.divertCause = .quality ∧ t.trs.diversion = 0 ∧ t.trs.good = none ∧ t.commandOf .divert ≠ .drive ∧
      s.tellsTrain t 1 .diverting .quality .none .none s.destination := by
  rintro t rfl
  rw [qualityReading_excursion setup active count watching h]
  obtain ⟨least, most⟩ := completeQuality_length u s
  obtain ⟨l, m, d, e, g, timed⟩ := qualityRead_timed u s s.mch.quality.window (qualityAfter u s.mch.quality).window
  have ring : ((completeQuality u s).qualityTimed s.mch.quality.window (qualityAfter u s.mch.quality).window).port =
    (completeQuality u s).port := rfl
  rw [← ring, timed] at least most
  rw [timed]
  obtain ⟨mch, state, cause, diversion, good, command, tells⟩ := excursion_diverts
    (s := ((s.qualityRead u).setPort { s.port with ring := l }).setTrs
      { s.trs with marginal := m, sensor := d, settle := e, good := g }) watching still
  exact ⟨congrArg (·.quality) mch, state, cause, diversion, good, command, tells.earlier (n := 1) least most⟩

/-- The channel after a completed reading, without a watch or with no claim that ends behind an excursion. -/
theorem qualityReading_channel (h : s.watching = false ∨ s.closingStill) :
    (qualityReading s).mch.quality = qualityAfter u s.mch.quality := by
  by_cases plain : s.watching = false ∨ excursionWindow s.mch.quality.window (qualityAfter u s.mch.quality).window = false
  · obtain ⟨l, m, d, e, g, done⟩ := qualityReading_plain setup active count plain
    rw [done]
    rfl
  · obtain ⟨watching, x⟩ := not_or.mp plain
    exact (qualityReading_diverts setup active count (Bool.eq_true_of_not_eq_false watching) (h.resolve_left watching)
      (Bool.eq_true_of_not_eq_false x) _ rfl).1

end

/-- Settles O41: the channel is converted and its WINDOW record made, and an excursion diverts the train behind them. -/
theorem qualityReadingCompletes : Obligations.QualityReadingCompletes := by
  refine ⟨fun r _ most => ⟨rfl, qualityOf_le most⟩, fun rest s due u setup active count => ?_⟩
  have step : exec .qualityReadingComplete s = .next (qualityReading (s.setDue rest)) :=
    congrArg Host.Outcome.next (ownEvent_next due)
  have channel := qualityReading_channel (s := s.setDue rest) setup active count
  have plain := qualityReading_plain (s := s.setDue rest) setup active count
  have diverts := qualityReading_diverts (s := s.setDue rest) setup active count
  refine ⟨_, step, (qualityReading_works (.refl (s.setDue rest))).due, qualityReading_levels (s := s.setDue rest) setup active count,
    fun h => ⟨fun r => (channel h).trans (qualityAfter_rail r), fun r => (channel h).trans (qualityAfter_valid r)⟩, ?_, ?_, ?_⟩
  · rintro w v rfl rfl
    rw [← qualityAfter_window, ← qualityAfter_accepted]
    exact ⟨qualityReading_same (s := s.setDue rest) setup active count, qualityReading_changed (s := s.setDue rest) setup active count⟩
  · intro h
    obtain ⟨l, m, d, e, g, done⟩ := plain (.inl h)
    rw [done]
    exact ⟨rfl, rfl, rfl⟩
  · intro watching still enters
    refine (diverts watching still ?_ _ rfl).2
    refine (excursionWindow_iff _ _).mpr ?_
    change (qualityAfter u s.mch.quality).window ≠ s.mch.quality.window ∧
      ((qualityAfter u s.mch.quality).window = .above ∨ (qualityAfter u s.mch.quality).window = .fault)
    rw [qualityAfter_window]
    rcases enters with ⟨rail, new⟩ | ⟨rail, new, above⟩
    · rw [if_pos rail]
      exact ⟨new.symm, .inr rfl⟩
    · rw [if_neg (by simp [rail]), above]
      exact ⟨new.symm, .inl rfl⟩

end Sys2Proof.Machine
end

section

namespace Sys2Proof.Machine

/-! ## A claim that leaves its list (R82, R96) -/

theorem manages_sends : Sends Manages where
  refl := .refl
  trans := .trans
  offers := .offer

/-- The state in which the outcome of a claim is handed over: its final messages sent, its record made, and the claim gone. -/
def State.left (s : State) (c : Claim) : State :=
  (report (.claimEnd c (endedFrom c.state)) (finalMessages c s)).dropClaim c.sequence

theorem leaveList_eq (c : Claim) (s : State) : leaveList c s = handOutcome c c.endReason (s.left c) := rfl

theorem left_frame (s : State) (c : Claim) : ∃ l, Manages (s.setPort { s.port with ring := l }) (s.left c) ∧
    l.length ≤ s.port.ring.length + 1 := by
  have sent := manages_sends.finalMessages c s
  obtain ⟨l, e⟩ := report_ring (.claimEnd c (endedFrom c.state)) (finalMessages c s)
  have most := (report_length (.claimEnd c (endedFrom c.state)) (finalMessages c s)).2
  refine ⟨l, ?_, ?_⟩
  · unfold State.left
    rw [e, sent]
    rfl
  · rw [e, sent] at most
    exact most

/-! ## Outcomes at a train that is in no rated state (R149, R161) -/

/-- The outcome of a product claim at a train that is neither in PRODUCING nor in DIVERTING. -/
theorem handOutcome_product {c : Claim} (p : c.target = .product) (r : EndReason) {s : State} (h : rated s.trs.state = false) :
    ∃ i o, handOutcome c r s = s.setTrs { s.trs with inflow := i, ownStop := o } := by
  have same : ∃ i o, s = s.setTrs { s.trs with inflow := i, ownStop := o } := ⟨s.trs.inflow, s.trs.ownStop, rfl⟩
  unfold handOutcome
  rw [p]
  cases c.creator with
  | port => exact same
  | fill => exact same
  | train =>
    change ∃ i o, (if s.trs.inflow = some c.sequence then inflowOutcome r s else s) = _
    split
    · unfold inflowOutcome State.mapTrs
      change rated s.trs.state = false at h
      cases e : s.trs.state
      case producing => rw [e] at h; cases h
      case diverting => rw [e] at h; cases h
      all_goals
        dsimp only [State.setTrs]
        rw [e]
        exact ⟨_, _, rfl⟩
    · exact same

/-- What the claims' part of DIVERT's closing touches, its actuators as they were: claims, tanks, queue, at most one record, and of the
train the inflow and the own stop. -/
structure Hears (s t : State) : Prop where
  works : Works s t
  act : t.act = s.act
  train : ∃ i o, t.trs = { s.trs with inflow := i, ownStop := o }
  ring : t.port.ring.length ≤ s.port.ring.length + 1

theorem Hears.refl (s : State) : Hears s s := ⟨.refl s, rfl, ⟨_, _, rfl⟩, Nat.le_succ _⟩

theorem leaveList_hears {c : Claim} (p : c.target = .product) {s : State} (h : rated s.trs.state = false) : Hears s (leaveList c s) := by
  have works := leaveList_works (.refl s) c
  obtain ⟨l, left, most⟩ := left_frame s c
  have trs : (s.left c).trs = s.trs := left.trs
  obtain ⟨i, o, e⟩ := handOutcome_product p c.endReason (s := s.left c) (by rw [trs]; exact h)
  rw [leaveList_eq, e] at works ⊢
  refine ⟨works, ?_, ⟨i, o, ?_⟩, ?_⟩
  · change (s.left c).act = s.act
    rw [left]
    rfl
  · rw [← trs]
    rfl
  · change (s.left c).port.ring.length ≤ _
    rw [left]
    exact most

theorem cleNotice_hears {n : Notice} (r : n.role = .divert) (k : n.kind = .travelDone .closed) {s : State}
    (h : rated s.trs.state = false) : Hears s (cleNotice n s) := by
  unfold cleNotice
  split
  · rename_i c e
    have found := List.find?_some e
    simp only [Bool.and_eq_true, beq_iff_eq, r] at found
    have product := targetRole_divert found.1
    unfold claimNotice
    rw [k]
    cases c.state
    case closing => exact leaveList_hears product h
    all_goals exact .refl s
  · exact .refl s

/-- The notices of DIVERT's close request at a train in no rated state. -/
theorem cleNotices_hears {s : State} (h : rated s.trs.state = false) :
    Hears (closeRole .divert s).1 (cleNotices (closeRole .divert s).2 (closeRole .divert s).1) := by
  obtain ⟨few, told⟩ := closeRole_told .divert s
  have still : rated (closeRole .divert s).1.trs.state = false := by rwa [closeRole_trsState]
  generalize (closeRole .divert s).1 = t at still
  match e : (closeRole .divert s).2, few, told with
  | [], _, _ => exact .refl t
  | [n], _, told =>
    obtain ⟨role, kind, -⟩ := told n List.mem_cons_self
    exact cleNotice_hears role kind still

/-! ## A train on its way to STOPPED (R146, R161) -/

/-- The TRAIN record of a train that stops unflushed. -/
def stoppedUnflushed : ReportBody := .train .stopping .stopped .none .none .none ⟨0, 0⟩ true

/-- From `s` to `t` a stopping train stops on behind at most `n` records, or has gone to STOPPED unflushed; a stopped one stays so. -/
structure StopsOn (n : Nat) (s t : State) : Prop where
  works : Works s t
  stopping : s.trs.state = .stopping →
    (t.trs.state = .stopping ∧ t.trs.stopCause = s.trs.stopCause ∧ t.port.ring.length ≤ s.port.ring.length + n) ∨
      (t.trs.state = .stopped ∧ s.tells t n stoppedUnflushed)
  stopped : s.trs.state = .stopped → t.trs.state = .stopped

namespace StopsOn

variable {n m : Nat} {s t u : State}

/-- An operation that leaves the train's state and its stop cause. -/
theorem of (w : Works s t) (state : t.trs.state = s.trs.state) (cause : t.trs.stopCause = s.trs.stopCause)
    (ring : t.port.ring.length ≤ s.port.ring.length + n) : StopsOn n s t :=
  ⟨w, fun h => .inl ⟨state.trans h, cause, ring⟩, fun h => state.trans h⟩

theorem refl (s : State) : StopsOn n s s := .of (.refl s) rfl rfl (Nat.le_add_right _ _)

theorem trans (h : StopsOn n s t) (k : StopsOn m t u) : StopsOn (n + m) s u := by
  refine ⟨h.works.trans k.works, fun e => ?_, fun e => k.stopped (h.stopped e)⟩
  rcases h.stopping e with ⟨state, cause, ring⟩ | ⟨state, told⟩
  · rcases k.stopping state with ⟨state', cause', ring'⟩ | ⟨state', told⟩
    · exact .inl ⟨state', cause'.trans cause, by omega⟩
    · exact .inr ⟨state', told.earlier h.works.grows.length ring⟩
  · exact .inr ⟨k.stopped state, (told.later k.works).weaken (Nat.le_add_right n m)⟩

theorem train {x : Train} (state : x.state = s.trs.state) (cause : x.stopCause = s.trs.stopCause) : StopsOn 0 s (s.setTrs x) :=
  .of (Works.trs (.refl s) x) state cause (Nat.le_refl _)

theorem closeRole (r : Role) (s : State) : StopsOn 1 s (closeRole r s).1 := by
  refine .of (closeRole_works (.refl s) r) ?_ ?_ (closeRole_length r s) <;> rw [closeRole_closes r s]

/-- Only HIGHPRESS has a record to make on closing (R51). -/
theorem closeRole_silent {r : Role} (h : r ≠ .highpress) (s : State) : StopsOn 0 s (Machine.closeRole r s).1 := by
  have serves := closeRole_serves h s
  refine .of (closeRole_works (.refl s) r) ?_ ?_ ?_ <;> rw [serves]
  exact Nat.le_refl _

theorem hears (h : Hears s t) : StopsOn 1 s t := by
  obtain ⟨i, o, e⟩ := h.train
  refine .of h.works ?_ ?_ h.ring <;> rw [e]

theorem manages (w : Works s t) (h : Manages s t) : StopsOn n s t := by
  refine .of w ?_ ?_ ?_ <;> rw [h]
  exact Nat.le_add_right _ _

end StopsOn

/-- The TRAIN record of a change to a state in which no destination is published (R145). -/
theorem enterTrain_tells {a : TrainState} (h : rated a = false) (b : DivertCause) (c : FaultCause) (d : StopCause) (s : State) :
    s.tellsTrain (enterTrain a b c d s) 0 a b c d ⟨0, 0⟩ := by
  have nowhere : (changeTrain a b c d s).destination = ⟨0, 0⟩ := by
    rw [destination_iff, if_neg]
    rintro ⟨e | e, -⟩ <;> (change a = _ at e; rw [e] at h; cases h)
  unfold State.tellsTrain
  rw [← nowhere]
  exact report_tells (changeTrain a b c d s) _

theorem enterTrain_ring (a : TrainState) (b : DivertCause) (c : FaultCause) (d : StopCause) (s : State) :
    ∃ l, enterTrain a b c d s = (changeTrain a b c d s).setPort { s.port with ring := l } ∧ l.length ≤ s.port.ring.length + 1 := by
  have most := (report_length (.train s.trs.state (changeTrain a b c d s).trs.state (changeTrain a b c d s).trs.divertCause
    (changeTrain a b c d s).trs.faultCause (changeTrain a b c d s).trs.stopCause (changeTrain a b c d s).destination
    (changeTrain a b c d s).trs.unflushed) (changeTrain a b c d s)).2
  obtain ⟨l, e⟩ := report_ring (.train s.trs.state (changeTrain a b c d s).trs.state (changeTrain a b c d s).trs.divertCause
    (changeTrain a b c d s).trs.faultCause (changeTrain a b c d s).trs.stopCause (changeTrain a b c d s).destination
    (changeTrain a b c d s).trs.unflushed) (changeTrain a b c d s)
  rw [e] at most
  exact ⟨l, e, most⟩

/-! ### The end of a stop (R161) -/

/-- The train's fields of a stop that ends. -/
def Train.flushed (x : Train) : Train := { x with unflushed := x.flushResult == .failed, flushResult := .none }

theorem tryStopped_iff (s : State) : tryStopped s =
    if s.trs.state = .stopping ∧ (s.trs.flushResult = .done ∨ s.trs.flushResult = .failed) ∧ s.travelOf .feed = .closed ∧
      s.travelOf .highpress = .closed then enterTrain .stopped .none .none .none (s.setTrs s.trs.flushed) else s := by
  unfold tryStopped
  simp only [Bool.and_eq_true, Bool.or_eq_true, beq_iff_eq, decide_eq_true_eq, and_assoc]
  rfl

theorem tryStopped_stopsOn {s : State} (h : s.trs.flushResult ≠ .done) : StopsOn 0 s (tryStopped s) := by
  have works := tryStopped_works (.refl s)
  rw [tryStopped_iff] at works ⊢
  split
  · rename_i e
    rw [if_pos e] at works
    obtain ⟨state, failed, -⟩ := e
    replace failed := failed.resolve_left h
    have told := enterTrain_tells (a := .stopped) rfl .none .none .none (s.setTrs s.trs.flushed)
    have unflushed : (s.setTrs s.trs.flushed).trs.unflushed = true := by
      change (s.trs.flushResult == .failed) = true
      rw [failed]
      rfl
    have before : (s.setTrs s.trs.flushed).trs.state = .stopping := state
    refine ⟨works, fun _ => .inr ⟨enterTrain_trsState .., ?_⟩, fun k => absurd (state.symm.trans k) nofun⟩
    unfold State.tellsTrain at told
    rw [unflushed, before] at told
    exact told
  · exact .refl s

theorem rated_of_stopping {s : State} (h : s.trs.state = .stopping ∨ s.trs.state = .stopped) : rated s.trs.state = false := by
  rcases h with e | e <;> rw [e] <;> rfl

/-- The train once the outcome of its flush claim is known in STOPPING (R161). -/
def Train.flushEnded (x : Train) (r : EndReason) : Train :=
  { x with flush := none, flushResult := if r = .done then .done else .failed }

theorem flushOutcome_stopping {s : State} (h : s.trs.state = .stopping) (r : EndReason) :
    flushOutcome r s = tryStopped (s.setTrs (s.trs.flushEnded r)) := if_pos h

theorem flushOutcome_other {s : State} (h : s.trs.state ≠ .stopping) (r : EndReason) :
    flushOutcome r s = s.setTrs { s.trs with flush := none } := if_neg h

theorem flushOutcome_stopsOn {r : EndReason} (n : r ≠ .done) (s : State) : StopsOn 0 s (flushOutcome r s) := by
  by_cases h : s.trs.state = .stopping
  · rw [flushOutcome_stopping h]
    have failed : (s.setTrs (s.trs.flushEnded r)).trs.flushResult ≠ .done := by
      change (if r = .done then FlushResult.done else .failed) ≠ .done
      rw [if_neg n]
      nofun
    exact (StopsOn.train (x := s.trs.flushEnded r) rfl rfl).trans (tryStopped_stopsOn failed)
  · rw [flushOutcome_other h]
    exact .train rfl rfl

theorem fillOutcome_manages (i : Nat) (r : EndReason) (s : State) : Manages s (fillOutcome i r s) := by
  unfold fillOutcome
  dsimp only
  split <;> exact .setTkm s _

/-- An outcome other than DONE at a train that stops or is stopped. -/
theorem handOutcome_stopsOn (c : Claim) {r : EndReason} (n : r ≠ .done) {s : State}
    (h : s.trs.state = .stopping ∨ s.trs.state = .stopped) : StopsOn 0 s (handOutcome c r s) := by
  by_cases p : c.target = .product
  · obtain ⟨i, o, e⟩ := handOutcome_product p r (rated_of_stopping h)
    rw [e]
    exact .train rfl rfl
  · unfold handOutcome
    cases c.creator with
    | port => exact .refl s
    | fill =>
      cases c.target with
      | fillInlet t => exact .manages (fillOutcome_works (.refl s) t r) (fillOutcome_manages t r s)
      | _ => exact .refl s
    | train =>
      unfold trainOutcome
      cases e : c.target with
      | product => exact absurd e p
      | flush =>
        dsimp only
        split
        · exact flushOutcome_stopsOn n s
        · exact .refl s
      | _ => exact .refl s

theorem leaveList_stopsOn {c : Claim} (n : c.endReason ≠ .done) {s : State} (h : s.trs.state = .stopping ∨ s.trs.state = .stopped) :
    StopsOn 1 s (leaveList c s) := by
  obtain ⟨l, left, most⟩ := left_frame s c
  have trs : (s.left c).trs = s.trs := left.trs
  have works : Works s (s.left c) := dropClaim_works (report_works (finalMessages_works (.refl s) c) _) _
  have ring : (s.left c).port.ring.length ≤ s.port.ring.length + 1 := by
    rw [left]
    exact most
  rw [leaveList_eq]
  exact (StopsOn.of works (by rw [trs]) (by rw [trs]) ring).trans (handOutcome_stopsOn c n (by rwa [trs]))

theorem stopped_ne_done : EndReason.stopped ≠ .done := nofun

theorem targetRole_silent (x : Target) : targetRole x ≠ .highpress := by
  cases x <;> nofun

theorem StopsOn.keeps {n : Nat} {s t : State} (h : StopsOn n s t) (k : s.trs.state = .stopping ∨ s.trs.state = .stopped) :
    t.trs.state = .stopping ∨ t.trs.state = .stopped :=
  k.elim (fun e => (h.stopping e).imp And.left And.left) fun e => .inr (h.stopped e)

theorem toClosing_stopsOn (c : Claim) {s : State} (h : s.trs.state = .stopping ∨ s.trs.state = .stopped) :
    StopsOn 1 s (toClosing c .stopped s) := by
  have put : StopsOn 0 s (s.putClaim (c.closes .stopped)) := .of (putClaim_works (.refl s) _) rfl rfl (Nat.le_refl _)
  have valve : StopsOn 0 s (closeValve c .stopped s) := put.trans (.closeRole_silent (targetRole_silent c.target) _)
  rw [toClosing_eq]
  split
  · exact valve.trans (leaveList_stopsOn (by exact stopped_ne_done) (valve.keeps h))
  · exact valve.trans (m := 1) (.refl _)

theorem endSeq_stopsOn (q : Nat) {s : State} (h : s.trs.state = .stopping ∨ s.trs.state = .stopped) :
    StopsOn 1 s (endSeq .stopped s q) := by
  unfold endSeq endClaim
  repeat' split
  · exact toClosing_stopsOn _ h
  · exact .refl s
  · exact leaveList_stopsOn (by exact stopped_ne_done) h
  · exact .refl s

theorem stopInflow_stopsOn {s : State} (h : s.trs.state = .stopping ∨ s.trs.state = .stopped) : StopsOn 1 s (stopInflow s) := by
  unfold stopInflow
  split
  · exact (StopsOn.train (x := { s.trs with ownStop := true }) rfl rfl).trans (endSeq_stopsOn _ h)
  · exact .refl s

/-! ## The flush claim of a stop (R146, R160) -/

theorem askFlush_some {s : State} {u : TrainSetup} (h : s.setup.train = some u) {c : StopCause} (n : c ≠ .supply) :
    askFlush c s = match (createClaim (flushClaim s u) s).2 with
      | .ok q => (createClaim (flushClaim s u) s).1.setTrs
          { (createClaim (flushClaim s u) s).1.trs with flush := some q, flushResult := .pending }
      | .no _ => (createClaim (flushClaim s u) s).1.setTrs { (createClaim (flushClaim s u) s).1.trs with flushResult := .failed } := by
  unfold askFlush
  rw [h]
  cases c
  case supply => exact absurd rfl n
  all_goals rfl

/-- The flush claim of a stop changes nothing of the train but the flush claim and its result, which is not DONE. -/
theorem askFlush_frame (c : StopCause) (s : State) : ∃ q f, f ≠ .done ∧
    Manages (s.setTrs { s.trs with flush := q, flushResult := f }) (askFlush c s) := by
  have refused : ∃ q f, f ≠ FlushResult.done ∧ Manages (s.setTrs { s.trs with flush := q, flushResult := f })
      (s.setTrs { s.trs with flushResult := .failed }) := ⟨s.trs.flush, .failed, nofun, .refl _⟩
  by_cases n : c = .supply
  · rw [n, askFlush_supply]
    exact refused
  · cases h : s.setup.train with
    | none =>
      unfold askFlush
      rw [h]
      cases c
      all_goals exact refused
    | some u =>
      rw [askFlush_some h n]
      have made := Manages.createClaim (flushClaim s u) s
      rw [made.trs]
      cases (createClaim (flushClaim s u) s).2 with
      | ok q => exact ⟨some q, .pending, nofun, made.train _⟩
      | no r => exact ⟨s.trs.flush, .failed, nofun, made.train _⟩

/-- The state in which a stop looks whether the train is STOPPED at once. -/
def State.stopAsked (s : State) (c : StopCause) : State := (askFlush c (closeRole .feed s).1).mapTrs stillTimers

theorem stopLast_eq (c : StopCause) (s : State) : stopLast c s = tryStopped (s.stopAsked c) := rfl

theorem stopAsked_frame (c : StopCause) (s : State) : ∃ q f, f ≠ .done ∧
    Manages ((closeRole .feed s).1.setTrs (stillTimers { s.trs with flush := q, flushResult := f })) (s.stopAsked c) := by
  obtain ⟨q, f, n, made⟩ := askFlush_frame c (closeRole .feed s).1
  have closed : (closeRole .feed s).1.trs = s.trs := by rw [closeRole_serves (r := .feed) nofun s]
  have asked := made.train (stillTimers (askFlush c (closeRole .feed s).1).trs)
  rw [made.trs, closed] at asked
  unfold State.stopAsked State.mapTrs
  rw [made.trs, closed]
  exact ⟨q, f, n, asked⟩

theorem stopLast_stopsOn (c : StopCause) (s : State) : StopsOn 0 s (stopLast c s) := by
  obtain ⟨q, f, n, made⟩ := stopAsked_frame c s
  have port : (s.stopAsked c).port = s.port := made.port.trans (closeRole_serves (r := .feed) nofun s).port
  have works : Works s (s.stopAsked c) := mapTrs_works (askFlush_works (closeRole_works (.refl s) .feed) c) _
  have asked : StopsOn 0 s (s.stopAsked c) :=
    .of works (by rw [made.trs]; rfl) (by rw [made.trs]; rfl) (Nat.le_of_eq (by rw [port]; rfl))
  rw [stopLast_eq]
  refine asked.trans (tryStopped_stopsOn ?_)
  rw [made.trs]
  exact n

/-! ## A stop as a whole (R146) -/

theorem stopTrain_eq {s : State} (h : stoppable s.trs.state = true) (c : StopCause) : stopTrain c s =
    stopLast c (stopInflow (cleNotices (stopFirst (enterTrain .stopping .none .none c s)).2
      (stopFirst (enterTrain .stopping .none .none c s)).1)) := if_pos h

theorem stopTrain_other {s : State} (h : stoppable s.trs.state = false) (c : StopCause) : stopTrain c s = s :=
  if_neg (by simp [h])

theorem stopTrain_stopsOn {s : State} (h : stoppable s.trs.state = true) (c : StopCause) :
    StopsOn 3 (enterTrain .stopping .none .none c s) (stopTrain c s) := by
  rw [stopTrain_eq h]
  have state : (enterTrain .stopping .none .none c s).trs.state = .stopping := enterTrain_trsState ..
  generalize enterTrain .stopping .none .none c s = u at state
  have first : StopsOn 1 u (closeRole .highpress u).1 := .closeRole _ u
  have second : StopsOn 1 u (stopFirst u).1 := first.trans (.closeRole_silent (by decide) _)
  have heard : StopsOn 2 u (cleNotices (stopFirst u).2 (stopFirst u).1) := by
    refine second.trans (m := 1) (.hears (cleNotices_hears ?_))
    rw [closeRole_trsState, state]
    rfl
  have inflow := heard.trans (stopInflow_stopsOn (heard.keeps (.inl state)))
  exact inflow.trans (stopLast_stopsOn c _)

end Sys2Proof.Machine
end

section

namespace Sys2Proof.Machine

/-! ## The creation of a claim (R78 to R81) -/

/-- The sequence that a creation takes: the first one from the next on that no claim of the list bears (R81). -/
theorem freeSeq_spec {l : List Claim} {n : Nat} (h : n < 256) (fuel : Nat) : ∃ k, k ≤ fuel ∧ freeSeq l fuel n = (n + k) % 256 ∧
    (∀ j, j < k → ∃ c ∈ l, c.sequence = (n + j) % 256) ∧ (k < fuel → ∀ c ∈ l, c.sequence ≠ (n + k) % 256) := by
  induction fuel generalizing n with
  | zero => exact ⟨0, Nat.le_refl 0, (Nat.mod_eq_of_lt h).symm, nofun, nofun⟩
  | succ fuel ih =>
    unfold freeSeq
    split
    · rename_i used
      obtain ⟨c, mem, e⟩ := List.any_eq_true.mp used
      obtain ⟨k, le, value, below, free⟩ := ih (n := (n + 1) % 256) (Nat.mod_lt _ (by decide))
      have shift : ∀ j, ((n + 1) % 256 + j) % 256 = (n + (j + 1)) % 256 := by omega
      refine ⟨k + 1, by omega, by rw [value, shift], fun j lt => ?_, fun lt => by rw [← shift]; exact free (by omega)⟩
      cases j with
      | zero => exact ⟨c, mem, by simpa [Nat.mod_eq_of_lt h] using e⟩
      | succ j => rw [← shift]; exact below j (by omega)
    · rename_i unused
      refine ⟨0, Nat.zero_le _, (Nat.mod_eq_of_lt h).symm, nofun, fun _ c mem e => unused (List.any_eq_true.mpr ⟨c, mem, ?_⟩)⟩
      simpa [Nat.mod_eq_of_lt h] using e

/-- A list bears no more sequences in a row than it has claims. -/
theorem sequences_bound {l : List Claim} {n k : Nat} (small : k ≤ 256)
    (h : ∀ j, j < k → ∃ c ∈ l, c.sequence = (n + j) % 256) : k ≤ l.length := by
  have distinct : ((List.range k).map fun j => (n + j) % 256).Nodup := by
    refine (List.nodup_map_iff_inj_on List.nodup_range).mpr fun i hi j hj e => ?_
    rw [List.mem_range] at hi hj
    omega
  have borne : ((List.range k).map fun j => (n + j) % 256) ⊆ l.map (·.sequence) := by
    intro q mem
    obtain ⟨j, hj, rfl⟩ := List.mem_map.mp mem
    obtain ⟨c, mem, e⟩ := h j (List.mem_range.mp hj)
    exact e ▸ List.mem_map_of_mem mem
  simpa using (List.subperm_of_subset distinct borne).length_le

/-- The claim that a creation enters, in the words of the statements. -/
theorem freshClaim_eq (q : Nat) (n : NewClaim) (w : Nat) : ({ freshClaim q n with repeatTimer := w } : Claim) = {
    sequence := q, kind := n.kind, target := n.target, tank := n.tank, cls := n.cls, volume := n.volume
    path := n.path, held := 0, wait := n.wait, age := 0, repeatTimer := w, delivered := 0, remainder := 0, stall := 0
    state := if n.path = [] then .asking else .pathing
    reason := none, owner := none, creator := n.creator } := by
  unfold freshClaim
  cases n.path <;> rfl

/-- The first request of a claim: for the first segment of its path, or for its tank (R81, R85). -/
theorem freshClaim_request (q : Nat) (n : NewClaim) : (freshClaim q n).request =
    match n.path with
    | g :: _ => ⟨g.station, .holdReq q g.index n.cls⟩
    | [] => ⟨n.tank.station, .claim q n.kind n.tank.index n.cls n.volume⟩ := by
  unfold freshClaim Claim.request Claim.asked
  dsimp only
  cases n.path <;> rfl

/-- The state with a new claim in its list, before the claim's first request. -/
def State.claimEntered (s : State) (q : Nat) (n : NewClaim) : State :=
  s.setCle { list := s.cle.list ++ [freshClaim q n], nextSeq := (q + 1) % 256 }

/-- The repeat timer of a claim just entered is set in its own record alone (R87). -/
theorem putClaim_entered {s : State} {q : Nat} {n : NewClaim} (own : ∀ c ∈ s.cle.list, c.sequence ≠ q) (w : Nat) :
    (s.claimEntered q n).putClaim { freshClaim q n with repeatTimer := w } =
      s.setCle { list := s.cle.list ++ [{ freshClaim q n with repeatTimer := w }], nextSeq := (q + 1) % 256 } := by
  have others : (s.cle.list.map fun x => if x.sequence = q then { freshClaim q n with repeatTimer := w } else x) = s.cle.list :=
    (List.map_congr_left fun x mem => if_neg (own x mem)).trans (List.map_id _)
  have list : ((s.cle.list ++ [freshClaim q n]).map fun x => if x.sequence = q then { freshClaim q n with repeatTimer := w } else x) =
      s.cle.list ++ [{ freshClaim q n with repeatTimer := w }] := by
    rw [List.map_append, others, List.map_singleton, if_pos (show (freshClaim q n).sequence = q from rfl)]
  exact congrArg (fun l => s.setCle { list := l, nextSeq := (q + 1) % 256 }) list

theorem offerRequest_joins {s : State} (c : Claim) (v : s.serving = true) (r : s.bc.queue.length < 16) : offerRequest c s =
    (s.putClaim { c with repeatTimer := 5 }).setBc { s.bc with queue := s.bc.queue ++ [c.request] } := by
  unfold offerRequest
  rw [offer_joins _ v r]
  rfl

theorem offerRequest_refused {s : State} (c : Claim) (r : 16 ≤ s.bc.queue.length) :
    offerRequest c s = s.putClaim { c with repeatTimer := 1 } := by
  unfold offerRequest
  rw [offer_refused _ (.inr r)]
  rfl

theorem createClaim_ok {s : State} {n : NewClaim} (h : createRefusal s n = none) : createClaim n s =
    (offerRequest (freshClaim (freeSeq s.cle.list 9 s.cle.nextSeq) n) (s.claimEntered (freeSeq s.cle.list 9 s.cle.nextSeq) n),
      .ok (freeSeq s.cle.list 9 s.cle.nextSeq)) := by
  unfold createClaim
  rw [h]
  rfl

theorem createClaim_no {s : State} {n : NewClaim} {r : CreateReason} (h : createRefusal s n = some r) :
    createClaim n s = (s, .no r) := by
  unfold createClaim
  rw [h]

/-- A new claim is entered at the end of the list with a sequence of its own, and its first request goes to the queue (R81, R87). -/
theorem createClaim_makes {s : State} {n : NewClaim} (h : createRefusal s n = none) (next : s.cle.nextSeq < 256) :
    ∃ q, (createClaim n s).2 = .ok q ∧ s.makes (createClaim n s).1 n q := by
  obtain ⟨joined, room⟩ := createRefusal_none h
  obtain ⟨k, le, value, below, free⟩ := freeSeq_spec (l := s.cle.list) next 9
  have own := free (by have := sequences_bound (by omega) below; omega)
  rw [← value] at own
  rw [createClaim_ok h]
  generalize freeSeq s.cle.list 9 s.cle.nextSeq = q at value own
  have serving : (s.claimEntered q n).serving = true := by
    change (s.bc.busState == .joined || s.bc.busState == .holding) = true
    rw [joined]
    rfl
  refine ⟨q, rfl, ⟨k, value, below⟩, own, ?_⟩
  rcases Nat.lt_or_ge s.bc.queue.length 16 with place | full
  · rw [offerRequest_joins _ serving place, putClaim_entered own, freshClaim_request, if_pos place, ← freshClaim_eq]
    exact ⟨rfl, fun _ => rfl, fun f => absurd place (Nat.not_lt.mpr f)⟩
  · rw [offerRequest_refused (s := s.claimEntered q n) _ full, putClaim_entered own, if_neg (Nat.not_lt.mpr full), ← freshClaim_eq]
    exact ⟨rfl, fun place => absurd place (Nat.not_lt.mpr full), fun _ => rfl⟩

end Sys2Proof.Machine
end

section

namespace Sys2Proof.Machine

/-! ## Requests to the train, answered (Table 8-3) -/

/-- A request row whose request its state allows: the request's state, with its answer at the port. -/
theorem exec_request {c : Instr} {r : Request} (h : requestRow c = some r) {s : State} (k : s.ready)
    (a : allowedIn (classOf r) s.bc.busState = true) :
    exec c s = .next ((doRequest r s).1.answered (doRequest r s).2 (r == .restart) (takesReport r s)) := by
  rw [exec_requestRow h k, takeRequest_answered, answer_allowed a]

section

variable {s : State} (k : s.ready) (j : s.bc.busState = .joined)

include k j

theorem exec_trainStart (p : Bool) : exec (.trainStart p) s = .next ((askStart p s).1.answered (askStart p s).2 false false) :=
  exec_request (r := .trainStart p) rfl k (by rw [j]; rfl)

theorem exec_trainStop : exec .trainStop s = .next ((askTrainStop s).1.answered (askTrainStop s).2 false false) :=
  exec_request (r := .trainStop) rfl k (by rw [j]; rfl)

theorem exec_trainClear : exec .trainClear s = .next ((askClear s).1.answered (askClear s).2 false false) :=
  exec_request (r := .trainClear) rfl k (by rw [j]; rfl)

end

/-- PERMIT as the command samples it. -/
def State.permitRead (s : State) (p : Bool) : State := { s with pins := { s.pins with permit := p } }

section

variable {s : State}

theorem askStart_none (h : s.setup.train = none) (p : Bool) : askStart p s = (s.permitRead p, [3, 1]) :=
  if_pos (Option.isNone_iff_eq_none.mpr h)

theorem askTrainStop_none (h : s.setup.train = none) : askTrainStop s = (s, [3, 1]) :=
  if_pos (Option.isNone_iff_eq_none.mpr h)

theorem askClear_none (h : s.setup.train = none) : askClear s = (s, [3, 1]) :=
  if_pos (Option.isNone_iff_eq_none.mpr h)

variable (h : s.setup.train ≠ none)

include h

theorem askStart_busy (k : s.trs.state ≠ .stopped) (p : Bool) : askStart p s = (s.permitRead p, [1]) :=
  (if_neg (h ∘ Option.isNone_iff_eq_none.mp)).trans (if_pos k)

theorem askStart_stopped (k : s.trs.state = .stopped) (p : Bool) :
    askStart p s = if p then (startPriming (s.permitRead p), [0]) else (s.permitRead p, [3, 4]) :=
  (if_neg (h ∘ Option.isNone_iff_eq_none.mp)).trans (if_neg (not_not.mpr k))

theorem askTrainStop_some : askTrainStop s = (stopTrain .command s, [0]) := if_neg (h ∘ Option.isNone_iff_eq_none.mp)

theorem askClear_fault (k : s.trs.state = .fault) : askClear s = (clearTrain s, [0]) :=
  (if_neg (h ∘ Option.isNone_iff_eq_none.mp)).trans (if_pos k)

theorem askClear_other (k : s.trs.state ≠ .fault) : askClear s = (s, [3, 5]) :=
  (if_neg (h ∘ Option.isNone_iff_eq_none.mp)).trans (if_neg k)

end

/-! ## The train starts (R146) -/

/-- An open request leaves its actuator driven or held (R70). -/
theorem openRole_command {r : Role} {s : State} (h : (s.actWith r).isSome = true) : (openRole r s).1.commandOf r ≠ .safe := by
  have frame := openRole_works (.refl s) r
  unfold State.commandOf
  rw [actWith_congr frame.setup]
  cases e : s.actWith r with
  | none => rw [e] at h; cases h
  | some a =>
    obtain ⟨u, set, -⟩ := actWith_setup e
    have found : (s.actSetup a).isSome = true := by rw [set]; rfl
    unfold openRole openReq
    rw [e]
    dsimp only
    rw [set]
    dsimp only
    repeat' split
    · rename_i drive
      rw [drive]
      nofun
    · rw [actOf_putAct_same found]
      nofun
    · obtain ⟨x, e, command, -⟩ := startTravel_putAct a u true (s.putAct a { s.actOf a with command := .drive })
      rw [e, actOf_putAct_same (s := s.putAct a { s.actOf a with command := .drive }) found, command, actOf_putAct_same found]
      nofun
    · rw [actOf_putAct_same found]
      nofun

/-- The state of a start before DIVERT's close request: PRIMING from its beginning, and FEED asked to run. -/
def State.primed (s : State) : State :=
  (openRole .feed ((enterTrain .priming .none .none .none s).mapTrs
    fun t => { t with phase := 0, permit := 0, passCount := 0, destIndex := 0 })).1

theorem startPriming_eq (s : State) : startPriming s = closeDivert s.primed := rfl

theorem primed_trs (s : State) : s.primed.trs.state = .priming ∧ s.primed.trs.phase = 0 ∧ s.primed.trs.permit = 0 ∧
    s.primed.trs.passCount = 0 ∧ s.primed.trs.destIndex = 0 := by
  obtain ⟨l, e, -⟩ := enterTrain_ring .priming .none .none .none s
  unfold State.primed
  rw [openRole_serves, e]
  exact ⟨rfl, rfl, rfl, rfl, rfl⟩

theorem primed_tells (s : State) : s.tellsTrain s.primed 0 .priming .none .none .none ⟨0, 0⟩ :=
  (enterTrain_tells (a := .priming) rfl .none .none .none s).later (openRole_works (mapTrs_works (.refl _) _) _)

/-- DIVERT's close request with its notices, at a train in no rated state. -/
theorem closeDivert_hears {s : State} (h : rated s.trs.state = false) : Hears (closeRole .divert s).1 (closeDivert s) := by
  rw [closeDivert_eq]
  exact cleNotices_hears h

/-- A start enters PRIMING from its beginning, with DIVERT closed and FEED asked to run (R146). -/
theorem startPriming_starts (s : State) : (startPriming s).trs.state = .priming ∧ (startPriming s).trs.phase = 0 ∧
    (startPriming s).trs.permit = 0 ∧ (startPriming s).trs.passCount = 0 ∧ (startPriming s).trs.destIndex = 0 ∧
    (startPriming s).commandOf .divert ≠ .drive ∧ s.tellsTrain (startPriming s) 0 .priming .none .none .none ⟨0, 0⟩ ∧
    ((s.actWith .feed).isSome = true → (startPriming s).commandOf .feed ≠ .safe) := by
  obtain ⟨state, phase, permit, pass, dest⟩ := primed_trs s
  have told := primed_tells s
  have hears := closeDivert_hears (s := s.primed) (by rw [state]; rfl)
  have feed : (s.actWith .feed).isSome = true → s.primed.commandOf .feed ≠ .safe := fun h => by
    refine openRole_command ?_
    rwa [actWith_congr (mapTrs_works (enterTrain_works (.refl s) .priming .none .none .none) _).setup]
  rw [startPriming_eq]
  have commands := commandOf_congr hears.works.setup hears.act
  have train : (closeRole .divert s.primed).1.trs = s.primed.trs := by rw [closeRole_serves (r := .divert) nofun]
  obtain ⟨i, o, trs⟩ := hears.train
  rw [trs, train]
  refine ⟨state, phase, permit, pass, dest, ?_, told.later (closeDivert_works (.refl _)), fun h => ?_⟩
  · rw [commands, closeRole_command]
    nofun
  · rw [commands, closeRole_command_other (show Role.feed ≠ .divert from nofun)]
    exact feed h

/-! ## A fault is cleared -/

theorem clearTrain_ring (s : State) : ∃ l, clearTrain s =
    ((changeTrain .stopped .none .none .none s).mapTrs stillTimers).setPort { s.port with ring := l } := by
  obtain ⟨l, e, -⟩ := enterTrain_ring .stopped .none .none .none s
  refine ⟨l, ?_⟩
  unfold clearTrain
  rw [e]
  rfl

theorem clearTrain_tells (s : State) : s.tellsTrain (clearTrain s) 0 .stopped .none .none .none ⟨0, 0⟩ :=
  enterTrain_tells (a := .stopped) rfl .none .none .none s

end Sys2Proof.Machine
end

section

namespace Sys2Proof.Machine

/-! ## A stopped train drives nothing (R146) -/

theorem stopLast_feed (c : StopCause) (s : State) : (stopLast c s).commandOf .feed ≠ .drive := by
  have after : Undriven (closeRole .feed s).1 (stopLast c s) := by
    have k := carries_undriven
    exact k.trans (k.trans (k.askFlush c _) (k.train _ _)) (k.tryStopped _)
  refine after.command .feed ?_
  rw [closeRole_command]
  nofun

theorem stopTrain_idle {s : State} (h : stoppable s.trs.state = true) (c : StopCause) : (stopTrain c s).trainIdle := by
  have k := carries_undriven
  rw [stopTrain_eq h]
  generalize enterTrain .stopping .none .none c s = u
  have rest : Undriven (stopFirst u).1 (stopLast c (stopInflow (cleNotices (stopFirst u).2 (stopFirst u).1))) :=
    k.trans (k.trans (k.cleNotices (closeRole_notices .divert _) _) (k.stopInflow _)) (k.stopLast c _)
  refine ⟨stopLast_feed c _, rest.command .highpress ?_, rest.command .divert ?_⟩
  · refine (k.closes .divert (closeRole .highpress u).1).command .highpress ?_
    rw [closeRole_command]
    nofun
  · unfold stopFirst
    rw [closeRole_command]
    nofun

/-! ## The records of a stop (R51, R55, R145) -/

theorem stopTrain_tells {s : State} (h : stoppable s.trs.state = true) (c : StopCause) :
    s.tells (stopTrain c s) 0 (.train s.trs.state .stopping .none .none c ⟨0, 0⟩ s.trs.unflushed) :=
  State.tells.later (enterTrain_tells (a := .stopping) rfl .none .none c s) (stopTrain_stopsOn h c).works

/-- A stop leaves the train in STOPPING, or STOPPED behind at most four records (R161). -/
theorem stopTrain_stopOf {s : State} (h : stoppable s.trs.state = true) (c : StopCause) :
    s.stopOf (stopTrain c s) s.trs.state c 0 := by
  refine ⟨stopTrain_idle h c, stopTrain_tells h c, ?_⟩
  have stops := stopTrain_stopsOn h c
  obtain ⟨l, e, most⟩ := enterTrain_ring .stopping .none .none c s
  have least := (enterTrain_works (.refl s) .stopping .none .none c).grows.length
  have state : (enterTrain .stopping .none .none c s).trs.state = .stopping := enterTrain_trsState ..
  have cause : (enterTrain .stopping .none .none c s).trs.stopCause = c := by rw [e]; rfl
  have ring : (enterTrain .stopping .none .none c s).port.ring.length ≤ s.port.ring.length + 1 := by rw [e]; exact most
  rcases stops.stopping state with ⟨state', cause', -⟩ | ⟨state', told⟩
  · exact .inl ⟨state', cause'.trans cause⟩
  · exact .inr ⟨state', told.earlier (n := 1) least ring⟩

/-- The stop of a running HIGHPRESS tells PUMP-OFF behind the TRAIN record (R51, R55). -/
theorem stopTrain_pumpOff {s : State} (h : stoppable s.trs.state = true) (c : StopCause) (on : s.highpressOn = true)
    (w : s.mch.quality.window ≠ .initial) :
    s.tells (stopTrain c s) 1 (.window 2 s.mch.quality.window .initial 0 .pumpOff none) := by
  obtain ⟨l, e, most⟩ := enterTrain_ring .stopping .none .none c s
  have least := (enterTrain_works (.refl s) .stopping .none .none c).grows.length
  rw [stopTrain_eq h]
  have told : (enterTrain .stopping .none .none c s).tells (closeRole .highpress (enterTrain .stopping .none .none c s)).1 0
      (.window 2 s.mch.quality.window .initial 0 .pumpOff none) := by
    rw [e]
    exact closeHighpress_tells (s := (changeTrain .stopping .none .none c s).setPort { s.port with ring := l }) on w
  have ring : (enterTrain .stopping .none .none c s).port.ring.length ≤ s.port.ring.length + 1 := by rw [e]; exact most
  have all := (told.earlier least ring).later (closeRole_works (.refl _) .divert)
  exact all.later (stopLast_works (stopInflow_works (cleNotices_works (.refl _) _)) c)

/-! ## The flush claim of a stop (R160) -/

/-- From `s` to `t` nothing changed that the creation of a claim looks at. -/
def Idles (s t : State) : Prop := t = { s with act := t.act, mch := t.mch, port := t.port, trs := t.trs }

namespace Idles

variable {s t u : State}

theorem trans (h : Idles s t) (k : Idles t u) : Idles s u := by
  unfold Idles at h k ⊢
  rw [k, h]

theorem enterTrain (a : TrainState) (b : DivertCause) (c : FaultCause) (d : StopCause) (s : State) : Idles s (enterTrain a b c d s) := by
  obtain ⟨l, e, -⟩ := enterTrain_ring a b c d s
  rw [e]
  rfl

theorem closeRole (r : Role) (s : State) : Idles s (closeRole r s).1 := by
  have closes := closeRole_closes r s
  unfold Closes at closes
  unfold Idles
  rw [closes]

theorem cle (h : Idles s t) : t.cle = s.cle := by rw [h]
theorem bc (h : Idles s t) : t.bc = s.bc := by rw [h]
theorem setup (h : Idles s t) : t.setup = s.setup := by rw [h]

theorem createRefusal (h : Idles s t) (n : NewClaim) : createRefusal t n = createRefusal s n := by
  rw [h]
  rfl

theorem makes {v : State} {n : NewClaim} {q : Nat} (h : Idles s t) (k : t.makes v n q) : s.makes v n q := by
  unfold State.makes at k ⊢
  rwa [h.cle, h.bc] at k

end Idles

/-- The state in which a stop asks for its flush claim, where no claim of the product line waits. -/
def State.unflowing (s : State) (c : StopCause) : State :=
  (closeRole .feed (stopFirst (enterTrain .stopping .none .none c s)).1).1

theorem unflowing_idles (s : State) (c : StopCause) : Idles s (s.unflowing c) :=
  (((Idles.enterTrain _ _ _ _ s).trans (.closeRole _ _)).trans (.closeRole _ _)).trans (.closeRole _ _)

theorem unflowing_state (s : State) (c : StopCause) : (s.unflowing c).trs.state = .stopping := by
  unfold State.unflowing stopFirst
  rw [closeRole_trsState, closeRole_trsState, closeRole_trsState, enterTrain_trsState]

/-- With no inflow claim and no claim in CLOSING a stop ends no claim. -/
theorem stopTrain_unflowing {s : State} (h : stoppable s.trs.state = true) (inflow : s.trs.inflow = none)
    (quiet : ∀ c ∈ s.cle.list, c.state ≠ .closing) (c : StopCause) :
    stopTrain c s = tryStopped ((askFlush c (s.unflowing c)).mapTrs stillTimers) := by
  have unheard : cleNotices (stopFirst (enterTrain .stopping .none .none c s)).2 (stopFirst (enterTrain .stopping .none .none c s)).1 =
      (stopFirst (enterTrain .stopping .none .none c s)).1 := by
    refine foldl_fixed fun n mem => cleNotice_unheard (closeRole_notices .divert _ n mem) fun x mem closing _ => ?_
    have cle : (stopFirst (enterTrain .stopping .none .none c s)).1.cle = s.cle := by
      unfold stopFirst
      rw [closeRole_cle, closeRole_cle, enterTrain_cle]
    rw [cle] at mem
    exact quiet x mem closing
  have without : (stopFirst (enterTrain .stopping .none .none c s)).1.trs.inflow = none := by
    obtain ⟨l, e, -⟩ := enterTrain_ring .stopping .none .none c s
    unfold stopFirst
    rw [closeRole_closes, closeRole_closes, e]
    exact inflow
  have stands : ∀ u : State, u.trs.inflow = none → stopInflow u = u := fun u e => by
    unfold stopInflow
    rw [e]
  rw [stopTrain_eq h, unheard, stands _ without]
  rfl

/-- The flush claim of a train in the words of the statements. -/
theorem flushClaim_station {s : State} {x : StationItem} (h : s.setup.station = some x) (u : TrainSetup) : flushClaim s u =
    ⟨.draw, .flush, u.flushTank, 4, u.flushVolume, x.wait, u.flushPath, .train⟩ := by
  unfold flushClaim State.defaultWait
  rw [h]
  rfl

theorem Idles.flushClaim {s t : State} (h : Idles s t) (u : TrainSetup) : flushClaim t u = flushClaim s u := by
  rw [h]
  rfl

section

variable {s : State} {u : TrainSetup} (train : s.setup.train = some u) (h : stoppable s.trs.state = true)
  (inflow : s.trs.inflow = none) (quiet : ∀ c ∈ s.cle.list, c.state ≠ .closing)

include train h inflow quiet

/-- A flush claim that can be created makes the flush PENDING, and the train waits for it in STOPPING. -/
theorem stopTrain_flushes
    (fits : createRefusal s (flushClaim s u) = none)
    (next : s.cle.nextSeq < 256) : (stopTrain .command s).trs.state = .stopping ∧ (stopTrain .command s).trs.flushResult = .pending ∧
      ∃ q, s.makes (stopTrain .command s) (flushClaim s u) q ∧
        (stopTrain .command s).trs.flush = some q := by
  have idles := unflowing_idles s .command
  have state := unflowing_state s .command
  rw [stopTrain_unflowing h inflow quiet, askFlush_some (by rw [idles.setup, train]) (by decide), idles.flushClaim]
  generalize s.unflowing .command = v at idles state
  have frame := Manages.createClaim (flushClaim s u) v
  obtain ⟨q, ok, makes⟩ := createClaim_makes ((idles.createRefusal _).trans fits) (by rw [idles.cle]; exact next)
  rw [ok]
  dsimp only
  generalize (createClaim (flushClaim s u) v).1 = t at frame makes
  have waits : tryStopped ((t.setTrs { t.trs with flush := some q, flushResult := .pending }).mapTrs stillTimers) =
      (t.setTrs { t.trs with flush := some q, flushResult := .pending }).mapTrs stillTimers := by
    rw [tryStopped_iff, if_neg]
    rintro ⟨-, result | result, -⟩ <;> cases result
  rw [waits]
  exact ⟨(congrArg Train.state frame.trs).trans state, rfl, q, idles.makes makes, rfl⟩

/-- A flush claim that is refused makes the flush FAILED: the train stops unflushed, at once where both pumps are closed. -/
theorem stopTrain_unflushed
    (refused : createRefusal s (flushClaim s u) ≠ none) :
    (stopTrain .command s).cle = s.cle ∧
      (((stopTrain .command s).trs.state = .stopping ∧ (stopTrain .command s).trs.flushResult = .failed) ∨
        ((stopTrain .command s).trs.state = .stopped ∧ (stopTrain .command s).trs.unflushed = true ∧
          (stopTrain .command s).trs.flushResult = .none)) := by
  have idles := unflowing_idles s .command
  have state := unflowing_state s .command
  rw [stopTrain_unflowing h inflow quiet, askFlush_some (by rw [idles.setup, train]) (by decide), idles.flushClaim]
  generalize s.unflowing .command = v at idles state
  obtain ⟨r, why⟩ := Option.ne_none_iff_exists'.mp refused
  rw [createClaim_no ((idles.createRefusal _).trans why)]
  dsimp only
  refine ⟨(tryStopped_cle _).trans idles.cle, ?_⟩
  rw [tryStopped_iff]
  split
  · obtain ⟨l, e, -⟩ := enterTrain_ring .stopped .none .none .none
      (((v.setTrs { v.trs with flushResult := .failed }).mapTrs stillTimers).setTrs
        ((v.setTrs { v.trs with flushResult := .failed }).mapTrs stillTimers).trs.flushed)
    rw [e]
    exact .inr ⟨rfl, rfl, rfl⟩
  · exact .inl ⟨state, rfl⟩

end

end Sys2Proof.Machine
end

section

namespace Sys2Proof.Machine

/-! ## The outcome of the flush claim (R161) -/

theorem trainOutcome_flush {q : Nat} {s : State} (h : s.trs.flush = some q) (r : EndReason) :
    trainOutcome q .flush r s = flushOutcome r s := if_pos h

theorem trainOutcome_unasked {q : Nat} {s : State} (h : s.trs.flush ≠ some q) (r : EndReason) : trainOutcome q .flush r s = s :=
  if_neg h

section

variable {s : State} (h : s.trs.state = .stopping) (r : EndReason)

include h

/-- With a pump still closing the outcome sets the flush result, and the train waits (R161). -/
theorem flushOutcome_waits (runs : s.travelOf .feed ≠ .closed ∨ s.travelOf .highpress ≠ .closed) :
    flushOutcome r s = s.setTrs (s.trs.flushEnded r) := by
  rw [flushOutcome_stopping h, tryStopped_iff, if_neg]
  rintro ⟨-, -, feed, highpress⟩
  exact runs.elim (absurd feed) (absurd highpress)

variable (feed : s.travelOf .feed = .closed) (highpress : s.travelOf .highpress = .closed)

include feed highpress

/-- With both pumps closed the outcome takes the train to STOPPED (R161). -/
theorem flushOutcome_stops :
    flushOutcome r s = enterTrain .stopped .none .none .none (s.setTrs (s.trs.flushEnded r).flushed) := by
  have known : (s.trs.flushEnded r).flushResult = .done ∨ (s.trs.flushEnded r).flushResult = .failed := by
    change (if r = .done then FlushResult.done else .failed) = _ ∨ (if r = .done then FlushResult.done else .failed) = _
    split
    · exact .inl rfl
    · exact .inr rfl
  rw [flushOutcome_stopping h, tryStopped_iff, if_pos ⟨h, known, feed, highpress⟩]
  rfl

omit h feed highpress in
/-- The unflushed mark after the outcome: set unless the claim was DONE (R161). -/
theorem flushEnded_unflushed : (s.trs.flushEnded r).flushed.unflushed = decide (r ≠ .done) := by
  change ((if r = .done then FlushResult.done else .failed) == .failed) = _
  by_cases done : r = .done
  · rw [if_pos done, done]
    rfl
  · rw [if_neg done, decide_eq_true done]
    rfl

theorem flushOutcome_ring : ∃ l, flushOutcome r s =
    (changeTrain .stopped .none .none .none (s.setTrs (s.trs.flushEnded r).flushed)).setPort { s.port with ring := l } := by
  obtain ⟨l, e, -⟩ := enterTrain_ring .stopped .none .none .none (s.setTrs (s.trs.flushEnded r).flushed)
  rw [flushOutcome_stops h r feed highpress, e]
  exact ⟨l, rfl⟩

theorem flushOutcome_tells :
    s.tells (flushOutcome r s) 0 (.train .stopping .stopped .none .none .none ⟨0, 0⟩ (decide (r ≠ .done))) := by
  have told := enterTrain_tells (a := .stopped) rfl .none .none .none (s.setTrs (s.trs.flushEnded r).flushed)
  have before : (s.setTrs (s.trs.flushEnded r).flushed).trs.state = .stopping := h
  have mark : (s.setTrs (s.trs.flushEnded r).flushed).trs.unflushed = decide (r ≠ .done) := flushEnded_unflushed r
  rw [flushOutcome_stops h r feed highpress]
  unfold State.tellsTrain at told
  rw [before, mark] at told
  exact told

end

/-- Settles O50: the requests answered one by one, a stop as the chain of its close requests, ends of claims and flush claim, and the
outcome of the flush claim. -/
theorem trainRequests : Obligations.TrainRequests := by
  refine ⟨fun s ready joined => ⟨fun unset => ?_, fun set => ⟨fun stopped => ?_, fun stopped => ?_, fun p busy => ?_, fun stops => ?_,
    fun stands => ?_, fun fault => ?_, fun other => ?_, fun u train x station stops inflow quiet => ?_⟩⟩,
    fun q r s => ⟨fun h => ?_, fun h => ⟨fun other => ?_, fun stopping => ⟨fun waits => ?_, ?_⟩⟩⟩⟩
  · refine ⟨fun p => ?_, ?_, ?_⟩
    · rw [exec_trainStart ready joined, askStart_none unset]
      rfl
    · rw [exec_trainStop ready joined, askTrainStop_none unset]
    · rw [exec_trainClear ready joined, askClear_none unset]
  · refine ⟨_, exec_trainStart ready joined true, ?_⟩
    rw [askStart_stopped set stopped]
    exact ⟨rfl, startPriming_starts (s.permitRead true)⟩
  · rw [exec_trainStart ready joined, askStart_stopped set stopped]
    rfl
  · rw [exec_trainStart ready joined, askStart_busy set busy]
    rfl
  · refine ⟨_, exec_trainStop ready joined, ?_⟩
    rw [askTrainStop_some set]
    exact ⟨rfl, stopTrain_stopOf stops .command, stopTrain_pumpOff stops .command⟩
  · rw [exec_trainStop ready joined, askTrainStop_some set, stopTrain_other stands]
  · refine ⟨_, exec_trainClear ready joined, ?_⟩
    rw [askClear_fault set fault]
    have told := clearTrain_tells s
    obtain ⟨l, e⟩ := clearTrain_ring s
    rw [e] at told ⊢
    exact ⟨rfl, rfl, rfl, rfl, rfl, rfl, rfl, rfl, rfl, rfl, rfl, rfl, rfl, told⟩
  · rw [exec_trainClear ready joined, askClear_other set other]
  · rw [← flushClaim_station station]
    have stop := exec_trainStop ready joined
    rw [askTrainStop_some set] at stop
    exact ⟨fun fits next => ⟨_, stop, stopTrain_flushes train stops inflow quiet fits next⟩,
      fun refused => ⟨_, stop, stopTrain_unflushed train stops inflow quiet refused⟩⟩
  · exact trainOutcome_unasked h r
  · rw [trainOutcome_flush h, flushOutcome_other other]
    rfl
  · rw [trainOutcome_flush h, flushOutcome_waits stopping r waits]
    rfl
  · rintro feed highpress t rfl
    rw [trainOutcome_flush h]
    have told := flushOutcome_tells stopping r feed highpress
    have mark := flushEnded_unflushed (s := s) r
    obtain ⟨l, e⟩ := flushOutcome_ring stopping r feed highpress
    rw [e] at told ⊢
    refine ⟨rfl, rfl, rfl, rfl, ?_, rfl, told⟩
    change (s.trs.flushEnded r).flushed.unflushed = true ↔ _
    rw [mark, decide_eq_true_iff]

end Sys2Proof.Machine
end

section

namespace Sys2Proof.Machine

/-! ## The entry to FAULT in its parts (R163) -/

/-- The train in FAULT with its record made, before the entry closes anything. -/
def State.faultEntered (s : State) (c : FaultCause) : State :=
  (enterTrain .fault .none c .none s).mapTrs fun t => { stillTimers t with flushResult := .none, ownStop := true }

/-- The entry to FAULT with both pumps requested off. -/
def State.pumpsOff (s : State) (c : FaultCause) : State := (closeRole .feed (closeRole .highpress (s.faultEntered c)).1).1

theorem faultTrain_fault {s : State} (h : s.trs.state = .fault) (c : FaultCause) : faultTrain c s = s := if_pos h

theorem faultTrain_eq {s : State} (h : s.trs.state ≠ .fault) (c : FaultCause) : faultTrain c s =
    stopFlush (stopInflow (cleNotices (closeRole .divert (s.pumpsOff c)).2 (closeRole .divert (s.pumpsOff c)).1)) := if_neg h

/-! ## What notices keep (Table 4-4) -/

/-- A relation between states that everything a notice starts keeps: the parts of an outcome, and segments changed. -/
structure Reacts (R : State → State → Prop) : Prop extends Carries R where
  segments : ∀ s x, R s (s.setSga x)

namespace Reacts

variable {R : State → State → Prop} (k : Reacts R)

include k

theorem cleNotice (n : Notice) (s : State) : R s (cleNotice n s) := by
  unfold Machine.cleNotice
  split
  · unfold claimNotice
    split
    · exact k.toClosing _ _ s
    · exact k.toClosing _ _ s
    · exact k.toClosing _ _ s
    · exact k.claims s _
    · exact k.leaveList _ s
    · exact k.leaveList _ s
    · exact k.refl s
  · exact k.refl s

theorem stopFlush (s : State) : R s (stopFlush s) := by
  unfold Machine.stopFlush
  split
  · exact k.endSeq _ _ s
  · exact k.refl s

theorem cleNotices (l : List Notice) (s : State) : R s (cleNotices l s) := k.fold (fun s n => k.cleNotice n s) l s

theorem faultTrain (c : FaultCause) (s : State) : R s (faultTrain c s) := by
  by_cases h : s.trs.state = .fault
  · rw [faultTrain_fault h]
    exact k.refl s
  · rw [faultTrain_eq h]
    have pumps : R s (s.pumpsOff c) :=
      k.trans (k.trans (k.trans (k.enterTrain _ _ _ _ s) (k.train _ _)) (k.closes .highpress _)) (k.closes .feed _)
    exact k.trans (k.trans (k.trans (k.trans pumps (k.closes .divert _)) (k.cleNotices _ _)) (k.stopInflow _)) (k.stopFlush _)

theorem divertLost (s : State) : R s (divertLost s) := by
  unfold Machine.divertLost
  split
  · exact k.enterTrain _ _ _ _ s
  · exact k.refl s

theorem trsNotice (n : Notice) (s : State) : R s (trsNotice n s) := by
  unfold Machine.trsNotice
  split
  · exact k.faultTrain _ s
  · exact k.divertLost s
  · exact k.divertLost s
  · exact k.refl s
  · exact k.faultTrain _ s
  · exact k.faultTrain _ s
  · exact k.refl s
  · exact k.tryStopped s
  · exact k.refl s

theorem divertNotice (n : Notice) (s : State) : R s (divertNotice s n) := by
  unfold Machine.divertNotice
  split
  · exact k.trans (k.cleNotice n s) (k.trsNotice n _)
  · exact k.trans (k.trsNotice n s) (k.cleNotice n _)

theorem faultSeg (i : Nat) (s : State) : R s (faultSeg i s) :=
  k.trans (k.trans (k.segments s _) (k.segments _ _)) (k.fold (fun s _ => k.offers _ s) _ _)

theorem clearFault (i : Nat) (s : State) : R s (clearFault i s) := by
  rcases clearFault_cases i s with e | ⟨-, e⟩ <;> rw [e]
  · exact k.refl s
  · exact k.segments s _

theorem segNotice (i : Nat) (x : NoticeKind) (s : State) : R s (segNotice i x s) := by
  unfold Machine.segNotice
  split
  · exact k.faultSeg i s
  · exact k.trans (k.closes _ s) (k.faultSeg i _)
  · exact k.faultSeg i s
  · exact k.clearFault i s
  · exact k.refl s

theorem dispatch (s : State) (n : Notice) : R s (dispatch s n) := by
  unfold Machine.dispatch
  split
  · exact k.cleNotice n s
  · exact k.cleNotice n s
  · exact k.cleNotice n s
  · exact k.segNotice _ _ s
  · exact k.divertNotice n s
  · exact k.trsNotice n s

theorem notify (x : State × List Notice) : R x.1 (notify x) := k.fold k.dispatch x.2 x.1

end Reacts

end Sys2Proof.Machine
end

section

namespace Sys2Proof.Machine

/-! ## No notice drives an actuator -/

theorem actSetup_congr {s t : State} (h : t.setup = s.setup) (a : Nat) : t.actSetup a = s.actSetup a := by
  unfold State.actSetup
  rw [h]

theorem Closes.setup {s t : State} (h : Closes s t) : t.setup = s.setup := by rw [h]

/-- What a close request does to an actuator: nothing, or it is the one requested, commanded safe, and where it was CLOSED it stays so. -/
theorem closeReq_actOf (a b : Nat) (s : State) : (closeReq a s).1.actOf b = s.actOf b ∨
    ((closeReq a s).1.actOf b).command = .safe ∧
      ((s.actOf b).travel = .closed → ((closeReq a s).1.actOf b).travel = .closed) := by
  cases e : s.actSetup a with
  | none => unfold closeReq; rw [e]; exact .inl rfl
  | some u =>
    have set : (s.actSetup a).isSome = true := by rw [e]; rfl
    by_cases d : a = b
    · subst d
      refine .inr ⟨?_, fun closed => ?_⟩
      · obtain ⟨x, ⟨k, safe⟩ | k⟩ := closeReq_putAct e
        · rw [k, actOf_putAct_same (by rw [actSetup_congr madeSafe_closes.setup, e]; rfl), safe]
        · rw [k, madeSafe_command set]
      · rw [closeReq_eq e, if_pos (by simp [closed])]
        rcases madeSafe_act (s := s) (a := a) (u := u) with k | ⟨-, k⟩
        · rw [State.vacant.actOf_congr k, actOf_putAct_same set, closed]
        · rw [State.vacant.actOf_congr k, closed]
    · obtain ⟨x, ⟨k, -⟩ | k⟩ := closeReq_putAct e
      · rw [k, actOf_putAct_other d, madeSafe_other d]
        exact .inl rfl
      · rw [k, madeSafe_other d]
        exact .inl rfl

theorem closeRole_actOf (r : Role) (b : Nat) (s : State) : (closeRole r s).1.actOf b = s.actOf b ∨
    ((closeRole r s).1.actOf b).command = .safe ∧
      ((s.actOf b).travel = .closed → ((closeRole r s).1.actOf b).travel = .closed) := by
  cases h : s.actWith r with
  | none => rw [closeRole_none h]; exact .inl rfl
  | some a => rw [closeRole_eq h]; exact closeReq_actOf a b s

/-- From `s` to `t` no actuator was newly driven; one that was commanded safe still is, and one that was CLOSED still is. -/
structure OnlyCloses (s t : State) : Prop where
  setup : t.setup = s.setup
  undriven : ∀ a, (s.actOf a).command ≠ .drive → (t.actOf a).command ≠ .drive
  safe : ∀ a, (s.actOf a).command = .safe → (t.actOf a).command = .safe
  closed : ∀ a, (s.actOf a).travel = .closed → (t.actOf a).travel = .closed

namespace OnlyCloses

theorem of {s t : State} (h : t.setup = s.setup) (e : t.act = s.act) : OnlyCloses s t := by
  have same : ∀ a, t.actOf a = s.actOf a := State.vacant.actOf_congr e
  exact ⟨h, fun a k => by rwa [same], fun a k => by rwa [same], fun a k => by rwa [same]⟩

theorem trans {s t u : State} (h : OnlyCloses s t) (k : OnlyCloses t u) : OnlyCloses s u :=
  ⟨k.setup.trans h.setup, fun a e => k.undriven a (h.undriven a e), fun a e => k.safe a (h.safe a e),
    fun a e => k.closed a (h.closed a e)⟩

theorem closeRole (r : Role) (s : State) : OnlyCloses s (closeRole r s).1 := by
  refine ⟨(closeRole_works (.refl s) r).setup, fun a k => ?_, fun a k => ?_, fun a k => ?_⟩ <;>
    rcases closeRole_actOf r a s with e | ⟨safe, closed⟩
  · rwa [e]
  · rw [safe]; nofun
  · rwa [e]
  · exact safe
  · rwa [e]
  · exact closed k

theorem reacts : Reacts OnlyCloses where
  refl _ := .of rfl rfl
  trans := .trans
  offers m s := by unfold offer; split <;> exact .of rfl rfl
  train _ _ := .of rfl rfl
  claims _ _ := .of rfl rfl
  tanks _ _ := .of rfl rfl
  reports b s := by obtain ⟨l, e⟩ := report_ring b s; rw [e]; exact .of rfl rfl
  closes := closeRole
  segments _ _ := .of rfl rfl

end OnlyCloses

/-! ## The interlock drops (R71, R177) -/

/-- The actuator is not driven while its permissive is false (R71). -/
def State.interlocked (s : State) (a : Nat) : Prop :=
  ∀ u, s.actSetup a = some u → s.permitted u = false → (s.actOf a).command ≠ .drive

theorem permitted_congr {s t : State} (h : t.ila = s.ila) (u : ActuatorSetup) : t.permitted u = s.permitted u := by
  unfold State.permitted State.cell
  rw [h]

theorem interlocked_of_closes {s t : State} {a : Nat} (h : OnlyCloses s t) (e : t.ila = s.ila) (k : s.interlocked a) :
    t.interlocked a := fun u set no =>
  h.undriven a (k u (by rw [← actSetup_congr h.setup, set]) (by rw [← permitted_congr e, no]))

/-- A drop: the actuator is held and the others stand, or its permissive asks for none (R71). -/
theorem dropActuator_actOf (a : Nat) (s : State) : (dropActuator a s = (s, []) ∧ s.interlocked a) ∨
    (((dropActuator a s).1.actOf a).command = .held ∧ ∀ b, a ≠ b → (dropActuator a s).1.actOf b = s.actOf b) := by
  unfold dropActuator
  cases e : s.actSetup a with
  | none => exact .inl ⟨rfl, fun u k => by rw [e] at k; cases k⟩
  | some u =>
    have set : (s.actSetup a).isSome = true := by rw [e]; rfl
    dsimp only
    split
    · right
      split
      · obtain ⟨x, k, held, -⟩ := startTravel_putAct a u false (s.putAct a { s.actOf a with command := .held })
        rw [actOf_putAct_same set] at held
        dsimp only
        rw [k]
        exact ⟨by rw [actOf_putAct_same (s := s.putAct a _) set, held],
          fun b d => by rw [actOf_putAct_other d, actOf_putAct_other d]⟩
      · exact ⟨by rw [actOf_putAct_same set], fun b d => actOf_putAct_other d _⟩
    · rename_i stays
      refine .inl ⟨rfl, fun v set no drive => stays ?_⟩
      cases e.symm.trans set
      simp [drive, no]

/-- A drop handed on leaves its actuator undriven where the permissive is false, and every other such one (R71, R177). -/
theorem drop_interlocks (a : Nat) (s : State) : (notify (dropActuator a s)).interlocked a ∧
    ∀ b, s.interlocked b → (notify (dropActuator a s)).interlocked b := by
  have works := dropActuator_works (.refl s) a
  have handed : ∀ b, (dropActuator a s).1.interlocked b → (notify (dropActuator a s)).interlocked b := fun b =>
    interlocked_of_closes (OnlyCloses.reacts.notify _) (notify_works (.refl _)).ila
  rcases dropActuator_actOf a s with ⟨e, own⟩ | ⟨held, others⟩
  · rw [e] at handed ⊢
    exact ⟨handed a own, handed⟩
  · have own : (dropActuator a s).1.interlocked a := fun u _ _ => by rw [held]; nofun
    refine ⟨handed a own, fun b k => handed b ?_⟩
    by_cases d : a = b
    · exact d ▸ own
    · intro u set no
      rw [others b d]
      exact k u (by rw [← actSetup_congr works.setup, set]) (by rw [← permitted_congr works.ila, no])

/-- After the drops of an evaluation no actuator with a false permissive is driven (R71). -/
theorem dropAll_interlocked (s : State) {a : Nat} (h : a < 12) : (dropAll s).interlocked a := by
  have drops : ∀ (l : List Nat) (s : State), (a ∈ l ∨ s.interlocked a) →
      (l.foldl (fun s a => notify (dropActuator a s)) s).interlocked a := by
    intro l
    induction l with
    | nil => exact fun s k => k.resolve_left List.not_mem_nil
    | cons b l ih =>
      intro s k
      refine ih _ ?_
      rcases k with k | k
      · rcases List.mem_cons.mp k with rfl | k
        · exact .inr (drop_interlocks _ s).1
        · exact .inl k
      · exact .inr ((drop_interlocks b s).2 a k)
  exact drops _ s (.inl (List.mem_range.mpr h))

end Sys2Proof.Machine
end

section

namespace Sys2Proof.Machine

/-! ## What an evaluation reads (R168 to R172) -/

/-- Two states show an evaluation of the cells the same (Table 9-2), the level of PERMIT apart. -/
structure SameInputs (s t : State) : Prop where
  setup : t.setup = s.setup
  active : ∀ c, (t.contact c).active = (s.contact c).active
  mch : t.mch = s.mch
  train : t.trs.state = s.trs.state
  nwt : t.nwt = s.nwt

namespace SameInputs

theorem refl (s : State) : SameInputs s s := ⟨rfl, fun _ => rfl, rfl, rfl, rfl⟩

theorem trans {s t u : State} (h : SameInputs s t) (k : SameInputs t u) : SameInputs s u :=
  ⟨k.setup.trans h.setup, fun c => (k.active c).trans (h.active c), k.mch.trans h.mch, k.train.trans h.train, k.nwt.trans h.nwt⟩

theorem foldl {α : Type} {f : State → α → State} (hf : ∀ s a, SameInputs s (f s a)) (l : List α) (s : State) :
    SameInputs s (l.foldl f s) :=
  List.foldlRecOn l f (motive := SameInputs s) (refl s) fun t h a _ => h.trans (hf t a)

theorem readInput {s t : State} (h : SameInputs s t) (permit : Bool) (v : Vector CellHistory 8) (n : Nat) (i : Input)
    (initial : Bool) : readInput t permit v n i initial = readInput s permit v n i initial := by
  unfold Machine.readInput State.levelCh State.nwtOf
  cases i with
  | contact c => exact h.active c
  | train set => exact congrArg (fun x => set.getLsbD (trainCode x)) h.train
  | level t w => dsimp only; rw [h.mch]
  | quality w => dsimp only; rw [h.mch]
  | peer a b => dsimp only; rw [h.nwt]
  | _ => rfl

theorem evalCell {s t : State} (h : SameInputs s t) (permit : Bool) (n : Nat) (v : Vector CellHistory 8) :
    evalCell t permit n v = evalCell s permit n v := by
  have program : t.program n = s.program n := by unfold State.program; rw [h.setup]
  unfold Machine.evalCell
  simp only [program, h.readInput]

/-- The cells after an evaluation of both (R168). -/
theorem evaluate {s t : State} (h : SameInputs s t) (ila : t.ila = s.ila) (permit : Bool) :
    (evaluate permit t).ila = [7, 6, 5, 4, 3, 2, 1, 0].foldl (fun v n => Machine.evalCell s permit n v) s.ila := by
  unfold Machine.evaluate
  simp only [State.setIla_ila, h.evalCell, ila]

end SameInputs

/-! ## The timers of a scan (R62, R68) -/

/-- From `s` to `t` only contacts, actuators and the events due changed. -/
def Times (s t : State) : Prop := t = { s with fsc := { s.fsc with contacts := t.fsc.contacts }, act := t.act, due := t.due }

theorem Times.trans {s t u : State} (h : Times s t) (k : Times t u) : Times s u := by
  unfold Times at h k ⊢
  rw [k, h]

namespace Times

variable {s t : State} (h : Times s t)

include h

theorem setup : t.setup = s.setup := by rw [h]
theorem nwt : t.nwt = s.nwt := by rw [h]
theorem roster : t.roster = s.roster := by rw [h]
theorem mch : t.mch = s.mch := by rw [h]
theorem trs : t.trs = s.trs := by rw [h]
theorem ila : t.ila = s.ila := by rw [h]
theorem pls : t.pls = s.pls := by rw [h]

end Times

theorem alarmScan_times (c : Nat) (s : State) : Times s (alarmScan c s) := by
  unfold alarmScan dueIf
  dsimp only
  split
  · split <;> rfl
  · rfl

theorem travelScan_times (a : Nat) (s : State) : Times s (travelScan a s) := by
  unfold travelScan dueIf
  dsimp only
  split
  · split
    · rfl
    · split <;> rfl
  · rfl

theorem scanTimers_times (s : State) : Times s (scanActuators (scanAlarms s)) := by
  have alarms : Times s (scanAlarms s) :=
    List.foldlRecOn _ _ (motive := Times s) rfl fun t h c _ => h.trans (alarmScan_times c t)
  exact List.foldlRecOn _ _ (motive := Times s) alarms fun t h a _ => h.trans (travelScan_times a t)

theorem contact_putContact (s : State) (c d : Nat) (x : Contact) :
    (s.putContact c x).contact d = if c = d ∧ c < 32 then x else s.contact d := look_put _ _ _ _ _

theorem alarmScan_active (c d : Nat) (s : State) : ((alarmScan c s).contact d).active = (s.contact d).active := by
  have put : ∀ x : Contact, x.active = (s.contact c).active → ((s.putContact c x).contact d).active = (s.contact d).active := by
    intro x h
    rw [contact_putContact]
    split
    · rename_i e
      rw [h, e.1]
    · rfl
  unfold alarmScan dueIf
  dsimp only
  split
  · split <;> exact put _ rfl
  · rfl

theorem travelScan_contact (a c : Nat) (s : State) : (travelScan a s).contact c = s.contact c := by
  unfold travelScan dueIf
  dsimp only
  split
  · split
    · rfl
    · split <;> rfl
  · rfl

/-- The timers of a scan are no input of the cells. -/
theorem scanTimers_inputs (s : State) : SameInputs s (scanActuators (scanAlarms s)) := by
  have same : ∀ {s t : State}, Times s t → (∀ c, (t.contact c).active = (s.contact c).active) → SameInputs s t := fun h a =>
    ⟨h.setup, a, h.mch, congrArg Train.state h.trs, h.nwt⟩
  exact (SameInputs.foldl (fun s c => same (alarmScan_times c s) fun d => alarmScan_active c d s) _ s).trans
    (SameInputs.foldl (fun s a => same (travelScan_times a s) fun c => by rw [travelScan_contact]) _ _)

/-! ## *scan complete* -/

/-- The cells after *scan complete* are those of an evaluation on the state as it stood (R168). -/
theorem scanComplete_ila (permit : Bool) (s : State) :
    (scanComplete permit s).ila = [7, 6, 5, 4, 3, 2, 1, 0].foldl (fun v n => evalCell s permit n v) s.ila := by
  exact (dropAll_works (.refl _)).ila.trans ((scanTimers_inputs s).evaluate (scanTimers_times s).ila permit)

/-- After *scan complete* no actuator with a false permissive is driven (R71). -/
theorem scanComplete_interlocked (permit : Bool) (s : State) {a : Nat} (h : a < 12) : (scanComplete permit s).interlocked a :=
  dropAll_interlocked _ h

/-- What *scan complete* leaves as it was. -/
theorem scanComplete_frame (permit : Bool) (s : State) : (scanComplete permit s).setup = s.setup ∧
    (scanComplete permit s).pls = s.pls ∧ (scanComplete permit s).roster = s.roster ∧ (scanComplete permit s).nwt = s.nwt := by
  have frame : ∀ t, Times s t → (dropAll (evaluate permit t)).setup = s.setup ∧ (dropAll (evaluate permit t)).pls = s.pls ∧
      (dropAll (evaluate permit t)).roster = s.roster ∧ (dropAll (evaluate permit t)).nwt = s.nwt := fun t timed => by
    have works := dropAll_works (.refl (evaluate permit t))
    exact ⟨works.setup.trans timed.setup, works.pls.trans timed.pls, works.roster.trans timed.roster, works.nwt.trans timed.nwt⟩
  exact frame _ (scanTimers_times s)

end Sys2Proof.Machine
end

section

namespace Sys2Proof.Machine

/-! ## The stages of a cell (R174 to R176) -/

/-- The filter leaves what the edge and the latch hold. -/
theorem filterStep_keeps (f : Filter) (raw : Bool) (h : CellHistory) : (filterStep f raw h).edgeMemory = h.edgeMemory ∧
    (filterStep f raw h).primed = h.primed ∧ (filterStep f raw h).latch = h.latch := by
  unfold filterStep
  split
  · exact ⟨rfl, rfl, rfl⟩
  · exact ⟨rfl, rfl, rfl⟩
  · split
    · exact ⟨rfl, rfl, rfl⟩
    · split <;> exact ⟨rfl, rfl, rfl⟩

section

variable (p : CellProgram) (above raw : Bool) (h : CellHistory)

/-- The history once the edge has taken the filtered value (R175). -/
def CellHistory.edged (h : CellHistory) : CellHistory := { h with edgeMemory := h.filtered, primed := true }

/-- A cell without a latch (R176). -/
theorem condition_plain : condition p false above raw h = { (filterStep p.filter raw h).edged with
    latch := false, output := edgeResult p.edge (filterStep p.filter raw h) } := rfl

/-- A cell with a latch (R176). -/
theorem condition_latched : condition p true above raw h = { (filterStep p.filter raw h).edged with
    latch := latchStep (edgeResult p.edge (filterStep p.filter raw h)) above h.latch
    output := latchStep (edgeResult p.edge (filterStep p.filter raw h)) above h.latch } := by
  rw [← (filterStep_keeps p.filter raw h).2.2]
  rfl

theorem condition_edged (latched : Bool) : (condition p latched above raw h).edgeMemory = (filterStep p.filter raw h).filtered ∧
    (condition p latched above raw h).primed = true := by
  cases latched <;> exact ⟨rfl, rfl⟩

theorem edgeResult_pulse : edgeResult .risingPulse (filterStep p.filter raw h) = true ↔
    (filterStep p.filter raw h).filtered = true ∧ h.edgeMemory = false ∧ h.primed = true := by
  obtain ⟨memory, primed, -⟩ := filterStep_keeps p.filter raw h
  simp [edgeResult, memory, primed, and_assoc]

end

/-- Settles O45: the stages of a cell by their branches, and *scan complete* by the inputs that its timers leave and by its drops. -/
theorem cellStages : Obligations.CellStages := by
  refine ⟨⟨fun _ _ => rfl, fun _ _ => ⟨rfl, rfl⟩, fun raw h bound => ⟨fun e => ?_, fun e k => ?_, fun e k => ?_⟩,
    fun p latched above raw h => ?_⟩, fun permit s => ?_⟩
  · simp [filterStep, e]
  · simp [filterStep, e, k]
  · simp [filterStep, e, k]
  · obtain ⟨memory, primed⟩ := condition_edged p above raw h latched
    refine ⟨memory, primed, ?_, ?_, ?_, ?_, ?_⟩
    · rintro edge rfl
      rw [condition_plain, edge]
      rfl
    · rintro edge rfl
      rw [condition_plain, edge]
      exact edgeResult_pulse p raw h
    · rintro rfl
      rw [condition_plain]
    · rintro rfl rfl
      rw [condition_latched]
      exact ⟨rfl, rfl⟩
    · rintro edge rfl rfl
      rw [condition_latched, edge]
      cases e : (filterStep p.filter raw h).filtered <;> simp [latchStep, edgeResult, e]
  · obtain ⟨setup, pls, roster, nwt⟩ := scanComplete_frame permit s
    exact ⟨scanComplete_ila permit s, fun a u l set => scanComplete_interlocked permit s l u (by rw [actSetup_congr setup, set]),
      setup, pls, roster, nwt⟩

end Sys2Proof.Machine
end

section

namespace Sys2Proof.Machine

/-! ## Requests at an actuator (R66, R67) -/

theorem endLimit_congr {s t : State} (h : t.setup = s.setup) (a : Nat) (k : Kind) (opening : Bool) :
    t.endLimit a k opening = s.endLimit a k opening := by
  unfold State.endLimit State.contactWith State.contactSetup
  rw [h]

theorem atEnd_congr {s t : State} (h : t.setup = s.setup) (f : t.fsc = s.fsc) (a : Nat) (k : Kind) (opening : Bool) :
    t.atEnd a k opening = s.atEnd a k opening := by
  unfold State.atEnd State.contact
  rw [endLimit_congr h, f]

section

variable {s : State} {a : Nat} {u : ActuatorSetup}

/-- A travel whose end limit does not stand yet (R67). -/
theorem startTravel_moves {opening : Bool} (h : s.atEnd a u.kind opening = false) : startTravel a u opening s =
    (s.putAct a { s.actOf a with travel := if opening then .opening else .closing, timer := 0 }, []) := by
  unfold startTravel
  rw [h]
  rfl

variable (set : s.actSetup a = some u)

include set

theorem openReq_driven (h : (s.actOf a).command = .drive) : openReq a s = (s, []) := by
  unfold openReq
  rw [set]
  exact if_pos h

theorem openReq_denied (h : (s.actOf a).command ≠ .drive) (no : s.permitted u = false) : openReq a s =
    (s.putAct a { s.actOf a with command := .held }, [⟨a, u.role, .permissiveDenied⟩]) := by
  unfold openReq
  rw [set]
  dsimp only
  rw [if_neg h, no]
  rfl

theorem openReq_permitted (h : (s.actOf a).command ≠ .drive) (yes : s.permitted u = true) : openReq a s =
    if (s.actOf a).travel = .opened then (s.putAct a { s.actOf a with command := .drive }, [])
    else startTravel a u true (s.putAct a { s.actOf a with command := .drive }) := by
  unfold openReq
  rw [set]
  dsimp only
  rw [if_neg h, if_pos yes]

theorem actOf_put (x : Actuator) : (s.putAct a x).actOf a = x := actOf_putAct_same (by rw [set]; rfl) x

theorem openReq_drives (h : (s.actOf a).command ≠ .drive) (yes : s.permitted u = true) :
    ((openReq a s).1.actOf a).command = .drive := by
  rw [openReq_permitted set h yes]
  split
  · rw [actOf_put set]
  · obtain ⟨x, e, command, -⟩ := startTravel_putAct a u true (s.putAct a { s.actOf a with command := .drive })
    rw [e, actOf_put (s := s.putAct a _) set, command, actOf_put set]

theorem openReq_opened (h : (s.actOf a).command ≠ .drive) (yes : s.permitted u = true) (opened : (s.actOf a).travel = .opened) :
    openReq a s = (s.putAct a { s.actOf a with command := .drive }, []) := by
  rw [openReq_permitted set h yes, if_pos opened]

theorem openReq_opens (h : (s.actOf a).command ≠ .drive) (yes : s.permitted u = true) (shut : (s.actOf a).travel ≠ .opened)
    (limit : s.atEnd a u.kind true = false) :
    (openReq a s).2 = [] ∧ (openReq a s).1.actOf a = ⟨.drive, .opening, 0⟩ := by
  rw [openReq_permitted set h yes, if_neg shut,
    startTravel_moves ((atEnd_congr (s := s) (t := s.putAct a { s.actOf a with command := .drive }) rfl rfl a u.kind true).trans limit)]
  refine ⟨rfl, ?_⟩
  rw [actOf_put (s := s.putAct a _) set, actOf_put set]
  rfl

theorem closeReq_command : ((closeReq a s).1.actOf a).command = .safe := by
  obtain ⟨x, ⟨e, safe⟩ | e⟩ := closeReq_putAct set
  · rw [e, actOf_put ((actSetup_congr madeSafe_closes.setup a).trans set), safe]
  · rw [e, madeSafe_command (by rw [set]; rfl)]

theorem closeReq_still (safe : (s.actOf a).command = .safe) (h : (s.actOf a).travel = .closed ∨ (s.actOf a).travel = .closing) :
    closeReq a s = (s, []) := by
  rw [closeReq_eq set, if_pos (by simpa using h)]
  unfold State.madeSafe
  rw [if_pos safe]

theorem closeReq_closes (h : (s.actOf a).travel ≠ .closed) (k : (s.actOf a).travel ≠ .closing)
    (limit : s.atEnd a u.kind false = false) :
    (closeReq a s).2 = [] ∧ (closeReq a s).1.actOf a = ⟨.safe, .closing, 0⟩ := by
  have fsc : (s.madeSafe a u).fsc = s.fsc := by rw [madeSafe_closes (s := s)]
  have setup : (s.madeSafe a u).setup = s.setup := madeSafe_closes.setup
  rw [closeReq_eq set, if_neg (by simp [h, k]), startTravel_moves ((atEnd_congr setup fsc _ _ _).trans limit)]
  refine ⟨rfl, ?_⟩
  have safe : ((s.madeSafe a u).actOf a).command = .safe := madeSafe_command (by rw [set]; rfl)
  rw [actOf_put ((actSetup_congr setup a).trans set)]
  exact congrArg (Actuator.mk · .closing 0) safe

end

theorem drive_iff {s : State} (h : s.ident.resetLow = false) (a : Nat) : s.drive a = true ↔ (s.actOf a).command = .drive := by
  unfold State.drive
  simp [h]

/-! ## The ends of travels (R67, R68) -/

/-- The state with an actuator's travel at its end, before its notice. -/
def State.travelled (s : State) (a : Nat) (x : Travel) : State := s.putAct a { s.actOf a with travel := x }

/-- The state with an actuator STUCK on its travel and reported, before its notice. -/
def State.stuckAt (s : State) (a : Nat) (u : ActuatorSetup) : State :=
  report (.actuator a u.role (s.actOf a).travel .travel) (s.putAct a { s.actOf a with command := .safe, travel := .stuck })

theorem exec_travelTimeEnd {s : State} {a : Nat} {rest : List Due} (h : s.dueNext (.travelTimeEnd a) rest) :
    exec (.travelTimeEnd a) s = .next (travelTimeEnd a (s.setDue rest)) := congrArg Host.Outcome.next (ownEvent_next h)

theorem exec_travelStuck {s : State} {a : Nat} {rest : List Due} (h : s.dueNext (.travelStuck a) rest) :
    exec (.travelStuck a) s = .next (travelStuck a (s.setDue rest)) := congrArg Host.Outcome.next (ownEvent_next h)

theorem moving_iff (x : Travel) : x.moving = true ↔ x = .opening ∨ x = .closing := by
  cases x <;> simp [Travel.moving]

section

variable {s : State} {a : Nat} {u : ActuatorSetup} (set : s.actSetup a = some u)
  (moving : (s.actOf a).travel = .opening ∨ (s.actOf a).travel = .closing)

include set moving

/-- A travel without a bound limit ends with its travel time, and the notice goes to its block (R67, R73). -/
theorem travelTimeEnd_ends (limit : s.endLimit a u.kind ((s.actOf a).travel == .opening) = none)
    (late : 10 * u.travel ≤ (s.actOf a).timer) : travelTimeEnd a s =
      dispatch (s.travelled a (reached ((s.actOf a).travel == .opening)))
        ⟨a, u.role, .travelDone (reached ((s.actOf a).travel == .opening))⟩ := by
  have ends : s.travelEnds a = true := by
    unfold State.travelEnds
    rw [set]
    simp [(moving_iff _).mpr moving, limit, ActuatorSetup.scans, late]
  unfold travelTimeEnd
  rw [set]
  exact if_pos ends

/-- An overdue travel of an actuator that is no HIGHPRESS: STUCK, reported, and the notice goes to its block (R68, R73). -/
theorem travelStuck_sticks (role : u.role ≠ .highpress) (late : 10 * u.travel + 200 ≤ (s.actOf a).timer) : travelStuck a s =
    dispatch (s.stuckAt a u) ⟨a, u.role, .stuck (s.actOf a).travel⟩ := by
  have overdue : s.travelOverdue a = true := by
    unfold State.travelOverdue
    rw [set]
    simp [(moving_iff _).mpr moving, ActuatorSetup.scans, late]
  have stuck : becomeStuck a u .travel s = (s.stuckAt a u, [⟨a, u.role, .stuck (s.actOf a).travel⟩]) := by
    unfold becomeStuck stopQuality
    dsimp only
    rw [if_neg role, ite_self]
    rfl
  have act : (s.stuckAt a u).actOf a = { s.actOf a with command := .safe, travel := .stuck } :=
    (State.vacant.actOf_congr (State.vacant.report_act _ _) a).trans (actOf_put set _)
  unfold travelStuck stuckAround
  rw [set]
  dsimp only
  rw [if_pos overdue, stuck]
  unfold stuckNotices
  simp only [act]
  rfl

end

/-- A notice of a target valve is no claim's where none has that target (R97). -/
theorem cleNotice_targetless {n : Notice} {s : State} (h : ∀ c ∈ s.cle.list, targetRole c.target ≠ n.role) : cleNotice n s = s := by
  unfold cleNotice
  split
  · rename_i c e
    have found := List.find?_some e
    simp only [Bool.and_eq_true, beq_iff_eq] at found
    exact absurd found.1 (h c (List.mem_of_find?_eq_some e))
  · rfl

end Sys2Proof.Machine
end

section

namespace Sys2Proof.Machine

/-! ## Messages offered one after the other (R19, R82) -/

/-- Messages offered in order. -/
def offerAll (l : List Message) (s : State) : State := l.foldl (fun s m => (offer m s).1) s

/-- A message offered to a full queue is dropped (R19). -/
theorem offer_takes {s : State} (v : s.serving = true) (full : s.bc.queue.length ≤ 16) (m : Message) :
    (offer m s).1.bc = { s.bc with queue := (s.bc.queue ++ [m]).take 16 } := by
  unfold offer
  by_cases h : s.bc.queue.length < 16
  · rw [if_pos (by simp [v, h]), List.take_of_length_le (by simpa using h)]
    rfl
  · have sixteen : s.bc.queue.length = 16 := by omega
    rw [if_neg (by simp [h]), List.take_append_of_le_length (by omega), List.take_of_length_le full]

theorem take_append_take {α : Type} (n : Nat) (l k : List α) : ((l.take n) ++ k).take n = (l ++ k).take n := by
  simp only [List.take_append, List.take_take, min_self, List.length_take]
  congr 2
  omega

/-- Of messages offered in order, those that find the queue full are dropped (R19). -/
theorem offerAll_takes (l : List Message) {s : State} (v : s.serving = true) (full : s.bc.queue.length ≤ 16) :
    (offerAll l s).bc = { s.bc with queue := (s.bc.queue ++ l).take 16 } := by
  induction l generalizing s with
  | nil => rw [List.append_nil, List.take_of_length_le full]; rfl
  | cons m l ih =>
    have first := offer_takes v full m
    have rest := ih (s := (offer m s).1) (by unfold State.serving at v ⊢; rw [first]; exact v)
      (by rw [first]; exact List.length_take_le 16 _)
    rw [show offerAll (m :: l) s = offerAll l (offer m s).1 from rfl, rest, first]
    simp only [take_append_take, List.append_assoc, List.singleton_append]

theorem freeSegs_offerAll (q : Nat) (l : List SegId) (s : State) : freeSegs q l s = offerAll (holdFrees q l) s := by
  unfold freeSegs offerAll holdFrees
  rw [List.foldl_map]
  rfl

/-- The final messages of a claim that leaves from CLOSING (R82). -/
theorem finalMessages_closing {c : Claim} {r : EndReason} (closing : c.state = .closing) (reason : c.reason = some r) (s : State) :
    finalMessages c s = offerAll (c.endsWith r) s := by
  unfold finalMessages Claim.endReason
  rw [closing, reason]
  exact freeSegs_offerAll _ _ _

/-! ## Outcomes that ask for nothing (R82, R126, R161) -/

/-- From `s` to `t` nothing changed but tanks, train and the report ring. -/
def Concludes (s t : State) : Prop := t = { s with tkm := t.tkm, trs := t.trs, port := { s.port with ring := t.port.ring } }

namespace Concludes

variable {s t : State}

theorem cle (h : Concludes s t) : t.cle = s.cle := by rw [h]
theorem bc (h : Concludes s t) : t.bc = s.bc := by rw [h]
theorem act (h : Concludes s t) : t.act = s.act := by rw [h]

theorem tryStopped (s : State) : Concludes s (tryStopped s) := by
  rw [tryStopped_iff]
  split
  · obtain ⟨l, e, -⟩ := enterTrain_ring .stopped .none .none .none (s.setTrs s.trs.flushed)
    rw [e]
    rfl
  · rfl

theorem flushOutcome (r : EndReason) (s : State) : Concludes s (flushOutcome r s) := by
  by_cases h : s.trs.state = .stopping
  · rw [flushOutcome_stopping h, tryStopped (s.setTrs (s.trs.flushEnded r))]
    rfl
  · rw [flushOutcome_other h]
    rfl

theorem fillOutcome (i : Nat) (r : EndReason) (s : State) : Concludes s (fillOutcome i r s) := by
  unfold Machine.fillOutcome
  dsimp only
  split <;> rfl

/-- The outcome of a claim that is not the train's, or not its product claim, or that meets the train in no rated state. -/
theorem handOutcome {c : Claim} {s : State} (h : c.creator ≠ .train ∨ c.target ≠ .product ∨ rated s.trs.state = false)
    (r : EndReason) : Concludes s (handOutcome c r s) := by
  by_cases product : c.creator = .train ∧ c.target = .product
  · obtain ⟨train, target⟩ := product
    obtain ⟨i, o, e⟩ := handOutcome_product target r ((h.resolve_left (not_not.mpr train)).resolve_left (not_not.mpr target))
    rw [e]
    rfl
  · unfold Machine.handOutcome
    split
    · rfl
    · exact fillOutcome _ r s
    · rfl
    · rename_i train
      unfold trainOutcome
      split
      · rename_i target
        exact absurd ⟨train, target⟩ product
      · split
        · exact flushOutcome r s
        · rfl
      · rfl

end Concludes

/-- The outcome of a claim of automatic fill leaves the fill IDLE (R126). -/
theorem handOutcome_fill {c : Claim} {i : Nat} (creator : c.creator = .fill) (target : c.target = .fillInlet i) (two : i < 2)
    (r : EndReason) (s : State) : ((handOutcome c r s).tankOf i).fill = .idle ∧ ((handOutcome c r s).tankOf i).live = none := by
  have put : ∀ x : TankState, (s.putTank i x).tankOf i = x := fun x => look_put_same _ two _ _
  unfold handOutcome
  rw [creator, target]
  unfold fillOutcome
  dsimp only
  cases (s.tankOf i).live with
  | none => exact ⟨congrArg TankState.fill (put _), congrArg TankState.live (put _)⟩
  | some k => exact ⟨congrArg TankState.fill (put _), congrArg TankState.live (put _)⟩

/-! ## Outcomes that ask for new claims (R151, R153, R160) -/

/-- From `s` to `t` every claim that joined the list joined it short of CLOSING. -/
def Asks (s t : State) : Prop := ∀ x ∈ t.cle.list, x ∈ s.cle.list ∨ x.state ≠ .closing

namespace Asks

variable {s t u : State}

theorem of (h : t.cle = s.cle) : Asks s t := fun x m => .inl (by rwa [h] at m)

theorem trans (h : Asks s t) (k : Asks t u) : Asks s u := fun x m => (k x m).elim (h x) .inr

theorem train (s : State) (f : Train → Train) : Asks s (s.mapTrs f) := .of rfl

theorem freshClaim_open (q w : Nat) (n : NewClaim) : ({ freshClaim q n with repeatTimer := w } : Claim).state ≠ .closing := by
  unfold freshClaim
  dsimp only
  split <;> nofun

theorem createClaim (n : NewClaim) (s : State) : Asks s (createClaim n s).1 := by
  cases h : createRefusal s n with
  | some r => rw [createClaim_no h]; exact .of rfl
  | none =>
    rw [createClaim_ok h]
    intro x m
    rcases mem_putClaim m with e | ⟨m, -⟩
    · exact .inr (by rw [e]; exact freshClaim_open _ _ n)
    · rw [offer_cle] at m
      rcases List.mem_append.mp m with m | m
      · exact .inl m
      · rw [List.mem_singleton.mp m]
        exact .inr (freshClaim_open _ 5 n)

theorem askNext (fuel : Nat) (s : State) : Asks s (askNext fuel s) := by
  induction fuel generalizing s with
  | zero => exact .of rfl
  | succ fuel ih =>
    unfold Machine.askNext
    repeat' split
    · rename_i u d _ _
      dsimp only
      have asked := createClaim (inflowClaim s u d) s
      split
      · exact asked.trans (train _ _)
      · split
        · exact (asked.trans (train _ _)).trans (train _ _)
        · exact ((asked.trans (train _ _)).trans (train _ _)).trans (ih _)
    · exact .of rfl
    · exact .of rfl

theorem askFlush (c : StopCause) (s : State) : Asks s (askFlush c s) := by
  unfold Machine.askFlush
  split
  · exact .of rfl
  · rename_i u _ _
    dsimp only
    have asked := createClaim (flushClaim s u) s
    split <;> exact asked.trans (train _ _)
  · exact .of rfl

theorem stopRevoked (s : State) : Asks s (stopRevoked s) := by
  have closed : Asks s (closeRole .feed (stopFirst (enterTrain .stopping .none .none .revoked s)).1).1 := by
    refine .of ?_
    unfold stopFirst
    rw [closeRole_cle, closeRole_cle, closeRole_cle, enterTrain_cle]
  exact ((closed.trans (askFlush _ _)).trans (train _ _)).trans (.of (tryStopped_cle _))

theorem failedDest (r : EndReason) (s : State) : Asks s (failedDest r s) := by
  unfold Machine.failedDest
  dsimp only
  split
  · exact .of rfl
  · split
    · exact .of rfl
    · exact (train s _).trans ((train _ _).trans (askNext _ _))

theorem inflowEffect (r : EndReason) (s : State) : Asks s (inflowEffect r s) := by
  unfold Machine.inflowEffect
  split
  · exact .of rfl
  · exact (train s _).trans (askNext _ _)
  · split
    · exact (train s _).trans (askNext _ _)
    · exact .of rfl
  · exact failedDest _ s

theorem runningOutcome (r : EndReason) (s : State) : Asks s (runningOutcome r s) := by
  have told : Asks s (tellTrain .producing (Machine.inflowEffect r (changeTrain .diverting .noDestination .none .none s))) :=
    ((Asks.of (changeTrain_cle _ _ _ _ s)).trans (inflowEffect r _)).trans (.of (tellTrain_cle _ _))
  unfold Machine.runningOutcome
  dsimp only
  repeat' split
  · exact told.trans (stopRevoked _)
  · exact (inflowEffect r s).trans (stopRevoked _)
  · exact told
  · exact inflowEffect r s

theorem handOutcome (c : Claim) (r : EndReason) (s : State) : Asks s (handOutcome c r s) := by
  by_cases h : c.creator ≠ .train ∨ c.target ≠ .product ∨ rated s.trs.state = false
  · exact .of (Concludes.handOutcome h r).cle
  · obtain ⟨train', target, -⟩ : c.creator = .train ∧ c.target = .product ∧ rated s.trs.state ≠ false := by
      simpa [not_or] using h
    unfold Machine.handOutcome trainOutcome
    rw [train', target]
    dsimp only
    split
    · unfold inflowOutcome
      dsimp only
      split
      · exact train s _
      · exact (train s _).trans (runningOutcome r _)
      · exact (train s _).trans (runningOutcome r _)
      · exact (train s _).trans (train _ _)
    · exact .of rfl

end Asks

end Sys2Proof.Machine
end

section

namespace Sys2Proof.Machine

/-! ## A claim that leaves from CLOSING (R82, R94, R97) -/

/-- From `s` to `t` the claim, in CLOSING with the reason, left the list and no other did: its final messages were offered, and its
record made behind at most `n` others. -/
structure State.endsClosing (s t : State) (c : Claim) (r : EndReason) (n : Nat) : Prop where
  cle : t.cle = { s.cle with list := s.cle.list.filter fun x => x.sequence != c.sequence }
  offered : s.offered t (c.endsWith r)
  told : s.tells t n (.claimEnd c .flowing)

theorem reported_of_tells {s t : State} {n : Nat} {b : ReportBody} (h : s.tells t n b) (room : s.port.ring.length + n < 32)
    (round : t.bc.round = s.bc.round) : t.reported b s.bc.round := by
  obtain ⟨x, m, body, made⟩ := h room
  exact ⟨x, List.mem_of_mem_drop m, body, made.trans round⟩

/-- What was offered first stays first whatever works on behind it (R19). -/
theorem Works.offeredFirst {s t u : State} {l : List Message} (h : s.offered t l) (w : Works t u) : s.offeredFirst u l := by
  intro v full
  have queue := w.queue
  rw [h v full] at queue
  exact queue

section

variable {c : Claim} {r : EndReason} (closing : c.state = .closing) (reason : c.reason = some r)

include closing reason

theorem left_ends (s : State) : s.endsClosing (s.left c) c r 0 := by
  have messages := finalMessages_closing closing reason s
  have sent := manages_sends.finalMessages c s
  have from_flowing : endedFrom c.state = .flowing := by rw [closing]; rfl
  have told := report_tells (finalMessages c s) (.claimEnd c (endedFrom c.state))
  refine ⟨?_, fun v full => ?_, ?_⟩
  · unfold State.left State.dropClaim State.setClaims
    simp only [report_cle, finalMessages_cle]
    rfl
  · exact (report_bc _ _).trans (by rw [messages]; exact offerAll_takes _ v full)
  · rw [from_flowing] at told
    unfold State.left
    rw [from_flowing]
    unfold State.tells at told ⊢
    rwa [sent.port] at told

theorem leaveList_ends {s : State} (quiet : c.creator ≠ .train ∨ c.target ≠ .product ∨ rated s.trs.state = false) :
    s.endsClosing (leaveList c s) c r 0 := by
  obtain ⟨cle, offered, told⟩ := left_ends closing reason s
  have trs : (s.left c).trs = s.trs := by
    obtain ⟨l, left, -⟩ := left_frame s c
    exact left.trs
  have concludes : Concludes (s.left c) (leaveList c s) := .handOutcome (by rwa [trs]) c.endReason
  exact ⟨concludes.cle.trans cle, fun v full => concludes.bc.trans (offered v full),
    told.later (handOutcome_works (.refl _) c c.endReason)⟩

/-- The claim is gone, and what may have come in its place is not in CLOSING (R153). -/
theorem leaveList_gone (s : State) : ∀ x ∈ (leaveList c s).cle.list, x.sequence = c.sequence → x.state ≠ .closing := by
  intro x m e
  rcases Asks.handOutcome c c.endReason (s.left c) x m with old | new
  · rw [(left_ends closing reason s).cle] at old
    exact absurd e (by simpa using (List.mem_filter.mp old).2)
  · exact new

end

/-! ## The notice that ends a closing (R97) -/

/-- The claim is in CLOSING and the only one on its valve. -/
structure State.closesAlone (s : State) (c : Claim) : Prop where
  mem : c ∈ s.cle.list
  closing : c.state = .closing
  only : ∀ x ∈ s.cle.list, targetRole x.target = targetRole c.target → x = c

/-- A notice of a target valve, DIVERT apart, is the claims' alone (Table 4-4). -/
theorem dispatch_valve {n : Notice} {x : Target} (role : n.role = targetRole x) (d : targetRole x ≠ .divert) (s : State) :
    dispatch s n = cleNotice n s := by
  unfold dispatch
  rw [role]
  cases x with
  | product => exact absurd rfl d
  | _ => rfl

namespace State.closesAlone

variable {s : State} {c : Claim} (h : s.closesAlone c)

include h

theorem congr {t : State} (e : t.cle = s.cle) : t.closesAlone c := ⟨by rw [e]; exact h.mem, h.closing, by rw [e]; exact h.only⟩

theorem cleNotice {n : Notice} (role : n.role = targetRole c.target) (k : n.kind = .travelDone .closed ∨ ∃ x, n.kind = .stuck x) :
    cleNotice n s = leaveList c s := by
  have ends : claimNotice c n.kind s = leaveList c s := by
    unfold claimNotice
    rw [h.closing]
    rcases k with k | ⟨x, k⟩ <;> rw [k]
  unfold Machine.cleNotice
  cases e : s.cle.list.find? fun x => targetRole x.target == n.role && (x.state == .flowing || x.state == .closing) with
  | none =>
    have hears := List.find?_eq_none.mp e c h.mem
    simp [role, h.closing] at hears
  | some x =>
    have found := List.find?_some e
    simp only [Bool.and_eq_true, beq_iff_eq] at found
    rw [h.only x (List.mem_of_find?_eq_some e) (found.1.trans role)]
    exact ends

theorem notFlowing : s.flowingOn (targetRole c.target) = false := by
  unfold State.flowingOn
  rw [List.any_eq_false]
  intro x m k
  simp only [Bool.and_eq_true, beq_iff_eq] at k
  rw [h.only x m k.1, h.closing] at k
  exact absurd k.2 nofun

/-- A notice of DIVERT under a claim in CLOSING goes to the train first (Table 4-4). -/
theorem dispatch_divert {n : Notice} (role : n.role = targetRole c.target) (d : targetRole c.target = .divert) :
    dispatch s n = Machine.cleNotice n (trsNotice n s) := by
  unfold dispatch
  rw [role, d]
  unfold divertNotice
  rw [role, h.notFlowing]
  rfl

/-- The end of the closing travel ends the closing (R94). -/
theorem dispatch_closed {n : Notice} (role : n.role = targetRole c.target) (k : n.kind = .travelDone .closed) :
    dispatch s n = leaveList c s := by
  by_cases d : targetRole c.target = .divert
  · have train : trsNotice n s = s := by
      unfold trsNotice
      rw [role, d, k]
    rw [h.dispatch_divert role d, train, h.cleNotice role (.inl k)]
  · rw [dispatch_valve role d, h.cleNotice role (.inl k)]

/-- A *stuck* ends the closing where it is no fault of the train (R97, R163). -/
theorem dispatch_stuck {n : Notice} (role : n.role = targetRole c.target) {x : Travel} (k : n.kind = .stuck x)
    (d : targetRole c.target ≠ .divert ∨ s.trs.state = .fault) : dispatch s n = leaveList c s := by
  by_cases e : targetRole c.target = .divert
  · have train : trsNotice n s = s := by
      unfold trsNotice
      rw [role, e, k]
      exact faultTrain_fault (d.resolve_left (not_not.mpr e)) _
    rw [h.dispatch_divert role e, train, h.cleNotice role (.inr ⟨x, k⟩)]
  · rw [dispatch_valve role e, h.cleNotice role (.inr ⟨x, k⟩)]

end State.closesAlone

theorem claimOf_ended {s t : State} {c : Claim} {r : EndReason} {n : Nat} (h : s.endsClosing t c r n) : t.claimOf c.sequence = none := by
  unfold State.claimOf
  rw [h.cle]
  refine List.find?_eq_none.mpr fun x m e => ?_
  have other := (List.mem_filter.mp m).2
  simp only [bne_iff_ne, beq_iff_eq] at other e
  exact other e

/-! ## A travel that ends, or sticks, under a claim in CLOSING (R94, R97) -/

section

variable {s : State} {a : Nat} {u : ActuatorSetup} {c : Claim} {rest : List Due} (set : s.actSetup a = some u)
  (valve : s.actWith (targetRole c.target) = some a) (alone : s.closesAlone c)

include set valve alone

/-- The end of the closing travel of a claim's valve (R94). -/
theorem closing_travels (due : s.dueNext (.travelTimeEnd a) rest) (travel : (s.actOf a).travel = .closing)
    (limit : s.endLimit a u.kind false = none) (late : 10 * u.travel ≤ (s.actOf a).timer) :
    exec (.travelTimeEnd a) s = .next (leaveList c ((s.setDue rest).travelled a .closed)) := by
  have closing : (((s.setDue rest).actOf a).travel == .opening) = false := by
    rw [show ((s.setDue rest).actOf a).travel = .closing from travel]
    rfl
  have ends := travelTimeEnd_ends (s := s.setDue rest) set (.inr travel) (by rw [closing]; exact limit) late
  have alone' : ((s.setDue rest).travelled a .closed).closesAlone c := alone.congr rfl
  rw [closing] at ends
  rw [exec_travelTimeEnd due, ends]
  exact congrArg Host.Outcome.next (alone'.dispatch_closed (actWith_role valve set) rfl)

omit alone in
/-- The state of a *stuck* on the way, its notice handed on. -/
theorem valve_sticks (due : s.dueNext (.travelStuck a) rest) (moving : (s.actOf a).travel = .opening ∨ (s.actOf a).travel = .closing)
    (late : 10 * u.travel + 200 ≤ (s.actOf a).timer) : exec (.travelStuck a) s =
      .next (dispatch ((s.setDue rest).stuckAt a u) ⟨a, u.role, .stuck (s.actOf a).travel⟩) := by
  rw [exec_travelStuck due]
  refine congrArg Host.Outcome.next (travelStuck_sticks (s := s.setDue rest) set moving ?_ late)
  rw [actWith_role valve set]
  exact targetRole_silent _

/-- A *stuck* of the valve on the way, where it is no fault of the train (R97). -/
theorem closing_sticks (due : s.dueNext (.travelStuck a) rest) (moving : (s.actOf a).travel = .opening ∨ (s.actOf a).travel = .closing)
    (late : 10 * u.travel + 200 ≤ (s.actOf a).timer) (d : targetRole c.target ≠ .divert ∨ s.trs.state = .fault) :
    exec (.travelStuck a) s = .next (leaveList c ((s.setDue rest).stuckAt a u)) := by
  have alone' : ((s.setDue rest).stuckAt a u).closesAlone c := alone.congr (report_cle _ _)
  have trs : ((s.setDue rest).stuckAt a u).trs = s.trs := report_trs _ _
  rw [valve_sticks set valve due moving late]
  exact congrArg Host.Outcome.next (alone'.dispatch_stuck (actWith_role valve set) rfl (by rwa [trs]))

end

end Sys2Proof.Machine
end

section

namespace Sys2Proof.Machine

/-! ## The train's fault stands (R163) -/

theorem qualityOff_trs (s : State) : (qualityOff s).trs = s.trs ∨
    (qualityOff s).trs = { s.trs with marginal := none, sensor := none, good := none } := by
  by_cases h : s.mch.quality.window = .initial
  · rw [qualityOff_silent h]
    exact .inl rfl
  · rw [qualityOff_told h]
    exact .inr rfl

/-- A close request leaves the train, the quality timers of a stopped quality channel apart (R51, R158). -/
theorem closeRole_trs (r : Role) (s : State) : (closeRole r s).1.trs = s.trs ∨
    (closeRole r s).1.trs = { s.trs with marginal := none, sensor := none, good := none } := by
  cases h : s.actWith r with
  | none => rw [closeRole_none h]; exact .inl rfl
  | some a =>
    obtain ⟨u, set, -⟩ := actWith_setup h
    have safe : (s.madeSafe a u).trs = s.trs ∨
        (s.madeSafe a u).trs = { s.trs with marginal := none, sensor := none, good := none } := by
      unfold State.madeSafe stopQuality
      split
      · exact .inl rfl
      · split
        · exact qualityOff_trs (s.putAct a { s.actOf a with command := .safe })
        · exact .inl rfl
    rw [closeRole_eq h]
    obtain ⟨x, ⟨e, -⟩ | e⟩ := closeReq_putAct set <;> rw [e] <;> exact safe

/-- The train as its entry to FAULT leaves it, with the timers that a close request may stop already none. -/
structure Train.faulted (x : Train) : Prop where
  state : x.state = .fault
  ownStop : x.ownStop = true
  marginal : x.marginal = none
  sensor : x.sensor = none
  good : x.good = none

theorem Train.faulted.closeRole {s : State} (h : s.trs.faulted) (r : Role) : (closeRole r s).1.trs = s.trs := by
  rcases closeRole_trs r s with e | e
  · exact e
  · rw [e]
    conv_rhs => rw [show s.trs = { s.trs with marginal := s.trs.marginal, sensor := s.trs.sensor, good := s.trs.good } from rfl,
      h.marginal, h.sensor, h.good]

/-- The train `y` is `x` with its inflow and its flush claim kept or gone. -/
def Train.lets (x y : Train) : Prop :=
  ∃ i f, (i = x.inflow ∨ i = none) ∧ (f = x.flush ∨ f = none) ∧ y = { x with inflow := i, flush := f }

namespace Train.lets

variable {x y z : Train}

theorem refl (x : Train) : x.lets x := ⟨x.inflow, x.flush, .inl rfl, .inl rfl, rfl⟩

theorem trans (h : x.lets y) (k : y.lets z) : x.lets z := by
  obtain ⟨i, f, hi, hf, rfl⟩ := h
  obtain ⟨j, g, hj, hg, rfl⟩ := k
  exact ⟨j, g, hj.elim (fun e => e ▸ hi) .inr, hg.elim (fun e => e ▸ hf) .inr, rfl⟩

theorem faulted (h : x.lets y) (k : x.faulted) : y.faulted := by
  obtain ⟨i, f, -, -, rfl⟩ := h
  exact ⟨k.state, k.ownStop, k.marginal, k.sensor, k.good⟩

end Train.lets

/-- An outcome in FAULT only lets go of the train's claim (R161, R163). -/
theorem handOutcome_lets {s : State} (h : s.trs.state = .fault) (c : Claim) (r : EndReason) :
    s.trs.lets (handOutcome c r s).trs := by
  unfold handOutcome
  split
  · exact .refl _
  · rw [fillOutcome_trs]
    exact .refl _
  · exact .refl _
  · unfold trainOutcome
    split
    · split
      · have still : inflowOutcome r s = s.mapTrs fun t => { t with inflow := none } := by
          unfold inflowOutcome
          dsimp only [State.mapTrs, State.setTrs]
          rw [h]
        rw [still]
        exact ⟨none, s.trs.flush, .inr rfl, .inl rfl, rfl⟩
      · exact .refl _
    · split
      · rw [flushOutcome_other (by rw [h]; nofun)]
        exact ⟨s.trs.inflow, none, .inl rfl, .inr rfl, rfl⟩
      · exact .refl _
    · exact .refl _

theorem left_trs (s : State) (c : Claim) : (s.left c).trs = s.trs := by
  obtain ⟨l, left, -⟩ := left_frame s c
  exact left.trs

theorem leaveList_lets {s : State} (h : s.trs.state = .fault) (c : Claim) : s.trs.lets (leaveList c s).trs := by
  rw [← left_trs s c] at h ⊢
  exact handOutcome_lets h c c.endReason

/-- A claim leaves the list, where the train asks for no other (R82). -/
theorem leaveList_cle {c : Claim} {s : State} (h : c.creator ≠ .train ∨ c.target ≠ .product ∨ rated s.trs.state = false) :
    (leaveList c s).cle = { s.cle with list := s.cle.list.filter fun x => x.sequence != c.sequence } := by
  have quiet : c.creator ≠ .train ∨ c.target ≠ .product ∨ rated (s.left c).trs.state = false := by rwa [left_trs]
  refine (Concludes.handOutcome quiet c.endReason).cle.trans ?_
  unfold State.left State.dropClaim State.setClaims
  simp only [report_cle, finalMessages_cle]
  rfl

theorem leaveList_faultCle {s : State} (h : s.trs.state = .fault) (c : Claim) :
    (leaveList c s).cle = { s.cle with list := s.cle.list.filter fun x => x.sequence != c.sequence } :=
  leaveList_cle (.inr (.inr (by rw [h]; rfl)))

/-! ## Ends of claims in FAULT, beside a claim in CLOSING -/

/-- The train `x` stands in FAULT but for claims that it let go of; the claim is the only one on its valve, and found in CLOSING or gone. -/
structure State.endures (x : Train) (c : Claim) (s : State) : Prop where
  fault : x.faulted
  train : x.lets s.trs
  closing : c.state = .closing
  only : ∀ y ∈ s.cle.list, targetRole y.target = targetRole c.target → y = c
  found : s.claimOf c.sequence = some c ∨ s.claimOf c.sequence = none

namespace State.endures

variable {x : Train} {c : Claim} {s : State}

theorem state (h : s.endures x c) : s.trs.state = .fault := (h.train.faulted h.fault).state

theorem congr {t : State} (h : s.endures x c) (trs : x.lets t.trs) (cle : t.cle = s.cle) : t.endures x c :=
  ⟨h.fault, trs, h.closing, by rw [cle]; exact h.only, by rw [claimOf_congr cle]; exact h.found⟩

/-- A claim leaves the list in FAULT. -/
theorem leaveList (h : s.endures x c) (y : Claim) : (leaveList y s).endures x c := by
  have cle := leaveList_faultCle h.state y
  refine ⟨h.fault, h.train.trans (leaveList_lets h.state y), h.closing, fun z m => ?_, ?_⟩
  · rw [cle] at m
    exact h.only z (List.mem_filter.mp m).1
  · rw [claimOf_congr (t := Machine.leaveList y s) (s := s.dropClaim y.sequence) cle, claimOf_dropClaim]
    split
    · exact .inr rfl
    · exact h.found

/-- A claim other than the one in CLOSING goes to CLOSING in FAULT. -/
theorem toClosing (h : s.endures x c) {y : Claim} (m : y ∈ s.cle.list) (n : y.sequence ≠ c.sequence) (r : EndReason) :
    (toClosing y r s).endures x c := by
  have valve : (closeValve y r s).endures x c := by
    have list : (closeValve y r s).cle = (s.putClaim (y.closes r)).cle := closeRole_cle _ _
    have trs : (closeValve y r s).trs = s.trs :=
      Train.faulted.closeRole (s := s.putClaim (y.closes r)) (h.train.faulted h.fault) _
    refine ⟨h.fault, by rw [trs]; exact h.train, h.closing, fun z mz role => ?_, ?_⟩
    · rw [list] at mz
      rcases mem_putClaim mz with rfl | ⟨mz, -⟩
      · exact absurd (congrArg Claim.sequence (h.only y m role)) n
      · exact h.only z mz role
    · rw [closeValve_claimOf, if_neg n]
      exact h.found
  rw [toClosing_eq]
  split
  · exact valve.leaveList _
  · exact valve

theorem endSeq (h : s.endures x c) (r : EndReason) (q : Nat) : (endSeq r s q).endures x c := by
  unfold Machine.endSeq
  cases e : s.claimOf q with
  | none => exact h
  | some y =>
    dsimp only
    unfold endClaim
    split
    · rename_i flowing
      refine h.toClosing (List.mem_of_find?_eq_some e) (fun same => ?_) r
      rw [claimOf_sequence e] at same
      rcases h.found with found | found
      · rw [← same, e] at found
        cases found
        exact absurd (flowing.symm.trans h.closing) nofun
      · rw [← same, e] at found
        cases found
    · exact h
    · exact h.leaveList _

theorem stopInflow (h : s.endures x c) : (stopInflow s).endures x c := by
  unfold Machine.stopInflow
  split
  · have same : s.trs = { s.trs with ownStop := true } := by rw [← (h.train.faulted h.fault).ownStop]
    exact endures.endSeq (h.congr (t := s.mapTrs fun t => { t with ownStop := true }) (by
      change x.lets { s.trs with ownStop := true }
      rw [← same]
      exact h.train) rfl) _ _
  · exact h

theorem stopFlush (h : s.endures x c) : (stopFlush s).endures x c := by
  unfold Machine.stopFlush
  split
  · exact h.endSeq _ _
  · exact h

/-- The notice that ends the closing finds the claim there, or nobody (R97). -/
theorem cleNotice_cases (h : s.endures x c) {n : Notice} (role : n.role = targetRole c.target)
    (k : n.kind = .travelDone .closed ∨ ∃ y, n.kind = .stuck y) :
    (s.closesAlone c ∧ cleNotice n s = Machine.leaveList c s) ∨ (s.claimOf c.sequence = none ∧ cleNotice n s = s) := by
  rcases h.found with found | none
  · have alone : s.closesAlone c := ⟨List.mem_of_find?_eq_some found, h.closing, h.only⟩
    exact .inl ⟨alone, alone.cleNotice role k⟩
  · refine .inr ⟨none, cleNotice_targetless fun y m e => ?_⟩
    have same := h.only y m (e.trans role)
    exact List.find?_eq_none.mp none y m (by rw [same]; exact beq_self_eq_true _)

theorem cleNotice (h : s.endures x c) {n : Notice} (role : n.role = targetRole c.target)
    (k : n.kind = .travelDone .closed ∨ ∃ y, n.kind = .stuck y) :
    (cleNotice n s).endures x c ∧ (Machine.cleNotice n s).claimOf c.sequence = none := by
  rcases h.cleNotice_cases role k with ⟨-, e⟩ | ⟨none, e⟩ <;> rw [e]
  · refine ⟨h.leaveList c, ?_⟩
    rw [claimOf_congr (t := Machine.leaveList c s) (s := s.dropClaim c.sequence) (leaveList_faultCle h.state c),
      claimOf_dropClaim, if_pos rfl]
  · exact ⟨h, none⟩

end State.endures

end Sys2Proof.Machine
end

section

namespace Sys2Proof.Machine

/-! ## The entry to FAULT closes all three (R163) -/

/-- The entry to FAULT with both pumps and DIVERT requested off, before its claims. -/
def State.faultClosed (s : State) (k : FaultCause) : State := (closeRole .divert (s.pumpsOff k)).1

section

variable (s : State) (k : FaultCause)

theorem faultEntered_trs : (s.faultEntered k).trs =
    { stillTimers (changed .fault .none k .none s.trs) with flushResult := .none, ownStop := true } := by
  obtain ⟨l, e, -⟩ := enterTrain_ring .fault .none k .none s
  unfold State.faultEntered
  rw [e]
  rfl

theorem faultEntered_faulted : (s.faultEntered k).trs.faulted := by
  rw [faultEntered_trs]
  exact ⟨rfl, rfl, rfl, rfl, rfl⟩

/-- The record of the entry is made first (assumption log 10). -/
theorem faultEntered_tells : s.tellsTrain (s.faultEntered k) 0 .fault .none k .none ⟨0, 0⟩ := enterTrain_tells rfl .none k .none s

theorem faultClosed_works : Works (s.faultEntered k) (s.faultClosed k) :=
  closeRole_works (closeRole_works (closeRole_works (.refl _) .highpress) .feed) .divert

theorem faultClosed_closes : Closes (s.faultEntered k) (s.faultClosed k) :=
  ((closeRole_closes _ _).trans (closeRole_closes _ _)).trans (closeRole_closes _ _)

theorem faultClosed_trs : (s.faultClosed k).trs = (s.faultEntered k).trs := by
  have highpress := (faultEntered_faulted s k).closeRole .highpress
  have feed := (show (closeRole .highpress (s.faultEntered k)).1.trs.faulted by
    rw [highpress]; exact faultEntered_faulted s k).closeRole .feed
  have divert := (show (s.pumpsOff k).trs.faulted by
    unfold State.pumpsOff; rw [feed, highpress]; exact faultEntered_faulted s k).closeRole .divert
  exact divert.trans (feed.trans highpress)

theorem faultClosed_cle : (s.faultClosed k).cle = s.cle := by
  obtain ⟨l, e, -⟩ := enterTrain_ring .fault .none k .none s
  rw [faultClosed_closes s k]
  unfold State.faultEntered
  rw [e]
  rfl

theorem faultClosed_bc : (s.faultClosed k).bc = s.bc := by
  obtain ⟨l, e, -⟩ := enterTrain_ring .fault .none k .none s
  rw [faultClosed_closes s k]
  unfold State.faultEntered
  rw [e]
  rfl

/-- Only the TRAIN record and the WINDOW record PUMP-OFF are made (R51, R145). -/
theorem faultClosed_length : s.port.ring.length ≤ (s.faultClosed k).port.ring.length ∧
    (s.faultClosed k).port.ring.length ≤ s.port.ring.length + 2 := by
  have entered : Works s (s.faultEntered k) := mapTrs_works (enterTrain_works (.refl s) _ _ _ _) _
  have least := (entered.trans (faultClosed_works s k)).grows.length
  obtain ⟨l, e, most⟩ := enterTrain_ring .fault .none k .none s
  have first : (s.faultEntered k).port.ring.length ≤ s.port.ring.length + 1 := by
    unfold State.faultEntered
    rw [e]
    exact most
  have highpress := closeRole_length .highpress (s.faultEntered k)
  have feed := (closeRole_serves (r := .feed) nofun (closeRole .highpress (s.faultEntered k)).1).port
  have divert := (closeRole_serves (r := .divert) nofun (s.pumpsOff k)).port
  have still : (s.faultClosed k).port = (closeRole .highpress (s.faultEntered k)).1.port := divert.trans feed
  exact ⟨least, by rw [still]; omega⟩

theorem faultClosed_idle : (s.faultClosed k).trainIdle := by
  have feed : (s.pumpsOff k).commandOf .feed = .safe := closeRole_command _ _
  have highpress : (s.pumpsOff k).commandOf .highpress = .safe :=
    (closeRole_command_other (by nofun) _).trans (closeRole_command _ _)
  have divert : (s.faultClosed k).commandOf .divert = .safe := closeRole_command _ _
  unfold State.trainIdle
  rw [divert]
  unfold State.faultClosed
  rw [closeRole_command_other (by nofun), closeRole_command_other (by nofun), feed, highpress]
  exact ⟨nofun, nofun, nofun⟩

end

theorem OnlyCloses.undrivenOf {s t : State} (h : OnlyCloses s t) {r : Role} (k : s.commandOf r ≠ .drive) : t.commandOf r ≠ .drive := by
  unfold State.commandOf at k ⊢
  rw [actWith_congr h.setup]
  cases e : s.actWith r with
  | none => nofun
  | some a =>
    rw [e] at k
    exact h.undriven a k

/-- What the claims do behind the entry to FAULT leaves it a fault with its record (R145, R163). -/
theorem faultTold_of {s t : State} {k : FaultCause} (train : (s.faultEntered k).trs.lets t.trs)
    (closes : OnlyCloses (s.faultClosed k) t) (works : Works (s.faultClosed k) t) : s.faultTold t k 0 := by
  obtain ⟨feed, highpress, divert⟩ := faultClosed_idle s k
  have idle : t.trainIdle := ⟨closes.undrivenOf feed, closes.undrivenOf highpress, closes.undrivenOf divert⟩
  refine ⟨?_, ((faultEntered_tells s k).later (faultClosed_works s k)).later works⟩
  obtain ⟨i, f, -, -, e⟩ := train
  rw [faultEntered_trs] at e
  unfold State.faultOf
  rw [e]
  exact ⟨rfl, rfl, idle, rfl, rfl, rfl, rfl, rfl, rfl, rfl, rfl, rfl, rfl, rfl, rfl⟩

/-! ## A *stuck* of DIVERT under a claim in CLOSING (R97, R163) -/

theorem closeRole_silence (r : Role) (s : State) : (closeRole r s).2 = [] ∨
    ∃ n, (closeRole r s).2 = [n] ∧ n.role = r ∧ n.kind = .travelDone .closed := by
  obtain ⟨one, all⟩ := closeRole_told r s
  cases e : (closeRole r s).2 with
  | nil => exact .inl rfl
  | cons n l =>
    rw [e] at one all
    obtain ⟨role, kind, -⟩ := all n (List.mem_cons_self ..)
    have none : l = [] := by simpa using one
    exact .inr ⟨n, by rw [none], role, kind⟩

theorem stopInflow_still {s : State} (own : s.trs.ownStop = true)
    (h : ∀ q, s.trs.inflow = some q → ∀ y, s.claimOf q = some y → y.state = .closing) : stopInflow s = s := by
  have same : (s.mapTrs fun t => { t with ownStop := true }) = s := by
    unfold State.mapTrs
    rw [← own]
    rfl
  unfold stopInflow
  split
  · rename_i q inflow
    rw [same]
    unfold endSeq
    cases e : s.claimOf q with
    | none => rfl
    | some y =>
      dsimp only
      unfold endClaim
      rw [h q inflow y e]
  · rfl

theorem stopFlush_still {s : State} (h : s.trs.flush = none) : stopFlush s = s := by
  unfold stopFlush
  rw [h]

section

variable {s : State} {c : Claim} {k : FaultCause} (alone : s.closesAlone c) (divert : targetRole c.target = .divert)

include alone divert

omit divert in
theorem faultClosed_endures (found : s.claimOf c.sequence = some c) : (s.faultClosed k).endures (s.faultEntered k).trs c := by
  refine ⟨faultEntered_faulted s k, by rw [faultClosed_trs]; exact .refl _, alone.closing, ?_, .inl ?_⟩
  · rw [faultClosed_cle]
    exact alone.only
  · rw [claimOf_congr (faultClosed_cle s k), found]

/-- The entry to FAULT beside a claim in CLOSING on DIVERT (R163). -/
theorem faultTrain_endures (h : s.trs.state ≠ .fault) (found : s.claimOf c.sequence = some c) :
    (faultTrain k s).endures (s.faultEntered k).trs c := by
  have closed := faultClosed_endures (k := k) alone found
  rw [faultTrain_eq h]
  refine State.endures.stopFlush (State.endures.stopInflow ?_)
  rcases closeRole_silence .divert (s.pumpsOff k) with e | ⟨n, e, role, kind⟩ <;> rw [e]
  · exact closed
  · exact (closed.cleNotice (role.trans divert.symm) (.inl kind)).1

/-- Where the train holds no other claim, the claim leaves and nothing else ends (R97, R163). -/
theorem faultTrain_alone (h : s.trs.state ≠ .fault) (found : s.claimOf c.sequence = some c) (flush : s.trs.flush = none)
    (inflow : s.trs.inflow = none ∨ s.trs.inflow = some c.sequence) {n : Notice} (role : n.role = targetRole c.target)
    {x : Travel} (stuck : n.kind = .stuck x) : cleNotice n (faultTrain k s) = leaveList c (s.faultClosed k) := by
  have closed := faultClosed_endures (k := k) alone found
  have alone' : (s.faultClosed k).closesAlone c := alone.congr (faultClosed_cle s k)
  have entered : (s.faultEntered k).trs.inflow = s.trs.inflow ∧ (s.faultEntered k).trs.flush = s.trs.flush := by
    rw [faultEntered_trs]
    exact ⟨rfl, rfl⟩
  have still : ∀ t, t.endures (s.faultEntered k).trs c → stopFlush (stopInflow t) = t := by
    intro t e
    obtain ⟨i, f, hi, hf, trs⟩ := e.train
    have none : t.trs.flush = none := by
      rw [trs]
      exact hf.elim (fun same => same.trans (entered.2.trans flush)) id
    rw [stopInflow_still (e.train.faulted e.fault).ownStop fun q some y of => ?_, stopFlush_still none]
    have own : q = c.sequence := by
      rw [trs] at some
      rcases hi with hi | hi <;> rw [hi] at some
      · rw [entered.1] at some
        rcases inflow with inflow | inflow <;> rw [inflow] at some <;> cases some
        rfl
      · cases some
    rw [own] at of
    rcases e.found with found | found <;> rw [found] at of <;> cases of
    exact e.closing
  rw [faultTrain_eq h]
  change cleNotice n (stopFlush (stopInflow (cleNotices (closeRole .divert (s.pumpsOff k)).2 (s.faultClosed k)))) = _
  rcases closeRole_silence .divert (s.pumpsOff k) with e | ⟨m, e, role', kind⟩ <;> rw [e]
  · rw [show cleNotices [] (s.faultClosed k) = s.faultClosed k from rfl, still _ closed, alone'.cleNotice role (.inr ⟨x, stuck⟩)]
  · have first := alone'.cleNotice (role'.trans divert.symm) (.inl kind)
    have gone := closed.leaveList c
    have none : (leaveList c (s.faultClosed k)).claimOf c.sequence = none := by
      rw [← first]
      exact (closed.cleNotice (role'.trans divert.symm) (.inl kind)).2
    rw [show cleNotices [m] (s.faultClosed k) = cleNotice m (s.faultClosed k) from rfl, first, still _ gone]
    rcases gone.cleNotice_cases role (.inr ⟨x, stuck⟩) with ⟨there, -⟩ | ⟨-, e⟩
    · exact absurd (List.find?_eq_none.mp none c there.mem (beq_self_eq_true _)) not_false
    · exact e

end

end Sys2Proof.Machine
end

section

namespace Sys2Proof.Machine

/-! ## An outlet valve with no claim on it (R67, R68) -/

/-- The end of a travel of an outlet valve with no claim on it (R67, R68). -/
theorem outlet_travels {a p : Nat} {u : ActuatorSetup} {rest : List Due} {s : State} (set : s.actSetup a = some u)
    (role : u.role = .outlet p) (free : ∀ c ∈ s.cle.list, targetRole c.target ≠ .outlet p)
    (due : s.dueNext (.travelTimeEnd a) rest) (moving : (s.actOf a).travel = .opening ∨ (s.actOf a).travel = .closing)
    (limit : s.endLimit a u.kind ((s.actOf a).travel == .opening) = none) (late : 10 * u.travel ≤ (s.actOf a).timer) :
    exec (.travelTimeEnd a) s = .next { s with
      act := put s.act a { s.actOf a with travel := if (s.actOf a).travel = .opening then .opened else .closed }
      due := rest } := by
  have reach : reached ((s.actOf a).travel == .opening) = if (s.actOf a).travel = .opening then .opened else .closed := by
    unfold reached
    simp only [beq_iff_eq]
  rw [exec_travelTimeEnd due, travelTimeEnd_ends (s := s.setDue rest) set moving limit late, dispatch_valve (x := .drawPort p) role nofun,
    cleNotice_targetless (by rw [role]; exact free)]
  exact congrArg (fun x => Host.Outcome.next ((s.setDue rest).travelled a x)) reach

theorem outlet_sticks {a p : Nat} {u : ActuatorSetup} {rest : List Due} {s : State} (set : s.actSetup a = some u)
    (role : u.role = .outlet p) (free : ∀ c ∈ s.cle.list, targetRole c.target ≠ .outlet p)
    (due : s.dueNext (.travelStuck a) rest) (moving : (s.actOf a).travel = .opening ∨ (s.actOf a).travel = .closing)
    (late : 10 * u.travel + 200 ≤ (s.actOf a).timer) (room : s.port.ring.length < 32) :
    exec (.travelStuck a) s = .next { s with
      act := put s.act a { s.actOf a with command := .safe, travel := .stuck }
      port := { s.port with ring := s.port.ring ++ [⟨.actuator a u.role (s.actOf a).travel .travel, s.bc.round, false⟩] }
      due := rest } := by
  have cle : ((s.setDue rest).stuckAt a u).cle = s.cle := report_cle _ _
  rw [exec_travelStuck due, travelStuck_sticks (s := s.setDue rest) set moving (by rw [role]; nofun) late,
    dispatch_valve (x := .drawPort p) role nofun, cleNotice_targetless (by rw [role, cle]; exact free)]
  unfold State.stuckAt report
  rw [if_pos (by exact room)]
  rfl


/-! ## The end of the closing of a claim (R94, R97) -/

section

variable {s : State} {a : Nat} {u : ActuatorSetup} {c : Claim} {r : EndReason} {rest : List Due} (set : s.actSetup a = some u)

/-- A *stuck* makes one record (R68). -/
theorem stuckAt_length (s : State) (a : Nat) (u : ActuatorSetup) : s.port.ring.length ≤ (s.stuckAt a u).port.ring.length ∧
    (s.stuckAt a u).port.ring.length ≤ s.port.ring.length + 1 :=
  report_length (.actuator a u.role (s.actOf a).travel .travel) (s.putAct a { s.actOf a with command := .safe, travel := .stuck })

theorem stuckAt_frame (s : State) (a : Nat) (u : ActuatorSetup) : (s.stuckAt a u).cle = s.cle ∧ (s.stuckAt a u).bc = s.bc ∧
    (s.stuckAt a u).trs = s.trs := ⟨report_cle _ _, report_bc _ _, report_trs _ _⟩

include set in
theorem stuckAt_works : Works s (s.stuckAt a u) := report_works (putAct_works (.refl s) a _ (by rw [set]; rfl)) _

include set in
theorem stuckAt_actOf : (s.stuckAt a u).actOf a = { s.actOf a with command := .safe, travel := .stuck } :=
  (State.vacant.actOf_congr (State.vacant.report_act _ _) a).trans (actOf_put set _)

/-- What ends a closing behind records of other blocks ends it for the state before them. -/
theorem State.endsClosing.behind {t w : State} {n m : Nat} (h : t.endsClosing w c r n) (cle : t.cle = s.cle) (bc : t.bc = s.bc)
    (least : s.port.ring.length ≤ t.port.ring.length) (most : t.port.ring.length ≤ s.port.ring.length + m) :
    s.endsClosing w c r (m + n) := by
  refine ⟨by rw [h.cle, cle], fun v full => ?_, h.told.earlier least most⟩
  have offered := h.offered
  unfold State.offered State.serving at offered
  rw [bc] at offered
  exact offered v full

variable (closing : c.state = .closing) (reason : c.reason = some r)

include closing reason

/-- A *stuck* beside the train ends the closing behind its record (R97, assumption log 32). -/
theorem stuck_ends (quiet : c.creator ≠ .train ∨ c.target ≠ .product ∨ rated s.trs.state = false) :
    s.endsClosing (leaveList c (s.stuckAt a u)) c r 1 := by
  obtain ⟨cle, bc, trs⟩ := stuckAt_frame s a u
  obtain ⟨least, most⟩ := stuckAt_length s a u
  exact (leaveList_ends closing reason (by rwa [trs])).behind cle bc least most

/-- A *stuck* of DIVERT whose fault ends no other claim ends the closing behind three records (R97, R163, assumption log 10). -/
theorem fault_ends (k : FaultCause) : s.endsClosing (leaveList c ((s.stuckAt a u).faultClosed k)) c r 3 := by
  obtain ⟨cle, bc, -⟩ := stuckAt_frame s a u
  obtain ⟨least, most⟩ := stuckAt_length s a u
  obtain ⟨least', most'⟩ := faultClosed_length (s.stuckAt a u) k
  have quiet : rated ((s.stuckAt a u).faultClosed k).trs.state = false := by
    rw [faultClosed_trs, (faultEntered_faulted _ k).state]
    rfl
  exact (leaveList_ends closing reason (.inr (.inr quiet))).behind ((faultClosed_cle _ k).trans cle)
    ((faultClosed_bc _ k).trans bc) (by omega) (by omega)

end

/-! ## The requests and the travels together -/

theorem quiet_of_rest {c : Claim} {x : TrainState}
    (h : c.creator ≠ .train ∨ c.target = .flush ∨ (x ≠ .producing ∧ x ≠ .diverting)) :
    c.creator ≠ .train ∨ c.target ≠ .product ∨ rated x = false := by
  rcases h with h | h | ⟨producing, diverting⟩
  · exact .inl h
  · exact .inr (.inl (by rw [h]; nofun))
  · refine .inr (.inr ?_)
    cases x with
    | producing => exact absurd rfl producing
    | diverting => exact absurd rfl diverting
    | _ => rfl

theorem leaveList_act {c : Claim} {s : State} (quiet : c.creator ≠ .train ∨ c.target ≠ .product ∨ rated s.trs.state = false) :
    (leaveList c s).act = s.act := by
  obtain ⟨l, left, -⟩ := left_frame s c
  have concludes : Concludes (s.left c) (leaveList c s) := .handOutcome (by rwa [left_trs]) c.endReason
  rw [concludes.act, left]
  rfl

/-- A fill's claim that leaves the list leaves its fill IDLE (R126). -/
theorem leaveList_fill {c : Claim} (s : State) : ∀ k, c.target = .fillInlet k → c.creator = .fill → k < 2 →
    ((leaveList c s).tankOf k).fill = .idle ∧ ((leaveList c s).tankOf k).live = none :=
  fun _ target creator two => handOutcome_fill creator target two c.endReason _

section

variable {s : State} {a : Nat} {u : ActuatorSetup} {c : Claim} {r : EndReason} {rest : List Due} (set : s.actSetup a = some u)
  (reason : c.reason = some r) (alone : s.closesAlone c)

include set reason alone

/-- The state behind the closing travel of a claim's valve, its claim gone (R94). -/
theorem travelled_ends {t : State} (e : t = leaveList c ((s.setDue rest).travelled a .closed)) :
    t.due = rest ∧ (t.actOf a).travel = .closed ∧ (∀ x ∈ t.cle.list, x.sequence = c.sequence → x.state ≠ .closing) ∧
      s.offeredFirst t (c.endsWith r) ∧ s.tells t 0 (.claimEnd c .flowing) ∧ t.bc.round = s.bc.round := by
  subst e
  have works := leaveList_works (.refl ((s.setDue rest).travelled a .closed)) c
  have ends := left_ends alone.closing reason ((s.setDue rest).travelled a .closed)
  have hand := handOutcome_works (.refl (((s.setDue rest).travelled a .closed).left c)) c c.endReason
  refine ⟨works.due, (OnlyCloses.reacts.leaveList c _).closed a ?_, leaveList_gone alone.closing reason _,
    Works.offeredFirst (s := s) ends.offered hand, ends.told.later hand, by rw [works.bc]; rfl⟩
  exact congrArg Actuator.travel (actOf_put (s := s.setDue rest) set _)

end

/-- What the claims do behind the entry to FAULT closes more, and adds to the state. -/
theorem faultTrain_behind {s : State} (h : s.trs.state ≠ .fault) (k : FaultCause) :
    OnlyCloses (s.faultClosed k) (faultTrain k s) ∧ Works (s.faultClosed k) (faultTrain k s) := by
  have closes := OnlyCloses.reacts
  rw [faultTrain_eq h]
  exact ⟨closes.trans (closes.trans (closes.cleNotices _ _) (closes.stopInflow _)) (closes.stopFlush _),
    stopFlush_works (stopInflow_works (cleNotices_works (.refl _) _))⟩

section

variable {s : State} {a : Nat} {u : ActuatorSetup} {c : Claim} {rest : List Due} (set : s.actSetup a = some u)
  (valve : s.actWith (targetRole c.target) = some a) (alone : s.closesAlone c) (divert : targetRole c.target = .divert)

include set valve alone divert

/-- A *stuck* of DIVERT reaches the train before the claim (R163, Table 4-4). -/
theorem divert_sticks (due : s.dueNext (.travelStuck a) rest) (moving : (s.actOf a).travel = .opening ∨ (s.actOf a).travel = .closing)
    (late : 10 * u.travel + 200 ≤ (s.actOf a).timer) : exec (.travelStuck a) s =
      .next (cleNotice ⟨a, u.role, .stuck (s.actOf a).travel⟩ (faultTrain .divert ((s.setDue rest).stuckAt a u))) := by
  have alone' : ((s.setDue rest).stuckAt a u).closesAlone c := alone.congr (stuckAt_frame _ a u).1
  have role : u.role = targetRole c.target := actWith_role valve set
  rw [valve_sticks set valve due moving late,
    alone'.dispatch_divert (n := ⟨a, u.role, .stuck (s.actOf a).travel⟩) role divert]
  unfold trsNotice
  rw [show u.role = .divert from role.trans divert]

/-- A *stuck* of DIVERT is the train's fault, and ends the closing too (R97, R163). -/
theorem divert_faults (found : s.claimOf c.sequence = some c) (h : s.trs.state ≠ .fault) {t : State} {x : Travel}
    (e : t = cleNotice ⟨a, u.role, .stuck x⟩ (faultTrain .divert ((s.setDue rest).stuckAt a u))) :
    t.due = rest ∧ t.claimOf c.sequence = none ∧ s.faultTold t .divert 1 ∧ (t.actOf a).command = .safe := by
  obtain ⟨cle, bc, trs⟩ := stuckAt_frame (s.setDue rest) a u
  obtain ⟨least, most⟩ := stuckAt_length (s.setDue rest) a u
  have safe : (((s.setDue rest).stuckAt a u).actOf a).command = .safe :=
    congrArg Actuator.command (stuckAt_actOf (s := s.setDue rest) set)
  have due : ((s.setDue rest).stuckAt a u).due = rest := (report_works (.refl _) _).due
  have trs' : ((s.setDue rest).stuckAt a u).trs = s.trs := trs
  have role : u.role = targetRole c.target := actWith_role valve set
  have alone' : ((s.setDue rest).stuckAt a u).closesAlone c := alone.congr cle
  have found' : ((s.setDue rest).stuckAt a u).claimOf c.sequence = some c := (claimOf_congr (s := s) cle _).trans found
  generalize (s.setDue rest).stuckAt a u = y at e least most safe due trs' alone' found'
  have faulty : y.trs.state ≠ .fault := by rwa [trs']
  obtain ⟨closes, works⟩ := faultTrain_behind faulty .divert
  obtain ⟨endures, gone⟩ := (faultTrain_endures (k := .divert) alone' divert faulty found').cleNotice
    (n := ⟨a, u.role, .stuck x⟩) role (.inr ⟨x, rfl⟩)
  have behind := OnlyCloses.reacts.cleNotice ⟨a, u.role, .stuck x⟩ (faultTrain .divert y)
  rw [← e] at endures gone behind
  obtain ⟨fault, told⟩ := faultTold_of (s := y) endures.train (closes.trans behind) (e ▸ cleNotice_works works _)
  have all : Works y t := e ▸ cleNotice_works (faultTrain_works (.refl y) .divert) _
  have first : OnlyCloses y t := OnlyCloses.reacts.trans (OnlyCloses.reacts.faultTrain .divert y) behind
  unfold State.faultOf at fault
  unfold State.tellsTrain at told
  rw [trs'] at fault told
  exact ⟨all.due.trans due, gone, ⟨fault, told.earlier (n := 1) least most⟩, first.safe a safe⟩

end

/-- Settles O43: the requests by their branches, the travels by their notice, which finds no claim, or one in CLOSING that leaves. -/
theorem actuatorsMove : Obligations.ActuatorsMove := by
  refine ⟨fun a u s set _ => ⟨openReq_driven set, fun idle yes => ⟨openReq_drives set idle yes, fun opened => ?_,
      openReq_opens set idle yes⟩, openReq_denied set, closeReq_command set, closeReq_still set, closeReq_closes set,
      fun h => drive_iff h a⟩,
    fun a p u rest s set role free => ⟨outlet_travels set role free, outlet_sticks set role free⟩,
    fun a q u c r rest s set valve found closing reason only => ?_⟩
  · rw [openReq_opened set idle yes opened, actOf_put set]
    exact ⟨rfl, opened⟩
  · have alone : s.closesAlone c := ⟨List.mem_of_find?_eq_some found, closing, only⟩
    have own : c.sequence = q := claimOf_sequence found
    subst own
    refine ⟨fun due travel limit late => ?_, fun due moving late => ?_⟩
    · obtain ⟨rest', closed, gone, first, told, round⟩ := travelled_ends (rest := rest) set reason alone rfl
      refine ⟨_, closing_travels set valve alone due travel limit late, rest', closed, gone, first,
        fun room => reported_of_tells told room round, fun quiet => ?_, leaveList_fill _⟩
      obtain ⟨cle, offered, -⟩ := leaveList_ends closing reason (s := (s.setDue rest).travelled a .closed) (quiet_of_rest quiet)
      exact ⟨cle, offered⟩
    · by_cases plain : targetRole c.target ≠ .divert ∨ s.trs.state = .fault
      · have quiet : c.creator ≠ .train ∨ c.target ≠ .product ∨ rated s.trs.state = false := by
          rcases plain with d | f
          · exact .inr (.inl fun e => d (by rw [e]; rfl))
          · exact .inr (.inr (by rw [f]; rfl))
        have ends := stuck_ends (s := s.setDue rest) (a := a) (u := u) closing reason quiet
        have works : Works (s.setDue rest) (leaveList c ((s.setDue rest).stuckAt a u)) :=
          leaveList_works (stuckAt_works (s := s.setDue rest) set) c
        have act : (leaveList c ((s.setDue rest).stuckAt a u)).act = ((s.setDue rest).stuckAt a u).act :=
          leaveList_act (by rwa [(stuckAt_frame (s.setDue rest) a u).2.2])
        exact ⟨_, closing_sticks set valve alone due moving late plain, works.due, claimOf_ended ends,
          fun _ => ⟨(State.vacant.actOf_congr act a).trans (stuckAt_actOf (s := s.setDue rest) set), ends.cle, ends.offered,
            fun room => reported_of_tells ends.told (by exact Nat.add_lt_of_lt_sub room) (by rw [works.bc]; rfl), leaveList_fill _⟩,
          fun d f => absurd plain (by simp [d, f])⟩
      · obtain ⟨divert, live⟩ : targetRole c.target = .divert ∧ s.trs.state ≠ .fault := by simpa [not_or] using plain
        obtain ⟨due', gone, told, safe⟩ := divert_faults (rest := rest) set valve alone divert found live rfl
        refine ⟨_, divert_sticks set valve alone divert due moving late, due', gone, fun d => absurd d plain,
          fun _ _ => ⟨told, safe, fun flush inflow => ?_⟩⟩
        obtain ⟨cle, -, trs⟩ := stuckAt_frame (s.setDue rest) a u
        have ends := fault_ends (s := s.setDue rest) (a := a) (u := u) closing reason .divert
        have works := cleNotice_works (faultTrain_works (stuckAt_works (s := s.setDue rest) set) .divert)
          ⟨a, u.role, .stuck (s.actOf a).travel⟩
        have whole : cleNotice ⟨a, u.role, .stuck (s.actOf a).travel⟩ (faultTrain .divert ((s.setDue rest).stuckAt a u)) =
            leaveList c (((s.setDue rest).stuckAt a u).faultClosed .divert) :=
          faultTrain_alone (alone.congr cle) divert (by rwa [trs]) ((claimOf_congr (s := s) cle _).trans found) (by rwa [trs])
            (by rwa [trs]) (actWith_role valve set) rfl
        rw [← whole] at ends
        exact ⟨ends.cle, ends.offered,
          fun room => reported_of_tells ends.told (by exact Nat.add_lt_of_lt_sub room) (by rw [works.bc]; rfl)⟩

end Sys2Proof.Machine
end

section

namespace Sys2Proof.Machine

/-! ## The group number of the scanner decides nothing in a sampling (R58) -/

/-- The state with another group number at the scanner. Every operation of a sampling commutes with the change: what it reads and what it
writes first, then the operations in the order of the model. -/
def State.regroup (s : State) (n : Nat) : State := s.setFsc { s.fsc with group := n }

section

variable (s : State) (n : Nat)

@[simp] theorem State.regroup_setup : (s.regroup n).setup = s.setup := rfl
@[simp] theorem State.regroup_bc : (s.regroup n).bc = s.bc := rfl
@[simp] theorem State.regroup_mch : (s.regroup n).mch = s.mch := rfl
@[simp] theorem State.regroup_cle : (s.regroup n).cle = s.cle := rfl
@[simp] theorem State.regroup_tkm : (s.regroup n).tkm = s.tkm := rfl
@[simp] theorem State.regroup_trs : (s.regroup n).trs = s.trs := rfl
@[simp] theorem State.regroup_port : (s.regroup n).port = s.port := rfl
@[simp] theorem State.regroup_serving : (s.regroup n).serving = s.serving := rfl
@[simp] theorem State.regroup_startScan : (s.regroup n).startScan = s.startScan := rfl
@[simp] theorem State.regroup_mayAsk : (s.regroup n).mayAsk = s.mayAsk := rfl
@[simp] theorem State.regroup_passOver : (s.regroup n).passOver = s.passOver := rfl
@[simp] theorem State.regroup_lastFailure : (s.regroup n).lastFailure = s.lastFailure := rfl
@[simp] theorem State.regroup_destination : (s.regroup n).destination = s.destination := rfl
@[simp] theorem State.regroup_destEntry : (s.regroup n).destEntry = s.destEntry := rfl
@[simp] theorem State.regroup_contactSetup (c : Nat) : (s.regroup n).contactSetup c = s.contactSetup c := rfl
@[simp] theorem State.regroup_contact (c : Nat) : (s.regroup n).contact c = s.contact c := rfl
@[simp] theorem State.regroup_actSetup (a : Nat) : (s.regroup n).actSetup a = s.actSetup a := rfl
@[simp] theorem State.regroup_actWith (r : Role) : (s.regroup n).actWith r = s.actWith r := rfl
@[simp] theorem State.regroup_actOf (a : Nat) : (s.regroup n).actOf a = s.actOf a := rfl
@[simp] theorem State.regroup_travelOf (r : Role) : (s.regroup n).travelOf r = s.travelOf r := rfl
@[simp] theorem State.regroup_commandOf (r : Role) : (s.regroup n).commandOf r = s.commandOf r := rfl
@[simp] theorem State.regroup_tankOf (t : Nat) : (s.regroup n).tankOf t = s.tankOf t := rfl
@[simp] theorem State.regroup_segOf (i : Nat) : (s.regroup n).segOf i = s.segOf i := rfl
@[simp] theorem State.regroup_flowingOn (r : Role) : (s.regroup n).flowingOn r = s.flowingOn r := rfl
@[simp] theorem State.regroup_made (r : ContactRole) : (s.regroup n).made r = s.made r := rfl
@[simp] theorem State.regroup_claimOf (q : Nat) : (s.regroup n).claimOf q = s.claimOf q := rfl
@[simp] theorem State.regroup_atEnd (a : Nat) (k : Kind) (o : Bool) : (s.regroup n).atEnd a k o = s.atEnd a k o := rfl
@[simp] theorem State.regroup_fits (t : Nat) (k : ClaimKind) (c v : Nat) : (s.regroup n).fits t k c v = s.fits t k c v := rfl
@[simp] theorem createRefusal_regroup (x : NewClaim) : createRefusal (s.regroup n) x = createRefusal s x := rfl
@[simp] theorem State.regroup_setPort (x : Port) : (s.regroup n).setPort x = (s.setPort x).regroup n := rfl
@[simp] theorem State.regroup_setMch (x : Channels) : (s.regroup n).setMch x = (s.setMch x).regroup n := rfl
@[simp] theorem State.regroup_setTrs (x : Train) : (s.regroup n).setTrs x = (s.setTrs x).regroup n := rfl
@[simp] theorem State.regroup_setCle (x : Claims) : (s.regroup n).setCle x = (s.setCle x).regroup n := rfl
@[simp] theorem State.regroup_setBc (x : BusCtl) : (s.regroup n).setBc x = (s.setBc x).regroup n := rfl
@[simp] theorem State.regroup_putAct (a : Nat) (x : Actuator) : (s.regroup n).putAct a x = (s.putAct a x).regroup n := rfl
@[simp] theorem State.regroup_putContact (c : Nat) (x : Contact) : (s.regroup n).putContact c x = (s.putContact c x).regroup n := rfl
@[simp] theorem State.regroup_putClaim (c : Claim) : (s.regroup n).putClaim c = (s.putClaim c).regroup n := rfl
@[simp] theorem State.regroup_putTank (t : Nat) (x : TankState) : (s.regroup n).putTank t x = (s.putTank t x).regroup n := rfl
@[simp] theorem State.regroup_mapTrs (f : Train → Train) : (s.regroup n).mapTrs f = (s.mapTrs f).regroup n := rfl
@[simp] theorem State.regroup_dropClaim (q : Nat) : (s.regroup n).dropClaim q = (s.dropClaim q).regroup n := rfl
@[simp] theorem State.regroup_putSeg (i : Nat) (x : Segment) : (s.regroup n).putSeg i x = (s.putSeg i x).regroup n := rfl
@[simp] theorem State.regroup_setGrants (t : Nat) (l : List Grant) : (s.regroup n).setGrants t l = (s.setGrants t l).regroup n := rfl
@[simp] theorem State.regroup_setMemory (l : List Revoked) : (s.regroup n).setMemory l = (s.setMemory l).regroup n := rfl
@[simp] theorem State.regroup_setTankWaits (l : List TankWait) : (s.regroup n).setTankWaits l = (s.setTankWaits l).regroup n := rfl

end

@[simp] theorem ite_regroup {p : Prop} [Decidable p] (s t : State) (n : Nat) :
    (if p then s.regroup n else t.regroup n) = (if p then s else t).regroup n := (apply_ite (State.regroup · n) p s t).symm

theorem foldl_regroup {α : Type} {f : State → α → State} (h : ∀ s a n, f (s.regroup n) a = (f s a).regroup n) (l : List α)
    (s : State) (n : Nat) : l.foldl f (s.regroup n) = (l.foldl f s).regroup n :=
  List.foldl_hom (State.regroup · n) fun s a => h s a n

section

variable (s : State) (n : Nat)

@[simp] theorem report_regroup (b : ReportBody) : report b (s.regroup n) = (report b s).regroup n := by
  unfold report
  simp only [State.regroup_port, State.regroup_bc, State.regroup_setPort]
  exact ite_regroup _ _ _

@[simp] theorem reportQuality_regroup (w : WindowState) (c : WindowCause) :
    reportQuality w c (s.regroup n) = (reportQuality w c s).regroup n := by
  simp [reportQuality]

@[simp] theorem qualityOff_regroup : qualityOff (s.regroup n) = (qualityOff s).regroup n := by
  simp [qualityOff]

@[simp] theorem stopQuality_regroup (u : ActuatorSetup) : stopQuality u (s.regroup n) = (stopQuality u s).regroup n := by
  simp [stopQuality]

/-- A state with what an operation answered, under another group number. -/
def regroupWith {α : Type} (x : State × α) (n : Nat) : State × α := (x.1.regroup n, x.2)

@[simp] theorem regroupWith_fst {α : Type} (x : State × α) : (regroupWith x n).1 = x.1.regroup n := rfl
@[simp] theorem regroupWith_snd {α : Type} (x : State × α) : (regroupWith x n).2 = x.2 := rfl

@[simp] theorem regroup_with {α : Type} (x : α) : (s.regroup n, x) = regroupWith (s, x) n := rfl

@[simp] theorem ite_regroupWith {p : Prop} [Decidable p] {α : Type} (x y : State × α) :
    (if p then regroupWith x n else regroupWith y n) = regroupWith (if p then x else y) n :=
  (apply_ite (regroupWith · n) p x y).symm

@[simp] theorem startTravel_regroup (a : Nat) (u : ActuatorSetup) (o : Bool) :
    startTravel a u o (s.regroup n) = regroupWith (startTravel a u o s) n := by
  unfold startTravel
  simp only [State.regroup_atEnd, State.regroup_actOf, State.regroup_putAct, regroup_with]
  exact ite_regroupWith _ _ _

@[simp] theorem closeReq_regroup (a : Nat) : closeReq a (s.regroup n) = regroupWith (closeReq a s) n := by
  unfold closeReq
  simp only [State.regroup_actSetup]
  split
  · rfl
  · simp only [State.regroup_actOf, State.regroup_putAct, stopQuality_regroup, ite_regroup, startTravel_regroup, regroup_with]
    exact ite_regroupWith _ _ _

@[simp] theorem closeRole_regroup (r : Role) : closeRole r (s.regroup n) = regroupWith (closeRole r s) n := by
  unfold closeRole
  simp only [State.regroup_actWith]
  split <;> simp

@[simp] theorem offer_regroup (m : Message) : offer m (s.regroup n) = regroupWith (offer m s) n := by
  unfold offer
  simp only [State.regroup_serving, State.regroup_bc, State.regroup_setBc, regroup_with]
  exact ite_regroupWith _ _ _

@[simp] theorem send_regroup (d : Nat) (b : MsgBody) : send d b (s.regroup n) = (send d b s).regroup n := by
  simp [send]

@[simp] theorem freeSegs_regroup (q : Nat) (l : List SegId) : freeSegs q l (s.regroup n) = (freeSegs q l s).regroup n :=
  foldl_regroup (fun s _ n => send_regroup s n _ _) l s n

@[simp] theorem finalMessages_regroup (c : Claim) : finalMessages c (s.regroup n) = (finalMessages c s).regroup n := by
  unfold finalMessages
  split <;> simp

@[simp] theorem fillOutcome_regroup (i : Nat) (r : EndReason) : fillOutcome i r (s.regroup n) = (fillOutcome i r s).regroup n := by
  unfold fillOutcome
  simp only [State.regroup_tankOf]
  split <;> simp

@[simp] theorem tellTrain_regroup (x : TrainState) : tellTrain x (s.regroup n) = (tellTrain x s).regroup n := by
  simp [tellTrain]

@[simp] theorem changeTrain_regroup (a : TrainState) (b : DivertCause) (c : FaultCause) (d : StopCause) :
    changeTrain a b c d (s.regroup n) = (changeTrain a b c d s).regroup n := rfl

@[simp] theorem enterTrain_regroup (a : TrainState) (b : DivertCause) (c : FaultCause) (d : StopCause) :
    enterTrain a b c d (s.regroup n) = (enterTrain a b c d s).regroup n := by
  simp [enterTrain]

@[simp] theorem tryStopped_regroup : tryStopped (s.regroup n) = (tryStopped s).regroup n := by
  unfold tryStopped
  simp only [State.regroup_trs, State.regroup_travelOf, State.regroup_mapTrs, enterTrain_regroup]
  exact ite_regroup _ _ _

@[simp] theorem offerRequest_regroup (c : Claim) : offerRequest c (s.regroup n) = (offerRequest c s).regroup n := by
  simp [offerRequest]

@[simp] theorem createClaim_regroup (x : NewClaim) : createClaim x (s.regroup n) = regroupWith (createClaim x s) n := by
  unfold createClaim
  simp only [createRefusal_regroup]
  split <;> simp

@[simp] theorem inflowClaim_regroup (u : TrainSetup) (d : Source) : inflowClaim (s.regroup n) u d = inflowClaim s u d := rfl
@[simp] theorem flushClaim_regroup (u : TrainSetup) : flushClaim (s.regroup n) u = flushClaim s u := rfl
@[simp] theorem failOnce_regroup : failOnce (s.regroup n) = (failOnce s).regroup n := rfl
@[simp] theorem retryWait_regroup (k : Bool) : retryWait k (s.regroup n) = (retryWait k s).regroup n := rfl
@[simp] theorem nextDest_regroup : nextDest (s.regroup n) = (nextDest s).regroup n := rfl

@[simp] theorem askNext_regroup (fuel : Nat) : askNext fuel (s.regroup n) = (askNext fuel s).regroup n := by
  induction fuel generalizing s with
  | zero => rfl
  | succ fuel ih =>
    unfold askNext
    simp only [State.regroup_mayAsk, State.regroup_setup, State.regroup_destEntry, inflowClaim_regroup, createClaim_regroup,
      regroupWith_fst, regroupWith_snd]
    by_cases asks : s.mayAsk = true
    · simp only [asks, if_true]
      split
      · split <;> simp [ih]
      · rfl
    · simp [asks]

@[simp] theorem stopsTrain_regroup (r : EndReason) : stopsTrain r (s.regroup n) = stopsTrain r s := rfl
@[simp] theorem leavesProducing_regroup (r : EndReason) : leavesProducing r (s.regroup n) = leavesProducing r s := rfl

@[simp] theorem failedDest_regroup (r : EndReason) : failedDest r (s.regroup n) = (failedDest r s).regroup n := by
  simp [failedDest]

@[simp] theorem inflowEffect_regroup (r : EndReason) : inflowEffect r (s.regroup n) = (inflowEffect r s).regroup n := by
  unfold inflowEffect
  split <;> simp

@[simp] theorem askFlush_regroup (c : StopCause) : askFlush c (s.regroup n) = (askFlush c s).regroup n := by
  unfold askFlush
  simp only [State.regroup_setup]
  split
  · rfl
  · simp only [flushClaim_regroup, createClaim_regroup, regroupWith_fst, regroupWith_snd]
    split <;> rfl
  · rfl

@[simp] theorem stopFirst_regroup : stopFirst (s.regroup n) = regroupWith (stopFirst s) n := by
  simp [stopFirst]

@[simp] theorem stopLast_regroup (c : StopCause) : stopLast c (s.regroup n) = (stopLast c s).regroup n := by
  simp [stopLast]

@[simp] theorem stopRevoked_regroup : stopRevoked (s.regroup n) = (stopRevoked s).regroup n := by
  simp [stopRevoked]

@[simp] theorem runningOutcome_regroup (r : EndReason) : runningOutcome r (s.regroup n) = (runningOutcome r s).regroup n := by
  simp [runningOutcome]

@[simp] theorem inflowOutcome_regroup (r : EndReason) : inflowOutcome r (s.regroup n) = (inflowOutcome r s).regroup n := by
  unfold inflowOutcome
  simp only [State.regroup_mapTrs, State.regroup_trs]
  split <;> simp

@[simp] theorem flushOutcome_regroup (r : EndReason) : flushOutcome r (s.regroup n) = (flushOutcome r s).regroup n := by
  simp [flushOutcome]

@[simp] theorem trainOutcome_regroup (q : Nat) (x : Target) (r : EndReason) :
    trainOutcome q x r (s.regroup n) = (trainOutcome q x r s).regroup n := by
  unfold trainOutcome
  split <;> simp

@[simp] theorem handOutcome_regroup (c : Claim) (r : EndReason) : handOutcome c r (s.regroup n) = (handOutcome c r s).regroup n := by
  unfold handOutcome
  split <;> simp

@[simp] theorem leaveList_regroup (c : Claim) : leaveList c (s.regroup n) = (leaveList c s).regroup n := by
  simp [leaveList]

@[simp] theorem toClosing_regroup (c : Claim) (r : EndReason) : toClosing c r (s.regroup n) = (toClosing c r s).regroup n := by
  simp [toClosing]

@[simp] theorem claimNotice_regroup (c : Claim) (k : NoticeKind) : claimNotice c k (s.regroup n) = (claimNotice c k s).regroup n := by
  unfold claimNotice
  split <;> simp

@[simp] theorem cleNotice_regroup (x : Notice) : cleNotice x (s.regroup n) = (cleNotice x s).regroup n := by
  unfold cleNotice
  simp only [State.regroup_cle]
  split <;> simp

@[simp] theorem refuseWaiters_regroup (i : Nat) : refuseWaiters i (s.regroup n) = (refuseWaiters i s).regroup n :=
  foldl_regroup (fun s _ n => send_regroup s n _ _) _ (s.setHoldWaits (s.sga.waits.filter (·.segment != i))) n

@[simp] theorem faultSeg_regroup (i : Nat) : faultSeg i (s.regroup n) = (faultSeg i s).regroup n := by
  simp [faultSeg]

@[simp] theorem clearFault_regroup (i : Nat) : clearFault i (s.regroup n) = (clearFault i s).regroup n := by
  unfold clearFault
  simp only [State.regroup_segOf, State.regroup_actWith, State.regroup_travelOf, State.regroup_putSeg]
  exact ite_regroup _ _ _

@[simp] theorem segNotice_regroup (i : Nat) (k : NoticeKind) : segNotice i k (s.regroup n) = (segNotice i k s).regroup n := by
  unfold segNotice
  simp only [State.regroup_segOf]
  split <;> simp

@[simp] theorem endClaim_regroup (c : Claim) (r : EndReason) (o : Option OwnerReason) :
    endClaim c r o (s.regroup n) = (endClaim c r o s).regroup n := by
  unfold endClaim
  split <;> simp

@[simp] theorem endSeq_regroup (r : EndReason) (q : Nat) : endSeq r (s.regroup n) q = (endSeq r s q).regroup n := by
  unfold endSeq
  simp only [State.regroup_claimOf]
  split <;> simp

@[simp] theorem stopFlush_regroup : stopFlush (s.regroup n) = (stopFlush s).regroup n := by
  unfold stopFlush
  simp only [State.regroup_trs]
  split <;> simp

@[simp] theorem stopInflow_regroup : stopInflow (s.regroup n) = (stopInflow s).regroup n := by
  unfold stopInflow
  simp only [State.regroup_trs]
  split <;> simp

@[simp] theorem cleNotices_regroup (l : List Notice) : cleNotices l (s.regroup n) = (cleNotices l s).regroup n :=
  foldl_regroup (fun s x n => cleNotice_regroup s n x) l s n

@[simp] theorem faultTrain_regroup (c : FaultCause) : faultTrain c (s.regroup n) = (faultTrain c s).regroup n := by
  simp [faultTrain]

@[simp] theorem divertLost_regroup : divertLost (s.regroup n) = (divertLost s).regroup n := by
  simp [divertLost, toDiverting]

@[simp] theorem trsNotice_regroup (x : Notice) : trsNotice x (s.regroup n) = (trsNotice x s).regroup n := by
  unfold trsNotice
  split <;> simp

@[simp] theorem divertNotice_regroup (x : Notice) : divertNotice (s.regroup n) x = (divertNotice s x).regroup n := by
  simp [divertNotice]

@[simp] theorem dispatch_regroup (x : Notice) : dispatch (s.regroup n) x = (dispatch s x).regroup n := by
  unfold dispatch
  split <;> simp

@[simp] theorem notify_regroup (x : State × List Notice) : notify (regroupWith x n) = (notify x).regroup n :=
  foldl_regroup (fun s x n => dispatch_regroup s n x) x.2 x.1 n

@[simp] theorem endTravel_regroup (a : Nat) (u : ActuatorSetup) : endTravel a u (s.regroup n) = regroupWith (endTravel a u s) n := rfl

@[simp] theorem becomeStuck_regroup (a : Nat) (u : ActuatorSetup) (c : StuckCause) :
    becomeStuck a u c (s.regroup n) = regroupWith (becomeStuck a u c s) n := by
  simp [becomeStuck]

@[simp] theorem openLimitChange_regroup (a : Nat) (b : Bool) :
    openLimitChange a b (s.regroup n) = regroupWith (openLimitChange a b s) n := by
  unfold openLimitChange
  simp only [State.regroup_actSetup]
  split <;> simp

@[simp] theorem closedLimitChange_regroup (a : Nat) (b : Bool) :
    closedLimitChange a b (s.regroup n) = regroupWith (closedLimitChange a b s) n := by
  unfold closedLimitChange
  simp only [State.regroup_actSetup]
  split <;> simp

@[simp] theorem feedChange_regroup (b : Bool) : feedChange b (s.regroup n) = (feedChange b s).regroup n := by
  unfold feedChange
  simp only [State.regroup_trs]
  split
  · unfold tryPending
    simp only [State.regroup_trs, State.regroup_made, State.regroup_commandOf, toPending, enterTrain_regroup]
    exact ite_regroup _ _ _
  · split <;> simp

@[simp] theorem endWhere_regroup (p : Claim → Bool) (r : EndReason) : endWhere p r (s.regroup n) = (endWhere p r s).regroup n :=
  foldl_regroup (fun s q n => endSeq_regroup s n r q) _ s n

@[simp] theorem takeBack_regroup (i : Nat) (g : Grant) : takeBack i g (s.regroup n) = (takeBack i g s).regroup n := by
  simp [takeBack]

@[simp] theorem revokeOverflow_regroup (i : Nat) : revokeOverflow i (s.regroup n) = (revokeOverflow i s).regroup n :=
  foldl_regroup (fun s g n => takeBack_regroup s n i g) _ s n

@[simp] theorem overflowChange_regroup (i : Nat) (b : Bool) : overflowChange i b (s.regroup n) = (overflowChange i b s).regroup n := by
  simp [overflowChange, overflowClaims]

@[simp] theorem contactEvent_regroup (r : ContactRole) (b : Bool) : contactEvent r b (s.regroup n) = (contactEvent r b s).regroup n := by
  unfold contactEvent
  split <;> simp

@[simp] theorem sampleContact_regroup (c : Nat) (b : Bool) : sampleContact c b (s.regroup n) = regroupWith (sampleContact c b s) n := by
  simp [sampleContact]

@[simp] theorem contactStep_regroup (b : Bool) (c : Nat) : contactStep b c (s.regroup n) = (contactStep b c s).regroup n := by
  unfold contactStep
  simp only [sampleContact_regroup, regroupWith_snd, regroupWith_fst, State.regroup_contactSetup]
  split <;> simp

@[simp] theorem overflows_regroup (b : Bool) (c : Nat) : overflows b c (s.regroup n) = overflows b c s := by
  unfold overflows
  simp

@[simp] theorem scanEntry_regroup (w : TankWait) : scanEntry (s.regroup n) w = (scanEntry s w).regroup n := by
  simp [scanEntry, admitRequest]

@[simp] theorem scanQueue_regroup : scanQueue (s.regroup n) = (scanQueue s).regroup n :=
  foldl_regroup (fun s w n => scanEntry_regroup s n w) _ s n

/-- A sampling reads which group it takes from its caller alone. -/
theorem sampleGroup_regroup (g : Nat) (b : Byte) : sampleGroup g b (s.regroup n) = (sampleGroup g b s).regroup n := by
  unfold sampleGroup
  have steps : ∀ l : List Nat, l.foldl (fun s r => contactStep (b.getLsbD r) (8 * g + r) s) (s.regroup n) =
      (l.foldl (fun s r => contactStep (b.getLsbD r) (8 * g + r) s) s).regroup n := fun l =>
    foldl_regroup (fun s r n => contactStep_regroup s n _ _) l s n
  simp only [overflows_regroup, steps, scanQueue_regroup, ite_regroup]

end

end Sys2Proof.Machine
end

section

namespace Sys2Proof.Machine

/-! ## One turn for each of several (R58, R62, R68) -/

/-- What only one turn of several works on is worked on once, where that turn is taken. -/
theorem foldl_once {α β : Type} {f : State → α → State} {view step : State → β} {i : α} (own : ∀ s, view (f s i) = step s)
    (other : ∀ s j, j ≠ i → view (f s j) = view s) (still : ∀ s j, j ≠ i → step (f s j) = step s) {l : List α} (one : l.Nodup)
    (s : State) : (i ∈ l → view (l.foldl f s) = step s) ∧ (i ∉ l → view (l.foldl f s) = view s) := by
  induction l generalizing s with
  | nil => exact ⟨fun m => absurd m List.not_mem_nil, fun _ => rfl⟩
  | cons j l ih =>
    obtain ⟨fresh, one⟩ := List.nodup_cons.mp one
    obtain ⟨taken, left⟩ := ih one (f s j)
    refine ⟨fun m => ?_, fun m => ?_⟩
    · rcases List.mem_cons.mp m with rfl | m
      · exact (left fresh).trans (own s)
      · exact (taken m).trans (still s j fun e => fresh (e ▸ m))
    · obtain ⟨apart, out⟩ := not_or.mp (mt List.mem_cons.mpr m)
      exact (left out).trans (other s j (Ne.symm apart))

/-! ## The frame of a sampling (R58, R59) -/

/-- From `s` to `t` the set-up and the pins stand, and the scanner's group and count. -/
structure SameScan (s t : State) : Prop where
  setup : t.setup = s.setup
  pins : t.pins = s.pins
  group : t.fsc.group = s.fsc.group
  scans : t.fsc.scans = s.fsc.scans

namespace SameScan

theorem refl (s : State) : SameScan s s := ⟨rfl, rfl, rfl, rfl⟩

theorem trans {s t u : State} (h : SameScan s t) (k : SameScan t u) : SameScan s u :=
  ⟨k.setup.trans h.setup, k.pins.trans h.pins, k.group.trans h.group, k.scans.trans h.scans⟩

theorem works {s t : State} (h : Works s t) : SameScan s t := ⟨h.setup, h.pins, by rw [h.fsc], by rw [h.fsc]⟩

theorem times {s t : State} (h : Times s t) : SameScan s t := by
  constructor <;> rw [h]

end SameScan

theorem contactSetup_congr {s t : State} (h : t.setup = s.setup) (c : Nat) : t.contactSetup c = s.contactSetup c := by
  unfold State.contactSetup
  rw [h]

theorem contact_congr {s t : State} (h : t.fsc = s.fsc) (c : Nat) : t.contact c = s.contact c := by
  unfold State.contact
  rw [h]

/-- A contact after the sampling of its line (R59, R62). -/
def State.sampled (s : State) (closed : Bool) (c : Nat) : Contact :=
  let u := s.contactSetup c
  let r := debounce (closed != u.inverted) (s.contact c)
  if u.role = .none then s.contact c
  else if r.2 then { r.1 with repeatTimer := alarmTimer u.alarm r.1.active } else r.1

theorem sampled_congr {s t : State} {c : Nat} (h : t.setup = s.setup) (e : t.contact c = s.contact c) (closed : Bool) :
    t.sampled closed c = s.sampled closed c := by
  unfold State.sampled
  rw [e, contactSetup_congr h]

theorem sampleContact_contact (c : Nat) (closed : Bool) (s : State) (d : Nat) :
    (sampleContact c closed s).1.contact d = if c = d ∧ c < 32 then s.sampled closed c else s.contact d := by
  have put := contact_putContact s c d
  unfold sampleContact State.sampled
  dsimp only
  split
  · split
    · rename_i e
      rw [e.1]
    · rfl
  · split
    · rw [contact_congr (report_works (.refl _) _).fsc, put]
    · rw [put]

theorem sampleContact_scan (c : Nat) (closed : Bool) (s : State) : SameScan s (sampleContact c closed s).1 ∧
    (sampleContact c closed s).1.ila = s.ila := by
  unfold sampleContact
  dsimp only
  split
  · exact ⟨.refl s, rfl⟩
  · split
    · generalize e : s.putContact c _ = t
      have scan : SameScan s t := by subst e; exact ⟨rfl, rfl, rfl, rfl⟩
      have ila : t.ila = s.ila := by subst e; rfl
      exact ⟨scan.trans (.works (report_works (.refl t) _)), (report_works (.refl t) _).ila.trans ila⟩
    · exact ⟨⟨rfl, rfl, rfl, rfl⟩, rfl⟩

/-- The change of a contact leaves every contact as its sampling left it (R61). -/
theorem contactStep_reacts (closed : Bool) (c : Nat) (s : State) : Works (sampleContact c closed s).1 (contactStep closed c s) := by
  unfold contactStep
  dsimp only
  split
  · exact contactEvent_works (.refl _) _ _
  · exact .refl _

theorem contactStep_contact (closed : Bool) (c : Nat) (s : State) (d : Nat) :
    (contactStep closed c s).contact d = if c = d ∧ c < 32 then s.sampled closed c else s.contact d := by
  rw [contact_congr (contactStep_reacts closed c s).fsc, sampleContact_contact]

theorem contactStep_scan (closed : Bool) (c : Nat) (s : State) : SameScan s (contactStep closed c s) ∧
    (contactStep closed c s).ila = s.ila := by
  obtain ⟨scan, ila⟩ := sampleContact_scan c closed s
  have works := contactStep_reacts closed c s
  exact ⟨scan.trans (.works works), works.ila.trans ila⟩

/-- A contact without a role has no sampling (R58). -/
theorem contactStep_none {c : Nat} {s : State} (h : (s.contactSetup c).role = .none) (closed : Bool) : contactStep closed c s = s := by
  unfold contactStep sampleContact
  simp [h]

/-! ## A sampling of eight contacts (R58) -/

/-- The eight contacts of a group taken, before the queue scan. -/
def State.stepped (s : State) (g : Nat) (returns : Byte) : State :=
  (List.range 8).foldl (fun s r => contactStep (returns.getLsbD r) (8 * g + r) s) s

theorem stepped_works (g : Nat) (returns : Byte) (s : State) : Works (s.stepped g returns) (sampleGroup g returns s) := by
  unfold sampleGroup
  dsimp only
  split
  · exact scanQueue_works (.refl _)
  · exact .refl _

theorem sampleGroup_scan (g : Nat) (returns : Byte) (s : State) : SameScan s (sampleGroup g returns s) ∧
    (sampleGroup g returns s).ila = s.ila := by
  have steps : SameScan s (s.stepped g returns) ∧ (s.stepped g returns).ila = s.ila :=
    List.foldlRecOn _ _ (motive := fun t => SameScan s t ∧ t.ila = s.ila) ⟨.refl s, rfl⟩ fun t ⟨scan, ila⟩ r _ =>
      ⟨scan.trans (contactStep_scan _ _ t).1, (contactStep_scan _ _ t).2.trans ila⟩
  have works := stepped_works g returns s
  exact ⟨steps.1.trans (.works works), works.ila.trans steps.2⟩

theorem sampleGroup_contact (g : Nat) (returns : Byte) (s : State) (c : Nat) :
    (sampleGroup g returns s).contact c = (s.stepped g returns).contact c := contact_congr (stepped_works g returns s).fsc c

section

variable (returns : Byte) (s : State) {g r : Nat}

theorem contactStep_apart (t : State) {j : Nat} (n : j ≠ r) :
    (contactStep (returns.getLsbD j) (8 * g + j) t).contact (8 * g + r) = t.contact (8 * g + r) := by
  rw [contactStep_contact, if_neg (by omega)]

/-- Each contact of the group is sampled once (R58, R59). -/
theorem sampleGroup_own (h : g < 4) (k : r < 8) :
    (sampleGroup g returns s).contact (8 * g + r) = s.sampled (returns.getLsbD r) (8 * g + r) := by
  rw [sampleGroup_contact]
  refine (foldl_once (view := fun t => t.contact (8 * g + r)) (step := fun t => t.sampled (returns.getLsbD r) (8 * g + r))
    (fun t => ?_) (fun t _ n => contactStep_apart returns t n) (fun t _ n => ?_) List.nodup_range s).1 (List.mem_range.mpr k)
  · exact (contactStep_contact _ _ t _).trans (if_pos ⟨rfl, by omega⟩)
  · exact sampled_congr (contactStep_scan _ _ t).1.setup (contactStep_apart returns t n) _

/-- The contacts of the other groups stand (R58). -/
theorem sampleGroup_others {c : Nat} (h : c < 8 * g ∨ 8 * g + 8 ≤ c) : (sampleGroup g returns s).contact c = s.contact c := by
  rw [sampleGroup_contact]
  refine List.foldlRecOn _ _ (motive := fun t : State => t.contact c = s.contact c) rfl fun t e r m => ?_
  have l := List.mem_range.mp m
  rw [contactStep_contact, if_neg (by omega), e]

/-- A group without roles is not sampled (R58). -/
theorem sampleGroup_none (h : ∀ r, r < 8 → (s.contactSetup (8 * g + r)).role = .none) : sampleGroup g returns s = s := by
  have steps : s.stepped g returns = s := List.foldlRecOn _ _ (motive := fun t => t = s) rfl fun t e r m => by
    rw [e]
    exact contactStep_none (h r (List.mem_range.mp m)) _
  have quiet : (List.range 8).any (fun r => overflows (returns.getLsbD r) (8 * g + r) s) = false := by
    rw [List.any_eq_false]
    intro r m
    unfold overflows
    rw [h r (List.mem_range.mp m)]
    nofun
  unfold sampleGroup
  rw [quiet]
  exact steps

end

/-! ## The debounce (R59) -/

theorem debounce_active (b : Bool) (x : Contact) : ((debounce b x).1.active ≠ x.active → (debounce b x).2 = true) ∧
    ((debounce b x).2 = true → (debounce b x).1.active = b) := by
  unfold debounce
  split
  · exact ⟨fun h => absurd rfl h, nofun⟩
  · split
    · exact ⟨fun h => absurd rfl h, nofun⟩
    · exact ⟨fun _ => rfl, fun _ => rfl⟩

theorem debounce_congr {x y : Contact} (a : y.active = x.active) (d : y.disagree = x.disagree) (b : Bool) :
    (debounce b y).1.active = (debounce b x).1.active ∧ (debounce b y).1.disagree = (debounce b x).1.disagree := by
  unfold debounce
  rw [a, d]
  split
  · exact ⟨rfl, rfl⟩
  · split <;> exact ⟨rfl, rfl⟩

section

variable {s : State} {c : Nat} (h : (s.contactSetup c).role ≠ .none) (closed : Bool)

include h

theorem sampled_debounce : (s.sampled closed c).active = (debounce (closed != (s.contactSetup c).inverted) (s.contact c)).1.active ∧
    (s.sampled closed c).disagree = (debounce (closed != (s.contactSetup c).inverted) (s.contact c)).1.disagree := by
  unfold State.sampled
  dsimp only
  rw [if_neg h]
  split <;> exact ⟨rfl, rfl⟩

/-- A change sets or clears the alarm timer (R62). -/
theorem sampled_timer (k : (s.sampled closed c).active ≠ (s.contact c).active) : (s.sampled closed c).repeatTimer =
    if (s.contactSetup c).alarm && (s.sampled closed c).active then 500 else 0 := by
  rw [(sampled_debounce h closed).1] at k ⊢
  have changed := (debounce_active _ _).1 k
  unfold State.sampled
  dsimp only
  rw [if_neg h, if_pos changed]
  rfl

omit h in
theorem sampled_none (h : (s.contactSetup c).role = .none) : s.sampled closed c = s.contact c := if_pos h

end

end Sys2Proof.Machine
end

section

namespace Sys2Proof.Machine

/-! ## The timers of a scan, contact by contact and actuator by actuator (R62, R68) -/

/-- A contact with its repeat timer lowered, where it is a made alarm contact (R62). -/
def State.lowered (s : State) (c : Nat) : Contact := { s.contact c with
  repeatTimer := if (s.contactSetup c).alarm = true ∧ (s.contact c).active = true then (s.contact c).repeatTimer - 1
    else (s.contact c).repeatTimer }

/-- The repeat of an alarm contact falls due with this scan (R62). -/
def State.repeats (s : State) (c : Nat) : Prop :=
  (s.contactSetup c).alarm = true ∧ (s.contact c).active = true ∧ (s.contact c).repeatTimer = 1

theorem alarmScan_contact (c d : Nat) (s : State) :
    (alarmScan c s).contact d = if c = d ∧ c < 32 then s.lowered c else s.contact d := by
  have timed : ∀ (b : Bool) (x : Contact), (dueIf b (.alarmRepeat c) (s.putContact c x)).contact d =
      if c = d ∧ c < 32 then x else s.contact d := fun b x => by
    cases b <;> exact contact_putContact s c d x
  unfold alarmScan State.lowered
  dsimp only
  by_cases made : (s.contactSetup c).alarm = true ∧ (s.contact c).active = true
  · by_cases zero : 0 < (s.contact c).repeatTimer
    · rw [if_pos (by simp [made, zero]), if_pos made, timed]
    · have none : (s.contact c).repeatTimer - 1 = (s.contact c).repeatTimer := by omega
      rw [if_neg (by simp [zero]), if_pos made, none]
      split
      · rename_i e
        rw [e.1]
      · rfl
  · rw [if_neg (by simpa using fun a b => absurd ⟨a, b⟩ made), if_neg made]
    split
    · rename_i e
      rw [e.1]
    · rfl

theorem alarmScan_due (c : Nat) (s : State) (e : Due) :
    e ∈ (alarmScan c s).due ↔ e ∈ s.due ∨ (e = .alarmRepeat c ∧ s.repeats c) := by
  unfold alarmScan State.repeats dueIf addDue
  dsimp only
  by_cases made : (s.contactSetup c).alarm = true ∧ (s.contact c).active = true
  · by_cases one : (s.contact c).repeatTimer = 1
    · simp [made, one, State.putContact]
    · simp only [made, one, decide_false, and_false, or_false]
      split <;> exact Iff.rfl
  · rw [if_neg (by simpa using fun a b => absurd ⟨a, b⟩ made)]
    exact ⟨.inl, fun k => k.elim id fun ⟨_, a, b, _⟩ => absurd ⟨a, b⟩ made⟩

/-- An actuator with the timer of its travel one scan on (R68). -/
def State.onward (s : State) (a : Nat) : Actuator := { s.actOf a with
  timer := if (s.actOf a).travel = .opening ∨ (s.actOf a).travel = .closing then (s.actOf a).timer + 1 else (s.actOf a).timer }

/-- The travel time of a travel without a bound limit ends with this scan (R68). -/
def State.timesOut (s : State) (a : Nat) (u : ActuatorSetup) : Prop :=
  ((s.actOf a).travel = .opening ∨ (s.actOf a).travel = .closing) ∧
    s.endLimit a u.kind ((s.actOf a).travel == .opening) = none ∧ 10 * u.travel ≤ (s.actOf a).timer + 1

/-- A travel with a bound limit is overdue with this scan (R68). -/
def State.overruns (s : State) (a : Nat) (u : ActuatorSetup) : Prop :=
  ((s.actOf a).travel = .opening ∨ (s.actOf a).travel = .closing) ∧
    s.endLimit a u.kind ((s.actOf a).travel == .opening) ≠ none ∧ 10 * u.travel + 200 ≤ (s.actOf a).timer + 1

theorem travelScan_still {a : Nat} {s : State} (h : ¬((s.actOf a).travel = .opening ∨ (s.actOf a).travel = .closing)) :
    travelScan a s = s := by
  unfold travelScan
  exact if_neg (by simpa [moving_iff] using fun _ => h)

theorem travelScan_unset {a : Nat} {s : State} (h : s.actSetup a = none) : travelScan a s = s := by
  unfold travelScan
  rw [h]
  rfl

theorem travelScan_moves {a : Nat} {u : ActuatorSetup} {s : State} (set : s.actSetup a = some u)
    (moving : (s.actOf a).travel = .opening ∨ (s.actOf a).travel = .closing) : ∃ l, travelScan a s =
      (s.putAct a (s.onward a)).setDue (s.due ++ l) ∧
        ∀ e, e ∈ l ↔ (e = .travelTimeEnd a ∧ s.timesOut a u) ∨ (e = .travelStuck a ∧ s.overruns a u) := by
  have onward : s.onward a = { s.actOf a with timer := (s.actOf a).timer + 1 } := by
    unfold State.onward
    rw [if_pos moving]
  have runs : travelScan a s = if (s.putAct a (s.onward a)).travelEnds a then addDue (.travelTimeEnd a) (s.putAct a (s.onward a))
      else dueIf ((s.putAct a (s.onward a)).travelOverdue a) (.travelStuck a) (s.putAct a (s.onward a)) := by
    unfold travelScan
    dsimp only
    rw [if_pos (by simp [set, (moving_iff _).mpr moving]), onward]
  have ends : (s.putAct a (s.onward a)).travelEnds a = true ↔ s.timesOut a u := by
    unfold State.travelEnds State.timesOut
    rw [show (s.putAct a (s.onward a)).actSetup a = some u from set]
    dsimp only
    rw [actOf_put set, onward, endLimit_congr (s := s) (t := s.putAct a _) rfl]
    simp only [(moving_iff _).mpr moving, moving, ActuatorSetup.scans, Bool.true_and, Bool.and_eq_true, Option.isNone_iff_eq_none,
      true_and]
    exact and_congr_right fun _ => decide_eq_true_iff
  have overdue : (s.putAct a (s.onward a)).travelOverdue a = true ↔ 10 * u.travel + 200 ≤ (s.actOf a).timer + 1 := by
    unfold State.travelOverdue
    rw [show (s.putAct a (s.onward a)).actSetup a = some u from set]
    dsimp only
    rw [actOf_put set, onward]
    simp [(moving_iff _).mpr moving, ActuatorSetup.scans]
  rw [runs]
  by_cases out : s.timesOut a u
  · refine ⟨[.travelTimeEnd a], by rw [if_pos (ends.mpr out)]; rfl, fun e => ?_⟩
    have bound : ¬s.overruns a u := fun k => k.2.1 out.2.1
    simp [out, bound]
  · rw [if_neg (fun k => out (ends.mp k))]
    by_cases late : 10 * u.travel + 200 ≤ (s.actOf a).timer + 1
    · have bound : s.endLimit a u.kind ((s.actOf a).travel == .opening) ≠ none := fun n => out ⟨moving, n, by omega⟩
      refine ⟨[.travelStuck a], by rw [overdue.mpr late]; rfl, fun e => ?_⟩
      simp [out, State.overruns, moving, bound, late]
    · refine ⟨[], ?_, fun e => ?_⟩
      · rw [Bool.eq_false_iff.mpr (mt overdue.mp late), List.append_nil]
        rfl
      · simp [out, State.overruns, late]

theorem travelScan_actOf (a b : Nat) (s : State) :
    (travelScan a s).actOf b = if a = b ∧ (s.actSetup a).isSome = true then s.onward a else s.actOf b := by
  by_cases moving : (s.actOf a).travel = .opening ∨ (s.actOf a).travel = .closing
  · cases set : s.actSetup a with
    | none =>
      rw [travelScan_unset set]
      simp
    | some u =>
      obtain ⟨l, e, -⟩ := travelScan_moves set moving
      rw [e]
      by_cases same : a = b
      · subst same
        rw [if_pos ⟨rfl, rfl⟩]
        exact actOf_put set _
      · rw [if_neg (fun k => same k.1)]
        exact actOf_putAct_other same _
  · have still : s.onward a = s.actOf a := by
      unfold State.onward
      rw [if_neg moving]
    rw [travelScan_still moving, still]
    split
    · rename_i e
      rw [e.1]
    · rfl

theorem travelScan_due (a : Nat) (s : State) (e : Due) : e ∈ (travelScan a s).due ↔ e ∈ s.due ∨
    ∃ u, s.actSetup a = some u ∧ ((e = .travelTimeEnd a ∧ s.timesOut a u) ∨ (e = .travelStuck a ∧ s.overruns a u)) := by
  cases set : s.actSetup a with
  | none =>
    rw [travelScan_unset set]
    simp
  | some u =>
    by_cases moving : (s.actOf a).travel = .opening ∨ (s.actOf a).travel = .closing
    · obtain ⟨l, k, falls⟩ := travelScan_moves set moving
      rw [k]
      simp [falls]
    · rw [travelScan_still moving]
      have no : ¬s.timesOut a u ∧ ¬s.overruns a u := ⟨fun k => moving k.1, fun k => moving k.1⟩
      simp [no]

/-! ## The timers of a scan together -/

theorem scanAlarms_contact {c : Nat} (h : c < 32) (s : State) : (scanAlarms s).contact c = s.lowered c := by
  have setup : ∀ (t : State) (j : Nat), (alarmScan j t).setup = t.setup := fun t j => (alarmScan_times j t).setup
  have apart : ∀ (t : State) (j : Nat), j ≠ c → (alarmScan j t).contact c = t.contact c := fun t j n => by
    rw [alarmScan_contact, if_neg (fun k => n k.1)]
  refine (foldl_once (view := fun t => t.contact c) (step := fun t => t.lowered c) (fun t => ?_) apart (fun t j n => ?_)
    List.nodup_range s).1 (List.mem_range.mpr h)
  · exact (alarmScan_contact c c t).trans (if_pos ⟨rfl, h⟩)
  · unfold State.lowered
    rw [apart t j n, contactSetup_congr (setup t j)]

theorem scanAlarms_repeats {c : Nat} (h : c < 32) (s : State) :
    .alarmRepeat c ∈ (scanAlarms s).due ↔ .alarmRepeat c ∈ s.due ∨ s.repeats c := by
  refine iff_of_eq ((foldl_once (view := fun t => .alarmRepeat c ∈ t.due) (step := fun t => (.alarmRepeat c ∈ t.due ∨ t.repeats c))
    (fun t => ?_) (fun t j n => ?_) (fun t j n => ?_) List.nodup_range s).1 (List.mem_range.mpr h))
  · simp [alarmScan_due]
  · simp [alarmScan_due, Ne.symm n]
  · have contact : (alarmScan j t).contact c = t.contact c := by rw [alarmScan_contact, if_neg (fun k => n k.1)]
    have same : (alarmScan j t).repeats c = t.repeats c := by
      unfold State.repeats
      rw [contact, contactSetup_congr (alarmScan_times j t).setup]
    simp [alarmScan_due, Ne.symm n, same]

theorem scanAlarms_act (s : State) : (scanAlarms s).act = s.act ∧
    ∀ e, (∀ c, e ≠ .alarmRepeat c) → (e ∈ (scanAlarms s).due ↔ e ∈ s.due) := by
  refine List.foldlRecOn _ _
    (motive := fun t : State => t.act = s.act ∧ ∀ e, (∀ c, e ≠ .alarmRepeat c) → (e ∈ t.due ↔ e ∈ s.due))
    ⟨rfl, fun _ _ => Iff.rfl⟩ fun t ⟨act, due⟩ c _ => ⟨?_, fun e n => ?_⟩
  · rw [← act]
    unfold alarmScan dueIf
    dsimp only
    split
    · split <;> rfl
    · rfl
  · simp [alarmScan_due, n, due e n]

section

variable {a : Nat} {u : ActuatorSetup}

theorem scanActuators_actOf (h : a < 12) {s : State} (set : s.actSetup a = some u) : (scanActuators s).actOf a = s.onward a := by
  have setup : ∀ (t : State) (j : Nat), (travelScan j t).actSetup a = t.actSetup a := fun t j =>
    actSetup_congr (travelScan_times j t).setup a
  have apart : ∀ (t : State) (j : Nat), j ≠ a → (travelScan j t).actOf a = t.actOf a := fun t j n => by
    rw [travelScan_actOf, if_neg (fun k => n k.1)]
  have once := (foldl_once (view := fun t => t.actOf a)
    (step := fun t => if (t.actSetup a).isSome = true then t.onward a else t.actOf a) (fun t => ?_) apart (fun t j n => ?_)
    List.nodup_range s).1 (List.mem_range.mpr h)
  · exact once.trans (if_pos (by rw [set]; rfl))
  · rw [travelScan_actOf]
    simp
  · unfold State.onward
    rw [setup, apart t j n]

theorem scanActuators_due (h : a < 12) {s : State} (set : s.actSetup a = some u) {e : Due}
    (k : e = .travelTimeEnd a ∨ e = .travelStuck a) : e ∈ (scanActuators s).due ↔
      e ∈ s.due ∨ (e = .travelTimeEnd a ∧ s.timesOut a u) ∨ (e = .travelStuck a ∧ s.overruns a u) := by
  have foreign : ∀ j, j ≠ a → e ≠ .travelTimeEnd j ∧ e ≠ .travelStuck j := fun j n => by
    rcases k with rfl | rfl <;> simp [Ne.symm n]
  have once := (foldl_once (f := fun s a => travelScan a s) (view := fun t => e ∈ t.due)
    (step := fun t => (e ∈ t.due ∨ ∃ u, t.actSetup a = some u ∧
      ((e = .travelTimeEnd a ∧ t.timesOut a u) ∨ (e = .travelStuck a ∧ t.overruns a u)))) (fun t => ?_) (fun t j n => ?_)
    (fun t j n => ?_) List.nodup_range s).1 (List.mem_range.mpr h)
  · exact (iff_of_eq once).trans (by simp [set])
  · simp [travelScan_due]
  · simp [travelScan_due, foreign j n]
  · have setup := (travelScan_times j t).setup
    have act : (travelScan j t).actOf a = t.actOf a := by rw [travelScan_actOf, if_neg (fun k => n k.1)]
    have outs : ∀ u, (travelScan j t).timesOut a u = t.timesOut a u ∧ (travelScan j t).overruns a u = t.overruns a u := fun u => by
      unfold State.timesOut State.overruns
      rw [act, endLimit_congr setup]
      exact ⟨rfl, rfl⟩
    simp [travelScan_due, foreign j n, actSetup_congr setup, outs]

theorem scanActuators_contact (s : State) (c : Nat) : (scanActuators s).contact c = s.contact c ∧
    (.alarmRepeat c ∈ (scanActuators s).due ↔ .alarmRepeat c ∈ s.due) := by
  refine List.foldlRecOn _ _
    (motive := fun t : State => t.contact c = s.contact c ∧ (.alarmRepeat c ∈ t.due ↔ .alarmRepeat c ∈ s.due)) ⟨rfl, Iff.rfl⟩
    fun t ⟨contact, due⟩ a _ => ⟨?_, ?_⟩
  · rw [travelScan_contact, contact]
  · simp [travelScan_due, due]

end

end Sys2Proof.Machine
end

section

namespace Sys2Proof.Machine

/-! ## What the scan and its events leave (R58, R68, R169) -/

/-- From `s` to `t` no contact was debounced. -/
def SameLevels (s t : State) : Prop :=
  ∀ c, (t.contact c).active = (s.contact c).active ∧ (t.contact c).disagree = (s.contact c).disagree

theorem SameLevels.refl (s : State) : SameLevels s s := fun _ => ⟨rfl, rfl⟩

theorem SameLevels.trans {s t u : State} (h : SameLevels s t) (k : SameLevels t u) : SameLevels s u := fun c =>
  ⟨(k c).1.trans (h c).1, (k c).2.trans (h c).2⟩

theorem SameLevels.works {s t : State} (h : Works s t) : SameLevels s t := fun c => by
  rw [contact_congr h.fsc]
  exact ⟨rfl, rfl⟩

theorem SameLevels.put {s : State} {c : Nat} {x : Contact} (a : x.active = (s.contact c).active)
    (d : x.disagree = (s.contact c).disagree) : SameLevels s (s.putContact c x) := fun e => by
  rw [contact_putContact]
  split
  · rename_i k
    exact k.1 ▸ ⟨a, d⟩
  · exact ⟨rfl, rfl⟩

/-- A timer of the field that ran out (R62, R68). -/
inductive Due.ofField : Due → Prop
  | alarmRepeat (c : Nat) : ofField (.alarmRepeat c)
  | travelTimeEnd (a : Nat) : ofField (.travelTimeEnd a)
  | travelStuck (a : Nat) : ofField (.travelStuck a)

/-- From `s` to `t` the scan went no further: no contact was debounced, no cell evaluated. -/
structure NoScan (s t : State) : Prop where
  scan : SameScan s t
  ila : t.ila = s.ila
  levels : SameLevels s t

theorem NoScan.refl (s : State) : NoScan s s := ⟨.refl s, rfl, .refl s⟩

theorem NoScan.trans {s t u : State} (h : NoScan s t) (k : NoScan t u) : NoScan s u :=
  ⟨h.scan.trans k.scan, k.ila.trans h.ila, h.levels.trans k.levels⟩

theorem NoScan.works {s t : State} (h : Works s t) : NoScan s t := ⟨.works h, h.ila, .works h⟩

theorem repeatAlarm_noScan (c : Nat) (s : State) : NoScan s (repeatAlarm c s) := by
  unfold repeatAlarm
  dsimp only
  split
  · have told := NoScan.works (report_works (.refl s) (.contact c (s.contactSetup c).role true true false))
    exact told.trans ⟨⟨rfl, rfl, rfl, rfl⟩, rfl, .put (told.levels c).1.symm (told.levels c).2.symm⟩
  · exact .refl s

theorem perform_noScan {e : Due} (h : e.ofField) (s : State) : NoScan s (perform s e) := by
  cases h with
  | alarmRepeat c => exact repeatAlarm_noScan c s
  | travelTimeEnd a => exact .works (travelTimeEnd_works (.refl s) a)
  | travelStuck a => exact .works (travelStuck_works (.refl s) a)

/-- The events of the field take place between the scan and the sampling (R68). -/
theorem settle_noScan {s : State} (h : ∀ e ∈ s.due, e.ofField) : NoScan s (settle s) :=
  List.foldlRecOn _ _ (motive := NoScan s) ⟨⟨rfl, rfl, rfl, rfl⟩, rfl, .refl s⟩ fun t k e m =>
    k.trans (perform_noScan (h e (mem_expiryLast.mp m)) t)

theorem scanTimers_levels (s : State) : SameLevels s (scanActuators (scanAlarms s)) := by
  have alarms : ∀ (c : Nat) (t : State), SameLevels t (alarmScan c t) := fun c t d => by
    rw [alarmScan_contact]
    split
    · rename_i e
      exact e.1 ▸ ⟨rfl, rfl⟩
    · exact ⟨rfl, rfl⟩
  have first : SameLevels s (scanAlarms s) :=
    List.foldlRecOn _ _ (motive := SameLevels s) (.refl s) fun t k c _ => k.trans (alarms c t)
  exact first.trans fun c => by rw [(scanActuators_contact _ c).1]; exact ⟨rfl, rfl⟩

theorem scanTimers_due {s : State} (h : s.due = []) : ∀ e ∈ (scanActuators (scanAlarms s)).due, e.ofField := by
  have alarms : ∀ e ∈ (scanAlarms s).due, e.ofField := by
    refine List.foldlRecOn _ _ (motive := fun t : State => ∀ e ∈ t.due, e.ofField) (by rw [h]; nofun) fun t k c _ e m => ?_
    rcases (alarmScan_due c t e).mp m with m | ⟨rfl, -⟩
    · exact k e m
    · exact .alarmRepeat c
  refine List.foldlRecOn _ _ (motive := fun t : State => ∀ e ∈ t.due, e.ofField) alarms fun t k a _ e m => ?_
  rcases (travelScan_due a t e).mp m with m | ⟨-, -, ⟨rfl, -⟩ | ⟨rfl, -⟩⟩
  · exact k e m
  · exact .travelTimeEnd a
  · exact .travelStuck a

/-- *scan complete* debounces nothing (R169). -/
theorem scanComplete_scan (permit : Bool) (s : State) : SameScan s (scanComplete permit s) ∧ SameLevels s (scanComplete permit s) := by
  have rest : ∀ t, SameScan s t → SameLevels s t →
      SameScan s (dropAll (evaluate permit t)) ∧ SameLevels s (dropAll (evaluate permit t)) := fun t scan levels => by
    have drops := dropAll_works (.refl (evaluate permit t))
    have scan' : SameScan s (evaluate permit t) := scan.trans ⟨rfl, rfl, rfl, rfl⟩
    have levels' : SameLevels s (evaluate permit t) := levels.trans fun _ => ⟨rfl, rfl⟩
    exact ⟨scan'.trans (.works drops), levels'.trans (.works drops)⟩
  exact rest _ (.times (scanTimers_times s)) (scanTimers_levels s)

theorem scanComplete_due {permit : Bool} {s : State} (h : s.due = []) : ∀ e ∈ (scanComplete permit s).due, e.ofField := by
  have rest : ∀ t : State, (∀ e ∈ t.due, e.ofField) → ∀ e ∈ (dropAll (evaluate permit t)).due, e.ofField := fun t k => by
    rw [(dropAll_works (.refl (evaluate permit t))).due]
    exact k
  exact rest _ (scanTimers_due h)

/-- A scan without a permissive in play drops nothing (R71). -/
theorem dropAll_none {s : State} (h : ∀ a, a < 12 → ∀ u, s.actSetup a = some u → u.permissive = none) : dropAll s = s := by
  refine List.foldlRecOn _ _ (motive := fun t => t = s) rfl fun t e a m => ?_
  rw [e]
  unfold dropActuator
  cases set : s.actSetup a with
  | none => rfl
  | some u =>
    have permitted : s.permitted u = true := by
      unfold State.permitted
      rw [h a (List.mem_range.mp m) u set]
    dsimp only
    rw [permitted, Bool.not_true, Bool.and_false]
    rfl

/-! ## GROUP_SAMPLE (R58, R168, R169) -/

/-- The state with the level of PERMIT taken and the next group to come. -/
def State.begun (s : State) (permit : Bool) : State := nextGroup (s.setPins { s.pins with permit := permit })

theorem begun_inputs (s : State) (permit : Bool) : SameInputs s (s.begun permit) := ⟨rfl, fun _ => rfl, rfl, rfl, rfl⟩

theorem SameInputs.evalCells {s t : State} (h : SameInputs s t) (permit : Bool) (l : List Nat) (v : Vector CellHistory 8) :
    l.foldl (fun v n => Machine.evalCell t permit n v) v = l.foldl (fun v n => Machine.evalCell s permit n v) v := by
  simp only [h.evalCell]

theorem exec_groupSample {s : State} (ready : s.ready) (returns : Byte) (permit first : Bool) :
    exec (.groupSample returns permit first) s =
      .next (if s.hearing then groupSampling returns permit first s else s) :=
  congrArg Host.Outcome.next (act_ready ready _)

section

variable {s : State} (ready : s.ready) (hears : s.hearing = true) (returns : Byte) (permit first : Bool)

include ready hears

theorem groupSample_early (h : s.fsc.group < 3) : exec (.groupSample returns permit first) s =
    .next (sampleGroup s.fsc.group returns (s.begun permit)) := by
  rw [exec_groupSample ready, if_pos hears]
  unfold groupSampling
  exact congrArg Host.Outcome.next (if_pos (by omega))

theorem groupSample_last (h : s.fsc.group = 3) : exec (.groupSample returns permit first) s =
    .next (if first then scanThenSample returns permit (s.begun permit) else sampleThenScan returns permit (s.begun permit)) := by
  rw [exec_groupSample ready, if_pos hears]
  unfold groupSampling
  exact congrArg Host.Outcome.next (if_neg (by omega))

end

end Sys2Proof.Machine
end

section

namespace Sys2Proof.Machine

/-! ## The sampling of group 0, 1 or 2 (R58) -/

section

variable (s : State) (returns : Byte) (permit : Bool) {r : Nat}

theorem earlySample_scan (h : s.fsc.group < 3) : ∀ t, t = sampleGroup s.fsc.group returns (s.begun permit) →
    t.fsc.group = s.fsc.group + 1 ∧ t.fsc.scans = s.fsc.scans ∧ t.pins.permit = permit ∧ t.ila = s.ila := by
  rintro t rfl
  obtain ⟨scan, ila⟩ := sampleGroup_scan s.fsc.group returns (s.begun permit)
  refine ⟨scan.group.trans ?_, scan.scans, by rw [scan.pins]; rfl, ila⟩
  exact Nat.mod_eq_of_lt (Nat.succ_lt_succ h)

/-! ## The sampling of group 3 and the scan (R58, R168, R169) -/

/-- The state after the scan that comes first, its events taken (R169). -/
def State.scannedFirst : State := settle (scanComplete permit (s.begun permit))

/-- The state after the sampling that comes first (R169). -/
def State.sampledFirst : State := sampleGroup 3 returns (s.begun permit)

theorem scannedFirst_scan (h : s.due = []) : SameScan (s.begun permit) (s.scannedFirst permit) ∧
    SameLevels s (s.scannedFirst permit) ∧
    (s.scannedFirst permit).ila = [7, 6, 5, 4, 3, 2, 1, 0].foldl (fun v n => evalCell s permit n v) s.ila := by
  obtain ⟨scan, levels⟩ := scanComplete_scan permit (s.begun permit)
  have events := settle_noScan (scanComplete_due (permit := permit) (s := s.begun permit) h)
  refine ⟨scan.trans events.scan, levels.trans events.levels, events.ila.trans ?_⟩
  rw [scanComplete_ila, (begun_inputs s permit).evalCells]
  rfl

/-- The cells read no group number, and the sampling neither (R168). -/
theorem sampledFirst_inputs : SameInputs (sampleGroup 3 returns { s with pins := { s.pins with permit := permit } })
    (s.sampledFirst returns permit) := by
  unfold State.sampledFirst
  rw [show s.begun permit = State.regroup { s with pins := { s.pins with permit := permit } } ((s.fsc.group + 1) % 4) from rfl,
    sampleGroup_regroup]
  exact ⟨rfl, fun _ => rfl, rfl, rfl, rfl⟩

theorem thenSample_eq : scanThenSample returns permit (s.begun permit) = countScan (sampleGroup 3 returns (s.scannedFirst permit)) := by
  unfold scanThenSample State.scannedFirst
  rfl

theorem thenScan_eq : sampleThenScan returns permit (s.begun permit) = countScan (scanComplete permit (s.sampledFirst returns permit)) := by
  unfold sampleThenScan State.sampledFirst
  rfl

@[simp] theorem countScan_contact (c : Nat) : (countScan s).contact c = s.contact c := rfl
@[simp] theorem countScan_ila : (countScan s).ila = s.ila := rfl

theorem State.sampledFirst_scan : SameScan (s.begun permit) (s.sampledFirst returns permit) ∧
    (s.sampledFirst returns permit).ila = s.ila := by
  obtain ⟨scan, ila⟩ := sampleGroup_scan 3 returns (s.begun permit)
  unfold State.sampledFirst
  exact ⟨scan, ila⟩

theorem sampledFirst_contact (k : r < 8) : (s.sampledFirst returns permit).contact (24 + r) = s.sampled (returns.getLsbD r) (24 + r) := by
  have own := sampleGroup_own (g := 3) returns (s.begun permit) (by omega) k
  unfold State.sampledFirst
  exact own

/-- A sampling debounces what the scan before it left as it was (R59, R169). -/
theorem sampled_levels {t : State} (setup : t.setup = s.setup) (levels : SameLevels s t) {c : Nat}
    (h : (s.contactSetup c).role ≠ .none) (closed : Bool) :
    (t.sampled closed c).active = (s.sampled closed c).active ∧ (t.sampled closed c).disagree = (s.sampled closed c).disagree := by
  have same := contactSetup_congr setup c
  obtain ⟨active, disagree⟩ := sampled_debounce h closed
  obtain ⟨active', disagree'⟩ := sampled_debounce (s := t) (by rw [same]; exact h) closed
  obtain ⟨a, d⟩ := debounce_congr (levels c).1 (levels c).2 (closed != (s.contactSetup c).inverted)
  rw [same] at active' disagree'
  exact ⟨active'.trans (a.trans active.symm), disagree'.trans (d.trans disagree.symm)⟩

variable (first : Bool)

/-- The sampling of group 3 with its scan on one side or the other (R169). -/
def State.lastSample : State :=
  if first then scanThenSample returns permit (s.begun permit) else sampleThenScan returns permit (s.begun permit)

theorem lastSample_scan (ready : s.due = []) (h : s.fsc.group = 3) : (s.lastSample returns permit first).setup = s.setup ∧
    (s.lastSample returns permit first).fsc.group = 0 ∧ (s.lastSample returns permit first).fsc.scans = min 2 (s.fsc.scans + 1) ∧
    (s.lastSample returns permit first).pins.permit = permit := by
  have counted : ∀ t : State, SameScan (s.begun permit) t → (countScan t).setup = s.setup ∧
      (countScan t).fsc.group = 0 ∧ (countScan t).fsc.scans = min 2 (s.fsc.scans + 1) ∧ (countScan t).pins.permit = permit :=
      fun t scan => by
    refine ⟨scan.setup, scan.group.trans ?_, congrArg (fun n => min 2 (n + 1)) scan.scans, congrArg Pins.permit scan.pins⟩
    change (s.fsc.group + 1) % 4 = 0
    rw [h]
  unfold State.lastSample
  cases first with
  | true =>
    rw [if_pos rfl, thenSample_eq]
    exact counted _ ((scannedFirst_scan s permit ready).1.trans (sampleGroup_scan 3 returns _).1)
  | false =>
    rw [if_neg nofun, thenScan_eq]
    exact counted _ (.trans (s.sampledFirst_scan returns permit).1 (scanComplete_scan permit _).1)

theorem lastSample_levels (ready : s.due = []) (k : r < 8) (h : (s.contactSetup (24 + r)).role ≠ .none) :
    ((s.lastSample returns permit first).contact (24 + r)).active =
        (debounce (returns.getLsbD r != (s.contactSetup (24 + r)).inverted) (s.contact (24 + r))).1.active ∧
      ((s.lastSample returns permit first).contact (24 + r)).disagree =
        (debounce (returns.getLsbD r != (s.contactSetup (24 + r)).inverted) (s.contact (24 + r))).1.disagree := by
  obtain ⟨active, disagree⟩ := sampled_debounce h (returns.getLsbD r)
  rw [← active, ← disagree]
  unfold State.lastSample
  cases first with
  | true =>
    obtain ⟨scan, levels, -⟩ := scannedFirst_scan s permit ready
    have own := sampleGroup_own (g := 3) returns (s.scannedFirst permit) (by omega) k
    rw [if_pos rfl, thenSample_eq, countScan_contact]
    rw [show 24 + r = 8 * 3 + r from rfl, own]
    exact sampled_levels s scan.setup levels h _
  | false =>
    rw [if_neg nofun, thenScan_eq, countScan_contact, ← sampledFirst_contact s returns permit k]
    exact (scanComplete_scan permit _).2 _

theorem thenSample_ila (ready : s.due = []) : (s.lastSample returns permit true).ila =
    [7, 6, 5, 4, 3, 2, 1, 0].foldl (fun v n => evalCell s permit n v) s.ila := by
  unfold State.lastSample
  rw [if_pos rfl, thenSample_eq, countScan_ila, (sampleGroup_scan 3 returns _).2]
  exact (scannedFirst_scan s permit ready).2.2

theorem thenScan_ila : (s.lastSample returns permit false).ila = [7, 6, 5, 4, 3, 2, 1, 0].foldl
    (fun v n => evalCell (sampleGroup 3 returns { s with pins := { s.pins with permit := permit } }) permit n v) s.ila := by
  unfold State.lastSample
  rw [if_neg nofun, thenScan_eq, countScan_ila, scanComplete_ila, (sampledFirst_inputs s returns permit).evalCells,
    (s.sampledFirst_scan returns permit).2]

theorem thenScan_interlocked {a : Nat} (h : a < 12) : (s.lastSample returns permit false).interlocked a := by
  have counted : ∀ t : State, t.interlocked a → (countScan t).interlocked a := fun _ k => k
  unfold State.lastSample
  rw [if_neg nofun, thenScan_eq]
  exact counted _ (scanComplete_interlocked permit _ h)

/-- Where neither a contact of group 3 nor a permissive is in play, the sampling and its scan move the timers alone (R62, R68). -/
theorem thenScan_timers (roles : ∀ r, r < 8 → (s.contactSetup (24 + r)).role = .none)
    (free : ∀ a, a < 12 → ∀ u, s.actSetup a = some u → u.permissive = none) : s.lastSample returns permit false =
      countScan (evaluate permit (scanActuators (scanAlarms (s.begun permit)))) := by
  have still : s.sampledFirst returns permit = s.begun permit := by
    unfold State.sampledFirst
    exact sampleGroup_none (g := 3) returns (s.begun permit) roles
  have drops : ∀ t : State, t.setup = s.setup → dropAll (evaluate permit t) = evaluate permit t := fun t setup =>
    dropAll_none fun a l u set => free a l u (by
      rw [← actSetup_congr (s := s) (t := evaluate permit t) setup]
      exact set)
  unfold State.lastSample
  rw [if_neg nofun, thenScan_eq, still]
  unfold scanComplete
  rw [drops _ (scanTimers_times (s.begun permit)).setup]

end

section

variable {s : State} (ready : s.due = []) (returns : Byte) (permit : Bool)
  (roles : ∀ r, r < 8 → (s.contactSetup (24 + r)).role = .none)
  (free : ∀ a, a < 12 → ∀ u, s.actSetup a = some u → u.permissive = none)

include ready roles free

theorem thenScan_repeats {c : Nat} (h : c < 32) : (s.lastSample returns permit false).contact c = s.lowered c ∧
    (.alarmRepeat c ∈ (s.lastSample returns permit false).due ↔ s.repeats c) := by
  have counted : ∀ t : State, (countScan (evaluate permit t)).contact c = t.contact c ∧ (countScan (evaluate permit t)).due = t.due :=
    fun _ => ⟨rfl, rfl⟩
  obtain ⟨contact, due⟩ := scanActuators_contact (scanAlarms (s.begun permit)) c
  have falls := scanAlarms_repeats h (s.begun permit)
  have own := scanAlarms_contact h (s.begun permit)
  rw [show (s.begun permit).due = [] from ready] at falls
  rw [thenScan_timers s returns permit roles free, (counted _).1, (counted _).2, contact, own, due, falls]
  exact ⟨rfl, by simp; exact Iff.rfl⟩

theorem thenScan_travels {a : Nat} (h : a < 12) {u : ActuatorSetup} (set : s.actSetup a = some u) :
    (s.lastSample returns permit false).actOf a = s.onward a ∧
      (.travelTimeEnd a ∈ (s.lastSample returns permit false).due ↔ s.timesOut a u) ∧
      (.travelStuck a ∈ (s.lastSample returns permit false).due ↔ s.overruns a u) := by
  have counted : ∀ t : State, (countScan (evaluate permit t)).actOf a = t.actOf a ∧ (countScan (evaluate permit t)).due = t.due :=
    fun _ => ⟨rfl, rfl⟩
  obtain ⟨act, due⟩ := scanAlarms_act (s.begun permit)
  have setup : (scanAlarms (s.begun permit)).setup = s.setup :=
    List.foldlRecOn _ _ (motive := fun t : State => t.setup = s.setup) rfl fun t k c _ => (alarmScan_times c t).setup.trans k
  have same : (scanAlarms (s.begun permit)).actOf a = s.actOf a := State.vacant.actOf_congr act a
  rw [thenScan_timers s returns permit roles free, (counted _).1, (counted _).2]
  rw [show (s.begun permit).due = [] from ready] at due
  generalize scanAlarms (s.begun permit) = t at due setup same
  have set' : t.actSetup a = some u := by rw [actSetup_congr setup, set]
  have none : Due.travelTimeEnd a ∉ t.due ∧ Due.travelStuck a ∉ t.due :=
    by
    constructor <;> (rw [due _ fun c e => by cases e]; exact List.not_mem_nil)
  have moves : t.onward a = s.onward a ∧ t.timesOut a u = s.timesOut a u ∧ t.overruns a u = s.overruns a u := by
    unfold State.onward State.timesOut State.overruns
    rw [same, endLimit_congr setup]
    exact ⟨rfl, rfl, rfl⟩
  obtain ⟨onward, times, overruns⟩ := moves
  refine ⟨(scanActuators_actOf h set').trans onward, ?_, ?_⟩
  · rw [scanActuators_due h set' (.inl rfl), times]
    simp [none]
  · rw [scanActuators_due h set' (.inr rfl), overruns]
    simp [none]

end

end Sys2Proof.Machine
end

section

namespace Sys2Proof.Machine

/-! ## Claims that leave or close, none joining (R82, R94) -/

/-- From `s`, one record for each sequence in its list, to `t` claims went to CLOSING or left, and none joined. -/
structure Dwindles (s t : State) : Prop where
  one : s.oneClaimEach → t.oneClaimEach
  old : s.oneClaimEach → ∀ y ∈ t.cle.list, ∃ x ∈ s.cle.list, y.sequence = x.sequence ∧ y.kind = x.kind ∧
    y.target = x.target ∧ (x.state = .closing → y.state = .closing)

namespace Dwindles

variable {s t u : State}

theorem sublist (h : t.cle.list.Sublist s.cle.list) : Dwindles s t :=
  ⟨fun one => one.sublist (h.map _), fun _ y m => ⟨y, h.mem m, rfl, rfl, rfl, id⟩⟩

theorem of (h : t.cle = s.cle) : Dwindles s t := sublist (by rw [h])

theorem trans (h : Dwindles s t) (k : Dwindles t u) : Dwindles s u := by
  refine ⟨fun one => k.one (h.one one), fun one z mz => ?_⟩
  obtain ⟨y, my, sequence, kind, target, closing⟩ := k.old (h.one one) z mz
  obtain ⟨x, mx, sequence', kind', target', closing'⟩ := h.old one y my
  exact ⟨x, mx, sequence.trans sequence', kind.trans kind', target.trans target', fun e => closing (closing' e)⟩

theorem putClaim {c : Claim} (m : c ∈ s.cle.list) (r : EndReason) : Dwindles s (s.putClaim (c.closes r)) := by
  refine ⟨fun one => ?_, fun one y my => ?_⟩
  · have same : ((fun x : Claim => x.sequence) ∘ fun x => if x.sequence = c.sequence then c.closes r else x) = fun x => x.sequence := by
      funext x
      dsimp only [Function.comp]
      split
      · rename_i e
        exact e.symm
      · rfl
    unfold State.oneClaimEach State.putClaim State.setClaims
    change ((s.cle.list.map fun x => if x.sequence = c.sequence then c.closes r else x).map (·.sequence)).Nodup
    rw [List.map_map, same]
    exact one
  · rcases mem_putClaim my with rfl | ⟨old, -⟩
    · exact ⟨c, m, rfl, rfl, rfl, fun _ => rfl⟩
    · exact ⟨y, old, rfl, rfl, rfl, id⟩

theorem leaveList {c : Claim} (h : c.target ≠ .product) (s : State) : Dwindles s (leaveList c s) :=
  sublist (by rw [leaveList_cle (.inr (.inl h))]; exact List.filter_sublist)

theorem closeValve {c : Claim} (m : c ∈ s.cle.list) (r : EndReason) : Dwindles s (closeValve c r s) :=
  (putClaim m r).trans (of (closeRole_cle _ _))

theorem toClosing {c : Claim} (m : c ∈ s.cle.list) (h : c.target ≠ .product) (r : EndReason) : Dwindles s (toClosing c r s) := by
  rw [toClosing_eq]
  split
  · exact (closeValve m r).trans (leaveList (c := c.closes r) h _)
  · exact closeValve m r

theorem endSeq {q : Nat} (h : ∀ c, s.claimOf q = some c → c.target ≠ .product) (r : EndReason) : Dwindles s (endSeq r s q) := by
  unfold Machine.endSeq
  cases e : s.claimOf q with
  | none => exact of rfl
  | some c =>
    dsimp only
    unfold endClaim
    split
    · exact toClosing (List.mem_of_find?_eq_some e) (h c e) r
    · exact of rfl
    · exact leaveList (c := { c with reason := some r, owner := none }) (h c e) s

end Dwindles

/-- The claim of a sequence that a cause ends is in CLOSING after it, or gone (R83). -/
theorem endSeq_ends {s : State} (one : s.oneClaimEach) {q : Nat}
    (h : ∀ c, s.claimOf q = some c → c.target ≠ .product) (r : EndReason) : (endSeq r s q).closesAll q := by
  intro y m own
  unfold endSeq at m
  cases e : s.claimOf q with
  | none =>
    rw [e] at m
    exact absurd (by simpa using own) (List.find?_eq_none.mp e y m)
  | some c =>
    have sequence := claimOf_sequence e
    have valve : ∀ z ∈ (closeValve c r s).cle.list, z.sequence = q → z.state = .closing := fun z mz ez => by
      rw [show (closeValve c r s).cle = (s.putClaim (c.closes r)).cle from closeRole_cle _ _] at mz
      rcases mem_putClaim mz with rfl | ⟨-, other⟩
      · rfl
      · exact absurd (ez.trans sequence.symm) other
    rw [e] at m
    dsimp only at m
    unfold endClaim at m
    split at m
    · rw [toClosing_eq] at m
      split at m
      · rw [leaveList_cle (c := c.closes r) (.inr (.inl (h c e)))] at m
        exact valve y (List.mem_filter.mp m).1 own
      · exact valve y m own
    · rename_i closing
      rw [List.inj_on_of_nodup_map one m (List.mem_of_find?_eq_some e) (own.trans sequence.symm), closing]
    · rw [leaveList_cle (c := { c with reason := some r, owner := none }) (.inr (.inl (h c e)))] at m
      have other := (List.mem_filter.mp m).2
      simp [own, sequence] at other

/-! ## A made OVERFLOW (R120) -/

/-- A transfer into the tank (R120). -/
def Claim.intoTank (i : Nat) (c : Claim) : Prop := c.kind = .transfer ∧ c.target = .fillInlet i

/-- The causes of an OVERFLOW taken one by one: each transfer into the tank is in CLOSING or has its turn yet. -/
theorem foldEndSeq_transfers {i : Nat} {r : EndReason} (l : List Nat) {s : State} (one : s.oneClaimEach)
    (own : ∀ y ∈ s.cle.list, y.sequence ∈ l → y.target = .fillInlet i)
    (turn : ∀ y ∈ s.cle.list, y.intoTank i → y.sequence ∈ l ∨ y.state = .closing) :
    ∀ y ∈ (l.foldl (endSeq r) s).cle.list, y.intoTank i → y.state = .closing := by
  induction l generalizing s with
  | nil => exact fun y m k => (turn y m k).resolve_left List.not_mem_nil
  | cons q l ih =>
    have fills : ∀ c, s.claimOf q = some c → c.target ≠ .product := fun c e => by
      rw [own c (List.mem_of_find?_eq_some e) (by rw [claimOf_sequence e]; exact List.mem_cons_self ..)]
      nofun
    have dwindles := Dwindles.endSeq fills r
    refine ih (dwindles.one one) (fun y m k => ?_) (fun y m k => ?_)
    · obtain ⟨x, mx, sequence, -, target, -⟩ := dwindles.old one y m
      rw [target]
      exact own x mx (List.mem_cons_of_mem _ (sequence ▸ k))
    · obtain ⟨x, mx, sequence, kind, target, closing⟩ := dwindles.old one y m
      rcases turn x mx ⟨kind ▸ k.1, target ▸ k.2⟩ with now | done
      · rcases List.mem_cons.mp now with e | later
        · exact .inr (endSeq_ends one fills r y m (sequence.trans e))
        · exact .inl (sequence ▸ later)
      · exact .inr (closing done)

theorem overflowClaims_close {i : Nat} {s : State} (one : s.oneClaimEach) :
    ∀ y ∈ (overflowClaims i s).cle.list, y.intoTank i → y.state = .closing := by
  refine foldEndSeq_transfers _ one (fun y m k => ?_) (fun y m k => ?_)
  · obtain ⟨x, mx, e⟩ := List.mem_map.mp k
    obtain ⟨mx, into⟩ := List.mem_filter.mp mx
    rw [← List.inj_on_of_nodup_map one mx m e]
    simp only [Bool.and_eq_true, beq_iff_eq] at into
    exact into.2
  · refine .inl (List.mem_map_of_mem (List.mem_filter.mpr ⟨m, ?_⟩))
    simp [k.1, k.2]

theorem claimNotice_closed (c : Claim) (s : State) :
    claimNotice c (.travelDone .closed) s = if c.state = .closing then leaveList c s else s := by
  unfold claimNotice
  cases c.state <;> rfl

/-- The close request of a FILL valve lets at most a claim in CLOSING leave (R94). -/
theorem closeFill_dwindles (i : Nat) (s : State) : Dwindles s (notify (closeRole (.fill i) s)) := by
  have closed : Dwindles s (closeRole (.fill i) s).1 := .of (closeRole_cle _ _)
  unfold notify
  rcases closeRole_silence (.fill i) s with e | ⟨n, e, role, kind⟩ <;> rw [e]
  · exact closed
  · have one : [n].foldl dispatch (closeRole (.fill i) s).1 = cleNotice n (closeRole (.fill i) s).1 :=
      dispatch_valve (x := .fillInlet i) role nofun _
    refine closed.trans ?_
    rw [one]
    unfold cleNotice
    split
    · rename_i c found
      have hears := List.find?_some found
      simp only [Bool.and_eq_true, beq_iff_eq] at hears
      have target : c.target ≠ .product := fun p => by
        rw [p, role] at hears
        cases hears.1
      rw [kind, claimNotice_closed]
      split
      · exact .leaveList target _
      · exact .of rfl
    · exact .of rfl

/-- The grants that an OVERFLOW takes back (R120). -/
def Grant.overflowing (g : Grant) : Bool := decide (g.kind = .inflow ∧ 0 < g.remaining)

theorem revokeOverflow_eq (i : Nat) (s : State) : revokeOverflow i s =
    ((s.tankOf i).grants.filter Grant.overflowing).reverse.foldl (fun s g => takeBack i g s) s := by
  have same : (inflows (s.tankOf i).grants).reverse.filter (fun g => decide (0 < g.remaining)) =
      ((s.tankOf i).grants.filter Grant.overflowing).reverse := by
    unfold inflows
    rw [List.filter_reverse, List.filter_filter]
    refine congrArg List.reverse (List.filter_congr fun g _ => ?_)
    unfold Grant.overflowing
    rw [Bool.and_comm, Bool.decide_and]
    cases g.kind <;> rfl
  unfold revokeOverflow
  rw [same]

theorem diff_filter {α : Type} [DecidableEq α] (p : α → Bool) (l : List α) : l.diff (l.filter p) = l.filter fun x => !p x := by
  induction l with
  | nil => rfl
  | cons x l ih =>
    by_cases h : p x = true
    · rw [List.filter_cons_of_pos h, List.diff_cons, List.erase_cons_head, List.filter_cons_of_neg (by simp [h]), ih]
    · have out : x ∉ l.filter p := fun m => h (List.mem_filter.mp m).2
      rw [List.filter_cons_of_neg h, List.cons_diff_of_not_mem out, List.filter_cons_of_pos (by simp [h]), ih]

theorem takeBacks_grants {i : Nat} (h : i < 2) (l : List Grant) (s : State) :
    ((l.foldl (fun s g => takeBack i g s) s).tankOf i).grants = (s.tankOf i).grants.diff l := by
  induction l generalizing s with
  | nil => rfl
  | cons g l ih => rw [List.foldl_cons, ih, takeBack_grants h, List.diff_cons]

/-- Every inflow grant with remaining above 0 is taken back, and no other (R120). -/
theorem revokeOverflow_grants {i : Nat} (h : i < 2) (s : State) :
    ((revokeOverflow i s).tankOf i).grants = (s.tankOf i).grants.filter fun g => !g.overflowing := by
  rw [revokeOverflow_eq, takeBacks_grants h, (List.reverse_perm _).diff_left, diff_filter]

theorem takeBack_bc (i : Nat) (g : Grant) (s : State) :
    (takeBack i g s).bc = (offer ⟨g.id.address, .revoke g.id.sequence⟩ s).1.bc := by
  unfold takeBack State.setGrants State.putTank State.setMemory offer State.serving
  dsimp only [State.setTkm]
  split <;> rfl

/-- REVOKE is offered for each grant taken back, in their order (R116). -/
theorem takeBacks_bc (i : Nat) (l : List Grant) {s : State} (v : s.serving = true) (room : s.bc.queue.length + l.length ≤ 16) :
    (l.foldl (fun s g => takeBack i g s) s).bc.queue = s.bc.queue ++ l.map fun g => ⟨g.id.address, .revoke g.id.sequence⟩ := by
  induction l generalizing s with
  | nil => exact (List.append_nil _).symm
  | cons g l ih =>
    rw [List.length_cons] at room
    have first : (takeBack i g s).bc = { s.bc with queue := s.bc.queue ++ [⟨g.id.address, .revoke g.id.sequence⟩] } := by
      rw [takeBack_bc, offer_takes v (by omega), List.take_of_length_le (by simp; omega)]
    rw [List.foldl_cons, ih (by unfold State.serving at v ⊢; rw [first]; exact v) (by rw [first]; simp; omega), first]
    simp

theorem OnlyCloses.safeOf {s t : State} (h : OnlyCloses s t) {r : Role} (k : s.commandOf r = .safe) : t.commandOf r = .safe := by
  unfold State.commandOf at k ⊢
  rw [actWith_congr h.setup]
  cases e : s.actWith r with
  | none => rfl
  | some a =>
    rw [e] at k
    exact h.safe a k

theorem revokeOverflow_cle (i : Nat) (s : State) : (revokeOverflow i s).cle = s.cle := by
  unfold revokeOverflow
  refine List.foldlRecOn _ _ (motive := fun t : State => t.cle = s.cle) rfl fun t e g _ => ?_
  rw [← e]
  exact offer_cle _ _

section

variable (i : Nat) (s : State)

theorem overflowChange_made : overflowChange i true s = overflowClaims i (notify (closeRole (.fill i) (revokeOverflow i s))) := rfl

/-- The grants stand as the revocation left them. -/
theorem overflowChange_grants (h : i < 2) : ((overflowChange i true s).tankOf i).grants =
    (s.tankOf i).grants.filter fun g => !g.overflowing := by
  have valve : SameHolds (revokeOverflow i s) (notify (closeRole (.fill i) (revokeOverflow i s))) := by
    have closed := SameHolds.closeRole (.fill i) (revokeOverflow i s)
    unfold notify
    rcases closeRole_silence (.fill i) (revokeOverflow i s) with e | ⟨n, e, role, -⟩ <;> rw [e]
    · exact closed
    · have one : [n].foldl dispatch (closeRole (.fill i) (revokeOverflow i s)).1 =
          cleNotice n (closeRole (.fill i) (revokeOverflow i s)).1 := dispatch_valve (x := .fillInlet i) role nofun _
      rw [one]
      exact closed.trans (.cleNotice n _)
  have ended : ∀ t, SameHolds t (overflowClaims i t) := fun t => .endWhere _ .overflow t
  rw [overflowChange_made, (ended _).grants i, valve.grants i, revokeOverflow_grants h]

theorem overflowChange_command : (overflowChange i true s).commandOf (.fill i) = .safe := by
  have closes := OnlyCloses.reacts
  have after : OnlyCloses (closeRole (.fill i) (revokeOverflow i s)).1 (overflowChange i true s) :=
    closes.trans (closes.notify _) (closes.fold (fun s q => closes.endSeq _ q s) _ _)
  exact after.safeOf (closeRole_command _ _)

theorem overflowChange_transfers (one : s.oneClaimEach) :
    ∀ c ∈ (overflowChange i true s).cle.list, c.intoTank i → c.state = .closing := by
  have revoked : (revokeOverflow i s).oneClaimEach := by
    unfold State.oneClaimEach
    rw [revokeOverflow_cle]
    exact one
  exact overflowClaims_close ((closeFill_dwindles i _).one revoked)

theorem overflowChange_revokes (v : s.serving = true)
    (room : s.bc.queue.length + ((s.tankOf i).grants.filter Grant.overflowing).reverse.length ≤ 16) :
    (s.bc.queue ++ ((s.tankOf i).grants.filter Grant.overflowing).reverse.map fun g => ⟨g.id.address, .revoke g.id.sequence⟩) <+:
      (overflowChange i true s).bc.queue := by
  rw [← takeBacks_bc i _ v room, ← revokeOverflow_eq]
  exact (overflowClaims_works (notify_works (closeRole_works (.refl _) (.fill i))) i).queue

end

end Sys2Proof.Machine
end

section

namespace Sys2Proof.Machine

/-! ## A change of an OVERFLOW contact (R110, R120) -/

theorem sampleContact_snd {c : Nat} {s : State} (h : (s.contactSetup c).role ≠ .none) (closed : Bool) :
    (sampleContact c closed s).2 = if (debounce (closed != (s.contactSetup c).inverted) (s.contact c)).2 = true then
      some (closed != (s.contactSetup c).inverted) else none := by
  unfold sampleContact
  dsimp only
  rw [if_neg h]
  split
  · rename_i changed
    exact congrArg some ((debounce_active _ _).2 changed)
  · rfl

theorem overflows_iff (closed : Bool) (c : Nat) (s : State) : overflows closed c s = true ↔
    ∃ i, (s.contactSetup c).role = .overflow i ∧ (debounce (closed != (s.contactSetup c).inverted) (s.contact c)).2 = true := by
  unfold overflows
  split
  · rename_i i role
    rw [sampleContact_snd (by rw [role]; nofun)]
    split <;> rename_i changed <;> simp [role, changed]
  · rename_i other
    exact ⟨nofun, fun ⟨i, role, _⟩ => absurd role (other i)⟩

section

variable (g : Nat) (returns : Byte) (s : State)

/-- One queue scan follows a sampling at which an OVERFLOW contact changed (R110). -/
theorem sampleGroup_overflows (h : ∃ r, r < 8 ∧ overflows (returns.getLsbD r) (8 * g + r) s = true) :
    sampleGroup g returns s = scanQueue (s.stepped g returns) := by
  obtain ⟨r, k, e⟩ := h
  unfold sampleGroup
  exact if_pos (List.any_eq_true.mpr ⟨r, List.mem_range.mpr k, e⟩)

theorem sampleGroup_plain (h : ∀ r, r < 8 → overflows (returns.getLsbD r) (8 * g + r) s ≠ true) :
    sampleGroup g returns s = s.stepped g returns := by
  unfold sampleGroup
  exact if_neg fun e => by
    obtain ⟨r, m, k⟩ := List.any_eq_true.mp e
    exact h r (List.mem_range.mp m) k

end

/-! ## The CONTACT record and its repeat (R62, R63, R64) -/

section

variable {c : Nat} {s : State} (h : (s.contactSetup c).role ≠ .none) (closed : Bool)

include h

theorem sampleContact_still (k : (debounce (closed != (s.contactSetup c).inverted) (s.contact c)).2 = false) :
    (sampleContact c closed s).1.port = s.port := by
  unfold sampleContact
  dsimp only
  rw [if_neg h, k]
  rfl

theorem sampleContact_told (k : (debounce (closed != (s.contactSetup c).inverted) (s.contact c)).2 = true)
    (room : s.port.ring.length < 32) : (sampleContact c closed s).1.port = { s.port with ring := s.port.ring ++
      [⟨.contact c (s.contactSetup c).role (closed != (s.contactSetup c).inverted) false (decide (s.fsc.scans = 1)), s.bc.round,
        false⟩] } := by
  unfold sampleContact
  dsimp only
  rw [if_neg h, if_pos k, (debounce_active _ _).2 k, report_joins _ (by exact room)]
  rfl

end

/-- A due repeat of a made alarm contact: its record, and the timer at 500 (R62). -/
theorem repeatAlarm_made {c : Nat} {s : State} (alarm : (s.contactSetup c).alarm = true) (active : (s.contact c).active = true)
    (zero : (s.contact c).repeatTimer = 0) (room : s.port.ring.length < 32) : repeatAlarm c s =
      (s.setPort { s.port with ring := s.port.ring ++
        [⟨.contact c (s.contactSetup c).role true true false, s.bc.round, false⟩] }).putContact c
          { s.contact c with repeatTimer := 500 } := by
  unfold repeatAlarm
  dsimp only
  rw [if_pos (by simp [alarm, active, zero]), report_joins _ room]

theorem exec_alarmRepeat {s : State} {c : Nat} {rest : List Due} (h : s.dueNext (.alarmRepeat c) rest) :
    exec (.alarmRepeat c) s = .next (repeatAlarm c (s.setDue rest)) := congrArg Host.Outcome.next (ownEvent_next h)

/-! ## The samplings together -/

/-- Settles O42: a sampling contact by contact, each taken once; the scan by its timers, cells and drops, which read no group number; the
OVERFLOW by what it takes back and the transfers that it ends one by one. -/
theorem contactsAreSampled : Obligations.ContactsAreSampled := by
  refine ⟨⟨fun returns permit first s ready hears h => ?_, fun returns permit first s ready hears h => ?_,
    fun returns permit first s ready deaf => ?_⟩,
    ⟨fun i s two t e => ?_, fun i s => rfl, fun g returns s => ⟨fun h => ?_, fun h => ?_⟩⟩,
    fun sample c bound => ⟨fun same => ?_, fun other zero => ?_, fun other one => ?_⟩,
    fun c closed s role => ⟨fun still => ?_, fun changed room => ?_⟩, fun c rest s due range alarm active zero room => ?_⟩
  · obtain ⟨group, scans, pins, ila⟩ := earlySample_scan s returns permit h _ rfl
    refine ⟨_, groupSample_early ready hears returns permit first h, group, scans, pins, ila, fun r k none => ?_,
      fun r k role c e => ?_, fun c out => sampleGroup_others returns (s.begun permit) out⟩
    · rw [sampleGroup_own returns (s.begun permit) (by omega) k]
      exact sampled_none _ none
    · subst e
      rw [sampleGroup_own returns (s.begun permit) (by omega) k]
      obtain ⟨active, disagree⟩ := sampled_debounce role (returns.getLsbD r)
      exact ⟨active, disagree, sampled_timer role _⟩
  · obtain ⟨setup, group, scans, pins⟩ := lastSample_scan s returns permit first ready.2 h
    refine ⟨s.lastSample returns permit first, groupSample_last ready hears returns permit first h, group, scans, pins,
      fun r k role => lastSample_levels s returns permit first ready.2 k role, ?_, ?_, ?_, ?_⟩
    · rintro rfl
      exact thenSample_ila s returns permit ready.2
    · rintro rfl
      exact thenScan_ila s returns permit
    · rintro rfl a l u set
      exact thenScan_interlocked s returns permit l u (by rw [actSetup_congr setup, set])
    · rintro rfl roles free
      exact ⟨fun c l => thenScan_repeats ready.2 returns permit roles free l,
        fun a l u set => thenScan_travels ready.2 returns permit roles free l set⟩
  · rw [exec_groupSample ready, deaf]
    rfl
  · subst e
    refine ⟨?_, overflowChange_command i s, fun one c m kind target => overflowChange_transfers i s one c m ⟨kind, target⟩,
      fun out e v room => ?_⟩
    · rw [overflowChange_grants i s two]
      exact List.filter_congr fun g _ => (decide_not ..).symm
    · subst e
      exact overflowChange_revokes i s v room
  · exact sampleGroup_plain g returns s fun r k e => by
      obtain ⟨i, role, changed⟩ := (overflows_iff _ _ s).mp e
      exact (h r k i).elim (absurd role) fun still => by rw [still] at changed; cases changed
  · obtain ⟨r, k, found⟩ := h
    exact sampleGroup_overflows g returns s ⟨r, k, (overflows_iff _ _ s).mpr found⟩
  · exact if_pos same
  · exact (if_neg other).trans (if_pos zero)
  · exact (if_neg other).trans (if_neg (by omega))
  · exact ⟨sampleContact_still role closed still, by rw [sampleContact_snd role, still]; rfl⟩
  · exact ⟨_, rfl, by rw [sampleContact_snd role, if_pos changed], sampleContact_told role closed changed room⟩
  · have made := repeatAlarm_made (s := s.setDue rest) alarm active zero room
    refine ⟨_, exec_alarmRepeat due, ?_, ?_, ?_, fun d n => ?_, ?_⟩ <;> rw [made]
    · rfl
    · rfl
    · exact (contact_putContact _ c c _).trans (if_pos ⟨rfl, range⟩)
    · exact (contact_putContact _ c d _).trans (if_neg fun k => n k.1.symm)
    · rfl

end Sys2Proof.Machine
end

section

namespace Sys2Proof.Machine

/-! ## The rows of Table 5-2 (R80) -/

/-- Segment ids are ordered by station, then by index. -/
theorem segLt_iff (a b : SegId) : segLt a b = true ↔ a.station < b.station ∨ (a.station = b.station ∧ a.index < b.index) := by
  simp [segLt]

/-- A path in which each segment lies below the next is ordered as a whole. -/
theorem ascending_pairwise (l : List SegId) : ascending l = true ↔
    l.Pairwise fun a b => a.station < b.station ∨ (a.station = b.station ∧ a.index < b.index) := by
  have order : IsTrans SegId fun a b => a.station < b.station ∨ (a.station = b.station ∧ a.index < b.index) :=
    ⟨fun _ _ _ => by omega⟩
  simp only [ascending_iff, segLt_iff]
  exact List.isChain_iff_pairwise

theorem goodPath_iff (l : List SegId) : goodPath l = true ↔
    l.Pairwise (fun a b => a.station < b.station ∨ (a.station = b.station ∧ a.index < b.index)) ∧
      ∀ g ∈ l, 1 ≤ g.station ∧ g.station ≤ 24 ∧ g.index ≤ 3 := by
  simp only [goodPath, Bool.and_eq_true, ascending_pairwise, List.all_eq_true, goodSeg, validAddr_iff, decide_eq_true_eq, and_assoc]

theorem noSuchTank_iff (s : State) (t : TankId) : s.noSuchTank t = true ↔
    ∃ e, s.nwtOf t.station = some e ∧ ∀ i ∈ e.record.tanks, i.index ≠ t.index := by
  unfold State.noSuchTank
  cases s.nwtOf t.station <;> simp

/-- The kind suits the target, whose index is in range, and a transfer does not name the tank it fills (Table 5-2, row 2). -/
theorem goodArgs_iff (s : State) (n : NewClaim) : goodArgs s n = true ↔
    (1 ≤ n.cls ∧ n.cls ≤ 5) ∧ (1 ≤ n.volume ∧ n.volume ≤ 65535) ∧ (10 ≤ n.wait ∧ n.wait ≤ 3000) ∧
      (1 ≤ n.tank.station ∧ n.tank.station ≤ 24) ∧ n.tank.index ≤ 1 ∧ n.path.length ≤ 4 ∧
      ((n.kind = .draw ∧ ∃ p, n.target = .drawPort p ∧ p ≤ 1) ∨ (n.kind = .draw ∧ n.target = .flush) ∨
        (n.kind = .transfer ∧ ∃ t, n.target = .fillInlet t ∧ t ≤ 1 ∧ n.tank ≠ ⟨s.ident.address, t⟩) ∨
        (n.kind = .inflow ∧ n.target = .product)) := by
  obtain ⟨kind, target, tank, cls, volume, wait, path, creator⟩ := n
  have target_suits : (suits kind target && match target with
      | .drawPort p => decide (p ≤ 1)
      | .fillInlet t => decide (t ≤ 1) && tank != ⟨s.ident.address, t⟩
      | _ => true) = true ↔ (kind = .draw ∧ ∃ p, target = .drawPort p ∧ p ≤ 1) ∨ (kind = .draw ∧ target = .flush) ∨
        (kind = .transfer ∧ ∃ t, target = .fillInlet t ∧ t ≤ 1 ∧ tank ≠ ⟨s.ident.address, t⟩) ∨
        (kind = .inflow ∧ target = .product) := by
    cases target <;> cases kind <;> simp [suits]
  rw [← target_suits]
  unfold goodArgs
  simp only [Bool.and_eq_true, decide_eq_true_eq, validAddr_iff]
  tauto

/-- Settles O33: the rows are tested in their order, each by its own condition. -/
theorem creationRefusals : Obligations.CreationRefusals := by
  intro s n row1 row2 row3 row4 row5 row6 row7 state args target busy full path tank
  have occupied : (s.cle.list.any (·.target == n.target)) = true ↔ row4 := by simp [busy]
  rw [← goodArgs_iff] at args
  rw [← goodPath_iff] at path
  rw [← noSuchTank_iff] at tank
  rw [state, args, target, ← occupied, full, path, tank]
  unfold createRefusal
  by_cases joined : s.bc.busState = .joined
  · cases goodArgs s n
    · simp [joined]
    cases s.targetSetUp n.target
    · simp [joined]
    cases s.cle.list.any (·.target == n.target)
    · by_cases roomless : 8 ≤ s.cle.list.length
      · simp [joined, roomless]
      cases goodPath n.path
      · simp [joined, roomless]
      cases s.noSuchTank n.tank <;> simp [joined, roomless]
    · simp [joined]
  · simp [joined]

end Sys2Proof.Machine
end

section

namespace Sys2Proof.Machine

/-! ## The messages of owners at the claim engine (R84, R85, R88, R89, R96) -/

section

variable {s : State} (r : s.ready) (v : s.serving = true)

include r v

theorem exec_holdGiven (src q i : Nat) : exec (.holdGiven src q i) s = .next (takeHoldGiven src q i s) := by
  obtain ⟨-, -, given, -⟩ := exec_message r src 0 q i 0 0
  exact given.trans (congrArg Host.Outcome.next (if_pos v))

theorem exec_holdRefused (src q i : Nat) (x : HoldReason) : exec (.holdRefused src q i x) s = .next (takeHoldRefused src q i x s) := by
  obtain ⟨-, -, -, refused, -⟩ := exec_message r src 0 q i 0 0
  exact (refused x).trans (congrArg Host.Outcome.next (if_pos v))

theorem exec_grant (src q n : Nat) : exec (.grant src q n) s = .next (takeGrant src q s) := by
  obtain ⟨-, -, -, -, -, grant, -⟩ := exec_message r src 0 q 0 0 n
  exact grant.trans (congrArg Host.Outcome.next (if_pos v))

theorem exec_refuse (src q : Nat) (x : RefuseReason) : exec (.refuse src q x) s = .next (takeRefuse src q x s) := by
  obtain ⟨-, -, -, -, -, -, refuse, -⟩ := exec_message r src 0 q 0 0 0
  exact (refuse x).trans (congrArg Host.Outcome.next (if_pos v))

theorem exec_revoke (src q : Nat) : exec (.revoke src q) s = .next (takeRevoke src q s) := by
  obtain ⟨-, -, -, -, -, -, -, revoke, -⟩ := exec_message r src 0 q 0 0 0
  exact revoke.trans (congrArg Host.Outcome.next (if_pos v))

end

/-! ## A request made again (R81, R86, R87) -/

/-- The state behind a request of a claim. -/
structure State.requests (s t : State) (c : Claim) : Prop where
  frame : t = { s with cle := t.cle, bc := t.bc }
  nextSeq : t.cle.nextSeq = s.cle.nextSeq
  self : (∃ x, s.claimOf c.sequence = some x) →
    t.claimOf c.sequence = some { c with repeatTimer := if s.serving = true ∧ s.bc.queue.length < 16 then 5 else 1 }
  others : ∀ p, p ≠ c.sequence → t.claimOf p = s.claimOf p
  joins : s.serving = true → s.bc.queue.length < 16 → t.bc = { s.bc with queue := s.bc.queue ++ [c.request] }
  drops : 16 ≤ s.bc.queue.length → t.bc = s.bc

/-- The repeat timer tells whether the queue took the request (R87). -/
theorem offerRequest_requests (c : Claim) (s : State) : s.requests (offerRequest c s) c := by
  have put : ∀ n q, (s.putClaim { c with repeatTimer := n }).claimOf q =
      if c.sequence = q then (s.claimOf q).map fun _ => { c with repeatTimer := n } else s.claimOf q :=
    fun n q => claimOf_putClaim s { c with repeatTimer := n } q
  by_cases h : s.serving = true ∧ s.bc.queue.length < 16
  · obtain ⟨v, room⟩ := h
    rw [offerRequest_joins c v room]
    refine ⟨rfl, rfl, fun ⟨x, found⟩ => ?_, fun p n => ?_, fun _ _ => rfl, fun f => absurd room (Nat.not_lt.mpr f)⟩
    · exact (put 5 c.sequence).trans (by rw [if_pos rfl, found, if_pos ⟨v, room⟩]; rfl)
    · exact (put 5 p).trans (if_neg n.symm)
  · have dropped : offerRequest c s = s.putClaim { c with repeatTimer := 1 } := by
      unfold offerRequest
      rw [offer_refused c.request (by by_cases v : s.serving = true
                                      · exact .inr (Nat.not_lt.mp fun room => h ⟨v, room⟩)
                                      · exact .inl (Bool.not_eq_true _ ▸ v))]
      rfl
    rw [dropped]
    refine ⟨rfl, rfl, fun ⟨x, found⟩ => ?_, fun p n => ?_, fun v room => absurd ⟨v, room⟩ h, fun _ => rfl⟩
    · rw [put 1 c.sequence, if_pos rfl, found, if_neg h]
      rfl
    · exact (put 1 p).trans (if_neg n.symm)

/-! ## HOLD-GIVEN (R84, R85, R101) -/

/-- The record of a claim that one more segment is held for. -/
def Claim.holdsNext (c : Claim) : Claim :=
  { c with held := c.held + 1, state := if c.held + 1 = c.path.length then .asking else .pathing }

theorem holdsNext_request {c : Claim} {g : SegId} (asked : c.path[c.held]? = some g) : c.holdsNext.request =
    match c.path[c.held + 1]? with
    | some g => ⟨g.station, .holdReq c.sequence g.index c.cls⟩
    | none => ⟨c.tank.station, .claim c.sequence c.kind c.tank.index c.cls c.volume⟩ := by
  obtain ⟨below, -⟩ := List.getElem?_eq_some_iff.mp asked
  unfold Claim.request Claim.asked Claim.holdsNext
  by_cases last : c.held + 1 = c.path.length
  · rw [List.getElem?_eq_none (by omega : c.path.length ≤ c.held + 1)]
    simp [last]
  · rw [List.getElem?_eq_getElem (by omega : c.held + 1 < c.path.length)]
    simp [last]

theorem takeHoldGiven_asked {src q i : Nat} {c : Claim} {s : State} (found : s.claimOf q = some c) (pathing : c.state = .pathing)
    (asked : c.path[c.held]? = some ⟨src, i⟩) : takeHoldGiven src q i s = offerRequest c.holdsNext s := by
  have test : (decide (c.state = .pathing) && c.asked == some ⟨src, i⟩) = true := by
    rw [pathing, show c.asked = some ⟨src, i⟩ from asked]
    simp
  unfold takeHoldGiven
  rw [found]
  exact if_pos test

/-- A segment that the claim does not ask for is given back unless it is held (R85). -/
theorem takeHoldGiven_unasked {src q i : Nat} {c : Claim} {s : State} (found : s.claimOf q = some c)
    (other : c.state ≠ .pathing ∨ c.path[c.held]? ≠ some ⟨src, i⟩) : takeHoldGiven src q i s =
      if c.heldSegs.contains ⟨src, i⟩ then s else send src (.holdFree q i) s := by
  have test : ¬(decide (c.state = .pathing) && c.asked == some ⟨src, i⟩) = true := by
    simpa [Claim.asked, imp_iff_not_or] using other
  unfold takeHoldGiven
  rw [found]
  exact if_neg test

theorem takeHoldGiven_gone {src q i : Nat} {s : State} (gone : s.claimOf q = none) :
    takeHoldGiven src q i s = send src (.holdFree q i) s := by
  unfold takeHoldGiven
  rw [gone]

/-- Settles O27: the asked segment is held and the next request made; any other is given back unless it is held already. -/
theorem holdGivenIsHandled : Obligations.HoldGivenIsHandled := by
  intro src q i s r v
  refine ⟨fun c found pathing asked => ?_, fun c found other => ?_, fun gone => ?_⟩
  · obtain rfl := claimOf_sequence found
    have requests := offerRequest_requests c.holdsNext s
    refine ⟨_, by rw [exec_holdGiven r v, takeHoldGiven_asked found pathing asked], ?_, fun room => ?_, requests.drops, requests.others⟩
    · refine (requests.self ⟨c, found⟩).trans ?_
      simp only [v, true_and]
      rfl
    · exact (requests.joins v room).trans
        (congrArg (fun m => ({ s.bc with queue := s.bc.queue ++ [m] } : BusCtl)) (holdsNext_request asked))
  · rw [exec_holdGiven r v, takeHoldGiven_unasked found other]
    refine ⟨fun held => congrArg Host.Outcome.next (if_pos ?_), fun free => congrArg Host.Outcome.next (if_neg ?_)⟩
    · exact List.contains_iff_mem.mpr held
    · exact fun held => free (List.contains_iff_mem.mp held)
  · rw [exec_holdGiven r v, takeHoldGiven_gone gone]

end Sys2Proof.Machine
end

section

namespace Sys2Proof.Machine

/-! ## What a claim leaves with (R82) -/

/-- The final messages of a claim, in the order of the state it leaves from. -/
def Claim.parting (c : Claim) : List Message :=
  match c.state with
  | .pathing => holdFrees c.sequence c.heldSegs ++ if byHoldRefused c then [] else holdFrees c.sequence c.asked.toList
  | .asking => (if byRefuse c then [] else [⟨c.tank.station, .cancel c.sequence⟩]) ++ holdFrees c.sequence c.heldSegs
  | _ => ⟨c.tank.station, .endMsg c.sequence c.delivered c.endReason⟩ :: holdFrees c.sequence c.heldSegs

theorem finalMessages_offerAll (c : Claim) (s : State) : finalMessages c s = offerAll c.parting s := by
  unfold finalMessages Claim.parting
  cases c.state with
  | pathing => cases byHoldRefused c <;> simp [freeSegs_offerAll, offerAll]
  | asking => cases byRefuse c <;> simp [freeSegs_offerAll, offerAll, send]
  | flowing => simp [freeSegs_offerAll, offerAll, send]
  | closing => simp [freeSegs_offerAll, offerAll, send]

theorem left_cle (s : State) (c : Claim) :
    (s.left c).cle = { s.cle with list := s.cle.list.filter fun x => x.sequence != c.sequence } := by
  unfold State.left State.dropClaim State.setClaims
  simp only [report_cle, finalMessages_cle]
  rfl

theorem left_offered (s : State) (c : Claim) : s.offered (s.left c) c.parting := by
  intro v full
  refine (report_bc _ _).trans ?_
  rw [finalMessages_offerAll]
  exact offerAll_takes _ v full

theorem left_reported {s : State} (room : s.port.ring.length < 32) (c : Claim) :
    ⟨.claimEnd c (endedFrom c.state), s.bc.round, false⟩ ∈ (s.left c).port.ring := by
  have sent := manages_sends.finalMessages c s
  have ring := report_room (s := finalMessages c s) (by rwa [sent.port]) (.claimEnd c (endedFrom c.state))
  rw [sent] at ring
  change _ ∈ (report (.claimEnd c (endedFrom c.state)) (finalMessages c s)).port.ring
  rw [sent, ring]
  simp

theorem leaveList_offeredFirst (c : Claim) (s : State) : s.offeredFirst (leaveList c s) c.parting :=
  Works.offeredFirst (left_offered s c) (handOutcome_works (.refl _) c c.endReason)

theorem leaveList_tells (c : Claim) (s : State) : s.tells (leaveList c s) 0 (.claimEnd c (endedFrom c.state)) := by
  have told := report_tells (finalMessages c s) (.claimEnd c (endedFrom c.state))
  have sent := manages_sends.finalMessages c s
  have left : s.tells (s.left c) 0 (.claimEnd c (endedFrom c.state)) := by
    unfold State.tells at told ⊢
    rwa [sent.port] at told
  exact left.later (handOutcome_works (.refl _) c c.endReason)

theorem leaveList_round (c : Claim) (s : State) : (leaveList c s).bc.round = s.bc.round := by
  rw [(leaveList_works (.refl s) c).bc]

theorem leaveList_reported {c : Claim} {s : State} (room : s.port.ring.length < 32) :
    ∃ x ∈ (leaveList c s).port.ring, x.round = s.bc.round ∧ x.body = .claimEnd c (endedFrom c.state) := by
  obtain ⟨x, m, body, round⟩ := reported_of_tells (leaveList_tells c s) room (leaveList_round c s)
  exact ⟨x, m, round, body⟩

/-- A claim that makes no train ask leaves nothing behind its final messages. -/
theorem leaveList_offered {c : Claim} {s : State} (quiet : c.creator ≠ .train ∨ c.target ≠ .product ∨ rated s.trs.state = false) :
    s.offered (leaveList c s) c.parting := by
  intro v full
  have concludes : Concludes (s.left c) (leaveList c s) := .handOutcome (by rwa [left_trs]) c.endReason
  exact concludes.bc.trans (left_offered s c v full)

/-- The record of a claim that a cause ends in PATHING or ASKING. -/
def Claim.ended (c : Claim) (r : EndReason) (o : Option OwnerReason) : Claim := { c with reason := some r, owner := o }

theorem endClaim_waits {c : Claim} (waits : c.state = .pathing ∨ c.state = .asking) (r : EndReason) (o : Option OwnerReason) (s : State) :
    endClaim c r o s = leaveList (c.ended r o) s := by
  unfold endClaim Claim.ended
  split
  · rename_i flowing
    simp [flowing] at waits
  · rename_i closing
    simp [closing] at waits
  · rfl

/-! ## The refusals of owners (R89, R101) -/

/-- The record of a claim that a refusal ends. -/
def Claim.failed (c : Claim) (o : OwnerReason) : Claim := c.ended .failed (some o)

/-- No HOLD-FREE goes to the owner that refused the segment (R82). -/
theorem parting_holdRefused {c : Claim} (pathing : c.state = .pathing) (x : HoldReason) :
    (c.failed (.hold x)).parting = holdFrees c.sequence (c.path.take c.held) := by
  unfold Claim.parting Claim.failed Claim.ended byHoldRefused
  simp [pathing, Claim.heldSegs]

/-- No CANCEL goes to the owner that refused the claim (R82). -/
theorem parting_refused {c : Claim} (asking : c.state = .asking) (x : RefuseReason) :
    (c.failed (.refuse x)).parting = holdFrees c.sequence (c.path.take c.held) := by
  unfold Claim.parting Claim.failed Claim.ended byRefuse
  simp [asking, Claim.heldSegs]

theorem takeHoldRefused_asked {src q i : Nat} {x : HoldReason} {c : Claim} {s : State} (found : s.claimOf q = some c)
    (pathing : c.state = .pathing) (asked : c.path[c.held]? = some ⟨src, i⟩) :
    takeHoldRefused src q i x s = leaveList (c.failed (.hold x)) s := by
  have test : (decide (c.state = .pathing) && c.asked == some ⟨src, i⟩) = true := by
    rw [pathing, show c.asked = some ⟨src, i⟩ from asked]
    simp
  unfold takeHoldRefused
  rw [found]
  exact (if_pos test).trans (endClaim_waits (.inl pathing) _ _ s)

theorem takeHoldRefused_unasked {src q i : Nat} {x : HoldReason} {s : State}
    (other : ∀ c, s.claimOf q = some c → c.state ≠ .pathing ∨ c.path[c.held]? ≠ some ⟨src, i⟩) :
    takeHoldRefused src q i x s = s := by
  unfold takeHoldRefused
  cases found : s.claimOf q with
  | none => rfl
  | some c =>
    have differs := other c found
    exact if_neg (by simpa [Claim.asked, imp_iff_not_or] using differs)

theorem takeRefuse_asking {src q : Nat} {x : RefuseReason} {c : Claim} {s : State} (found : s.claimOf q = some c)
    (asking : c.state = .asking) (owner : c.tank.station = src) : takeRefuse src q x s = leaveList (c.failed (.refuse x)) s := by
  unfold takeRefuse
  rw [found]
  exact (if_pos (by simp [owner, asking])).trans (endClaim_waits (.inr asking) _ _ s)

theorem takeRefuse_other {src q : Nat} {x : RefuseReason} {s : State}
    (other : ∀ c, s.claimOf q = some c → c.state ≠ .asking ∨ c.tank.station ≠ src) : takeRefuse src q x s = s := by
  unfold takeRefuse
  cases found : s.claimOf q with
  | none => rfl
  | some c =>
    have differs := other c found
    exact if_neg (by simpa [imp_iff_not_or, or_comm] using differs)

/-- From `s` to `t` a claim left the list with a record of its end and these messages, which for any creator but the train is all. -/
theorem leaveList_refused {s : State} {c : Claim} {l : List Message} {o : OwnerReason} (parting : (c.failed o).parting = l)
    (st : endedFrom c.state = c.state) :
    (s.port.ring.length < 32 → ∃ x ∈ (leaveList (c.failed o) s).port.ring, x.round = s.bc.round ∧
      x.body = .claimEnd (c.failed o) c.state) ∧
    s.offeredFirst (leaveList (c.failed o) s) l ∧
    (c.creator ≠ .train →
      (leaveList (c.failed o) s).cle = { s.cle with list := s.cle.list.filter fun x => x.sequence != c.sequence } ∧
        s.offered (leaveList (c.failed o) s) l) := by
  subst parting
  refine ⟨fun room => ?_, leaveList_offeredFirst _ s, fun stranger =>
    ⟨leaveList_cle (.inl stranger), leaveList_offered (.inl stranger)⟩⟩
  have told := leaveList_reported (c := c.failed o) room
  rwa [show endedFrom (c.failed o).state = c.state from st] at told

/-- Settles O28: a refusal of the owner asked ends the claim; any other changes nothing. -/
theorem refusalsEndClaims : Obligations.RefusalsEndClaims := by
  intro src q s r v
  refine ⟨fun i x c found pathing asked => ?_, fun i x other => ?_, fun x c found asking owner => ?_, fun x other => ?_⟩
  · obtain rfl := claimOf_sequence found
    have ended := leaveList_refused (s := s) (parting_holdRefused pathing x) (by rw [pathing]; rfl)
    rw [pathing] at ended
    exact ⟨_, by rw [exec_holdRefused r v, takeHoldRefused_asked found pathing asked], ended⟩
  · rw [exec_holdRefused r v, takeHoldRefused_unasked other]
  · obtain rfl := claimOf_sequence found
    have ended := leaveList_refused (s := s) (parting_refused asking x) (by rw [asking]; rfl)
    rw [asking] at ended
    exact ⟨_, by rw [exec_refuse r v, takeRefuse_asking found asking owner], ended⟩
  · rw [exec_refuse r v, takeRefuse_other other]

end Sys2Proof.Machine
end

section

namespace Sys2Proof.Machine

/-! ## Claims of the Local Port (R78 to R81, Table 5-2) -/

/-- A creation touches nothing but the claims and the bus controller. -/
theorem createClaim_frame (n : NewClaim) (s : State) :
    (createClaim n s).1 = { s with cle := (createClaim n s).1.cle, bc := (createClaim n s).1.bc } := by
  cases h : createRefusal s n with
  | some r => rw [createClaim_no h]
  | none =>
    rw [createClaim_ok h]
    exact (offerRequest_requests _ _).frame

/-- A request of the port that is the creation of a claim: what it answers and leaves behind. -/
theorem created_answered {s : State} {c : Instr} {n : NewClaim}
    (made : exec c s = .next ((createClaim n s).1.answered (createAnswer (createClaim n s).2) false false)) :
    (∀ reason, createRefusal s n = some reason → exec c s = .next (s.answered (createAnswer (.no reason)) false false)) ∧
    (createRefusal s n = none → s.cle.nextSeq < 256 → ∃ t, exec c s = .next t ∧ ∃ q, s.makes t n q ∧
      t = { s with cle := t.cle, bc := t.bc }.answered [0, byteOf q] false false) := by
  refine ⟨fun reason refused => ?_, fun granted next => ?_⟩
  · rw [made, createClaim_no refused]
  · obtain ⟨q, value, makes⟩ := createClaim_makes granted next
    refine ⟨_, made, q, makes, ?_⟩
    rw [value]
    exact congrArg (fun t => State.answered t [0, byteOf q] false false) (createClaim_frame n s)

theorem fillClass_set {s : State} {tank cls : Nat} (set : ∀ f, s.fillSetup tank = some f → cls = f.cls)
    (unset : s.fillSetup tank = none → cls = 4) : s.fillClass tank = cls := by
  unfold State.fillClass
  cases h : s.fillSetup tank with
  | none => exact (unset h).symm
  | some f => exact (set f h).symm

theorem defaultWait_set {s : State} {x : StationItem} (set : s.setup.station = some x) : s.defaultWait = x.wait := by
  unfold State.defaultWait
  rw [set]
  rfl

/-- Settles O32: DRAW and FILL are the creation of a claim and its answer. -/
theorem portClaimsAreMade : Obligations.PortClaimsAreMade := by
  refine ⟨fun p tank cls v w path s r joined => created_answered ?_, fun tank source v path cls s r joined set unset x station =>
    created_answered ?_, fun _ => rfl, rfl, rfl, rfl, rfl, rfl, rfl, rfl⟩
  · exact exec_request (r := .draw p tank cls v w path) rfl r (by rw [joined]; rfl)
  · have request := exec_request (c := .fill tank source v path) (r := .fill tank source v path) rfl r (by rw [joined]; rfl)
    have asks : doRequest (.fill tank source v path) s =
        ((createClaim ⟨.transfer, .fillInlet tank, source, s.fillClass tank, v, s.defaultWait, path, .port⟩ s).1,
          createAnswer (createClaim ⟨.transfer, .fillInlet tank, source, s.fillClass tank, v, s.defaultWait, path, .port⟩ s).2) := rfl
    rw [asks, fillClass_set set unset, defaultWait_set station] at request
    exact request

/-! ## Pulses (R92, R93, R155) -/

theorem exec_meterPulse {s : State} (r : s.ready) (m : Nat) : exec (.meterPulse m) s = .next (takePulse m s) :=
  congrArg Host.Outcome.next (act_ready r _)

/-- The state behind a pulse that ends no claim. -/
def pulsed (m : Nat) (c : Claim) (s : State) : State := productPulse (meter (s.weight m) c) (s.weight m) (s.putClaim (meter (s.weight m) c))

theorem takePulse_eq {m : Nat} {c : Claim} {s : State} (counted : s.counted m = some c) : takePulse m s =
    if c.state = .flowing ∧ c.volume ≤ (meter (s.weight m) c).delivered then toClosing (meter (s.weight m) c) .done (pulsed m c s)
    else pulsed m c s := by
  unfold takePulse
  rw [counted]
  simp only [Bool.and_eq_true, decide_eq_true_eq]
  rfl

theorem productPulse_cle (c : Claim) (w : Nat) (s : State) : (productPulse c w s).cle = s.cle := by
  unfold productPulse
  split <;> rfl

theorem productPulse_frame (c : Claim) (w : Nat) (s : State) : productPulse c w s = { s with trs := (productPulse c w s).trs } := by
  unfold productPulse
  split <;> rfl

theorem rated_iff (x : TrainState) : rated x = true ↔ x = .producing ∨ x = .diverting := by
  cases x <;> simp [rated]

theorem productPulse_rated {c : Claim} {s : State} (product : c.target = .product) (running : rated s.trs.state = true) (w : Nat) :
    (productPulse c w s).trs = { s.trs with productCount := s.trs.productCount + w } := by
  unfold productPulse
  rw [if_pos (by simp [product, running])]
  rfl

theorem productPulse_other {c : Claim} {s : State} (h : ¬(c.target = .product ∧ rated s.trs.state = true)) (w : Nat) :
    productPulse c w s = s := if_neg (by simpa using h)

/-- Settles O34: a pulse is counted in the record of its claim, and to the product of the train. -/
theorem pulsesAreCounted : Obligations.PulsesAreCounted := by
  refine ⟨fun m s r none => ?_, fun m c s r counted found _ short => ?_⟩
  · rw [exec_meterPulse r]
    unfold takePulse
    rw [none]
  · have stays : ¬(c.state = .flowing ∧ c.volume ≤ (meter (s.weight m) c).delivered) := by
      rintro ⟨flowing, full⟩
      rcases short with closing | below
      · rw [flowing] at closing
        cases closing
      · omega
    have frame := productPulse_frame (meter (s.weight m) c) (s.weight m) (s.putClaim (meter (s.weight m) c))
    have cle := productPulse_cle (meter (s.weight m) c) (s.weight m) (s.putClaim (meter (s.weight m) c))
    refine ⟨pulsed m c s, by rw [exec_meterPulse r, takePulse_eq counted, if_neg stays], ?_, ?_, ?_, ?_, fun p other => ?_, ?_, ?_⟩
    · refine (claimOf_congr cle _).trans ((claimOf_putClaim s _ _).trans ((if_pos rfl).trans ?_))
      rw [found]
      rfl
    · unfold pulsed
      rw [frame]
      rfl
    · exact (congrArg Claims.nextSeq cle).trans rfl
    · exact (congrArg Claims.list cle).trans rfl
    · exact (claimOf_congr cle p).trans ((claimOf_putClaim s _ p).trans (if_neg other.symm))
    · intro unrated
      rw [← rated_iff] at unrated
      have same := productPulse_other (c := meter (s.weight m) c) (s := s.putClaim (meter (s.weight m) c)) unrated (s.weight m)
      exact (congrArg State.trs same).trans rfl
    · intro product running
      exact productPulse_rated (c := meter (s.weight m) c) (s := s.putClaim (meter (s.weight m) c)) product
        ((rated_iff _).mpr running) (s.weight m)

end Sys2Proof.Machine
end

section

namespace Sys2Proof.Machine

/-! ## The close request of a claim's valve (R66, R94) -/

/-- A close request of any role but HIGHPRESS touches actuators alone. -/
theorem closeRole_frame {r : Role} (h : r ≠ .highpress) (s : State) : (closeRole r s).1 = { s with act := (closeRole r s).1.act } := by
  have closes := closeRole_closes r s
  have serves := closeRole_serves h s
  generalize (closeRole r s).1 = t at closes serves
  have trs : t.trs = s.trs := by rw [serves]
  have mch : t.mch = s.mch := by rw [serves]
  unfold Closes at closes
  rwa [trs, mch, serves.port] at closes

theorem targetRole_ne_highpress (g : Target) : targetRole g ≠ .highpress := by
  cases g <;> nofun

theorem closeValve_frame (c : Claim) (r : EndReason) (s : State) :
    closeValve c r s = { s with act := (closeValve c r s).act, cle := (s.putClaim (c.closes r)).cle } :=
  closeRole_frame (targetRole_ne_highpress c.target) (s.putClaim (c.closes r))

theorem closeValve_eq {s : State} {a : Nat} {c : Claim} (valve : s.actWith (targetRole c.target) = some a) (r : EndReason) :
    closeValve c r s = (closeReq a (s.putClaim (c.closes r))).1 :=
  congrArg Prod.fst (closeRole_eq (s := s.putClaim (c.closes r)) valve)

theorem closeValve_travelOf {s : State} {a : Nat} {c : Claim} (valve : s.actWith (targetRole c.target) = some a) (r : EndReason) :
    (closeValve c r s).travelOf (targetRole c.target) = ((closeReq a (s.putClaim (c.closes r))).1.actOf a).travel := by
  rw [closeValve_eq valve]
  unfold State.travelOf
  have same : (closeReq a (s.putClaim (c.closes r))).1.actWith (targetRole c.target) = some a :=
    (actWith_congr (closeReq_works (putClaim_works (.refl s) _) a).setup _).trans valve
  rw [same]

section

variable {s : State} {a : Nat} {u : ActuatorSetup} (set : s.actSetup a = some u)

include set

theorem closeReq_keeps (h : (s.actOf a).travel = .closed ∨ (s.actOf a).travel = .closing) :
    ((closeReq a s).1.actOf a).travel = (s.actOf a).travel := by
  rw [closeReq_eq set, if_pos (by simpa using h)]
  rcases madeSafe_act (s := s) (a := a) (u := u) with e | ⟨-, e⟩
  · rw [State.vacant.actOf_congr e, actOf_put set]
  · rw [State.vacant.actOf_congr e]

variable {c : Claim} (valve : s.actWith (targetRole c.target) = some a) (r : EndReason)

include valve

theorem closeValve_safe : ((closeValve c r s).actOf a).command = .safe := by
  rw [closeValve_eq valve]
  exact closeReq_command (s := s.putClaim (c.closes r)) set

/-- While its valve is on the way to CLOSED a claim stands in CLOSING (R94). -/
theorem toClosing_underway (shut : (s.actOf a).travel ≠ .closed)
    (travels : (s.actOf a).travel = .closing ∨ s.atEnd a u.kind false = false) : toClosing c r s = closeValve c r s := by
  rw [toClosing_eq, if_neg]
  rw [closeValve_travelOf valve]
  by_cases closing : (s.actOf a).travel = .closing
  · rw [closeReq_keeps (s := s.putClaim (c.closes r)) set (.inr closing)]
    exact shut
  · have limit : (s.putClaim (c.closes r)).atEnd a u.kind false = false :=
      (atEnd_congr rfl rfl a u.kind false).trans (travels.resolve_left closing)
    rw [(closeReq_closes (s := s.putClaim (c.closes r)) set shut closing limit).2]
    nofun

/-- A claim whose valve is CLOSED leaves the list at once (R94). -/
theorem toClosing_atOnce (shut : (s.actOf a).travel = .closed) : toClosing c r s = leaveList (c.closes r) (closeValve c r s) := by
  rw [toClosing_eq, if_pos]
  rw [closeValve_travelOf valve, closeReq_keeps (s := s.putClaim (c.closes r)) set (.inl shut)]
  exact shut

end

/-- From `s` to `t` the claim went into CLOSING, its valve `a` commanded safe, and nothing else of claims and bus changed. -/
structure State.closesClaim (s t : State) (a : Nat) (c : Claim) (r : EndReason) : Prop where
  command : (t.actOf a).command = .safe
  bc : t.bc = s.bc
  self : (∃ x, s.claimOf c.sequence = some x) → t.claimOf c.sequence = some (c.closes r)
  due : t.due = s.due

theorem toClosing_closes {s : State} {a : Nat} {u : ActuatorSetup} {c : Claim} (set : s.actSetup a = some u)
    (valve : s.actWith (targetRole c.target) = some a) (shut : (s.actOf a).travel ≠ .closed)
    (travels : (s.actOf a).travel = .closing ∨ s.atEnd a u.kind false = false) (r : EndReason) :
    s.closesClaim (toClosing c r s) a c r := by
  rw [toClosing_underway set valve r shut travels]
  refine ⟨closeValve_safe set valve r, by rw [closeValve_frame], fun ⟨x, found⟩ => ?_, (closeValve_works c r s).due⟩
  rw [closeValve_claimOf, if_pos rfl, found]
  rfl

/-! ## A claim of no train that leaves with its valve CLOSED (R82, R94) -/

theorem handOutcome_port {c : Claim} (stranger : c.creator ≠ .train) (r : EndReason) (s : State) : (handOutcome c r s).port = s.port := by
  unfold handOutcome
  split
  · rfl
  · unfold fillOutcome
    dsimp only
    split <;> rfl
  · rfl
  · rename_i train
    exact absurd train stranger

/-- The record of a claim in CLOSING replaced, and the claim gone: what is left is what was beside it. -/
theorem putClaim_filter (s : State) (c : Claim) : (s.putClaim c).cle.list.filter (fun x => x.sequence != c.sequence) =
    s.cle.list.filter fun x => x.sequence != c.sequence := by
  unfold State.putClaim State.setClaims
  simp only [State.setCle_cle]
  induction s.cle.list with
  | nil => rfl
  | cons x l ih =>
    rw [List.map_cons, List.filter_cons, List.filter_cons, ih]
    by_cases own : x.sequence = c.sequence
    · simp [own]
    · simp [own]

theorem parting_closes (c : Claim) (r : EndReason) : (c.closes r).parting = c.endsWith r := rfl

/-- From `s` to `t` the claim left the list for a reason with its valve CLOSED, and the train heard nothing. -/
structure State.closesAtOnce (s t : State) (a : Nat) (c : Claim) (r : EndReason) : Prop where
  command : (t.actOf a).command = .safe
  cle : t.cle = { s.cle with list := s.cle.list.filter fun x => x.sequence != c.sequence }
  offered : s.offered t (c.endsWith r)
  reported : s.port.ring.length < 32 → ⟨.claimEnd (c.closes r) .flowing, s.bc.round, false⟩ ∈ t.port.ring

theorem toClosing_ends {s : State} {a : Nat} {u : ActuatorSetup} {c : Claim} (set : s.actSetup a = some u)
    (valve : s.actWith (targetRole c.target) = some a) (shut : (s.actOf a).travel = .closed) (stranger : c.creator ≠ .train)
    (r : EndReason) : s.closesAtOnce (toClosing c r s) a c r := by
  rw [toClosing_atOnce set valve r shut]
  have safe := closeValve_safe set valve r
  have frame := closeValve_frame c r s
  generalize closeValve c r s = t at safe frame
  have quiet : (c.closes r).creator ≠ .train ∨ (c.closes r).target ≠ .product ∨ rated t.trs.state = false := .inl stranger
  refine ⟨?_, ?_, fun v full => ?_, fun room => ?_⟩
  · rw [State.vacant.actOf_congr (leaveList_act quiet), safe]
  · refine (leaveList_cle quiet).trans ?_
    rw [frame]
    exact congrArg (fun l => ({ s.cle with list := l } : Claims)) (putClaim_filter s (c.closes r))
  · have offered := leaveList_offered quiet
    rw [parting_closes] at offered
    have bc : t.bc = s.bc := by rw [frame]
    unfold State.offered State.serving at offered
    rw [bc] at offered
    exact offered v full
  · have reported := left_reported (s := t) (by rw [frame]; exact room) (c.closes r)
    rw [leaveList_eq, handOutcome_port (c := c.closes r) stranger, ← show t.bc.round = s.bc.round by rw [frame]]
    exact reported

/-! ## The causes (R83, R91, R93, R94, R96) -/

theorem takeRevoke_flowing {q : Nat} {c : Claim} {s : State} (found : s.claimOf q = some c) (flowing : c.state = .flowing) :
    takeRevoke c.tank.station q s = toClosing c .revoked s := by
  unfold takeRevoke
  rw [found]
  exact if_pos (by simp [flowing])

theorem takeRevoke_other {src q : Nat} {s : State}
    (other : ∀ c, s.claimOf q = some c → c.tank.station ≠ src ∨ c.state ≠ .flowing) : takeRevoke src q s = s := by
  unfold takeRevoke
  cases found : s.claimOf q with
  | none => rfl
  | some c =>
    have differs := other c found
    exact if_neg (by simpa [imp_iff_not_or] using differs)

/-- A STOP-CLAIM of a claim that is there (R91). -/
theorem exec_stopClaim {q : Nat} {c : Claim} {s : State} (k : s.ready) (joined : s.bc.busState = .joined) (found : s.claimOf q = some c) :
    exec (.stopClaim q) s = .next ((endClaim c .stopped none s).answered [0] false false) := by
  have request := exec_request (c := .stopClaim q) (r := .stopClaim q) rfl k (by rw [joined]; rfl)
  have stops : askStop q s = (endClaim c .stopped none s, [0]) := by
    unfold askStop stopSeq endSeq
    rw [found]
    rfl
  rw [show doRequest (.stopClaim q) s = askStop q s from rfl, stops] at request
  exact request

theorem exec_stopClaim_gone {q : Nat} {s : State} (k : s.ready) (joined : s.bc.busState = .joined) (gone : s.claimOf q = none) :
    exec (.stopClaim q) s = .next (s.answered [5] false false) := by
  have request := exec_request (c := .stopClaim q) (r := .stopClaim q) rfl k (by rw [joined]; rfl)
  have stops : askStop q s = (s, [5]) := by
    unfold askStop
    rw [gone]
    rfl
  rw [show doRequest (.stopClaim q) s = askStop q s from rfl, stops] at request
  exact request

theorem endClaim_flowing {c : Claim} (flowing : c.state = .flowing) (r : EndReason) (o : Option OwnerReason) (s : State) :
    endClaim c r o s = toClosing c r s := by
  unfold endClaim
  rw [flowing]

theorem endClaim_closing {c : Claim} (closing : c.state = .closing) (r : EndReason) (o : Option OwnerReason) (s : State) :
    endClaim c r o s = s := by
  unfold endClaim
  rw [closing]

section

variable {q : Nat} {s : State} {rest : List Due}

theorem exec_stalled (h : s.dueNext (.stalled q) rest) : exec (.stalled q) s = .next (stallClaim q (s.setDue rest)) :=
  congrArg Host.Outcome.next (ownEvent_next h)

theorem exec_timeout (h : s.dueNext (.timeout q) rest) : exec (.timeout q) s = .next (timeoutClaim q (s.setDue rest)) :=
  congrArg Host.Outcome.next (ownEvent_next h)

theorem stallClaim_due {c : Claim} (found : s.claimOf q = some c) (flowing : c.state = .flowing) (due : 30 ≤ c.stall) :
    stallClaim q s = toClosing c .stalled s := by
  unfold stallClaim
  rw [found]
  exact if_pos (by simp [flowing, due])

theorem stallClaim_gone (gone : s.claimOf q = none) : stallClaim q s = s := by
  unfold stallClaim
  rw [gone]

theorem timeoutClaim_gone (gone : s.claimOf q = none) : timeoutClaim q s = s := by
  unfold timeoutClaim
  rw [gone]

end

theorem pulsed_frame (m : Nat) (c : Claim) (s : State) :
    pulsed m c s = { s with cle := (pulsed m c s).cle, trs := (pulsed m c s).trs } := by
  unfold pulsed
  rw [productPulse_frame]
  rfl

theorem pulsed_claimOf {m q : Nat} {c x : Claim} {s : State} (found : s.claimOf q = some x) (own : c.sequence = q) :
    (pulsed m c s).claimOf q = some (meter (s.weight m) c) := by
  refine (claimOf_congr (productPulse_cle _ _ _) q).trans ((claimOf_putClaim s _ q).trans ((if_pos own).trans ?_))
  rw [found]
  rfl

/-- Settles O30: each cause puts the claim into CLOSING, or with its valve CLOSED takes it out of the list. -/
theorem flowingClaimsClose : Obligations.FlowingClaimsClose := by
  refine ⟨fun q a c u s found flowing valve set shut travels => ?_, fun q a c u s found flowing valve set shut stranger k v => ?_,
    fun src q s k v other => ?_, fun q s k joined gone => ?_, fun q c s k joined found closing => ?_, fun q rest s due gone => ?_,
    fun q rest s due gone => ?_⟩
  · obtain rfl := claimOf_sequence found
    refine ⟨fun k v => ?_, fun k joined => ?_, fun rest due stalled => ?_, fun m k counted full => ?_⟩
    · have closes := toClosing_closes set valve shut travels .revoked
      exact ⟨_, by rw [exec_revoke k v, takeRevoke_flowing found flowing], closes.command, closes.bc, closes.self ⟨c, found⟩⟩
    · have closes := toClosing_closes set valve shut travels .stopped
      exact ⟨(toClosing c .stopped s).answered [0] false false, by rw [exec_stopClaim k joined found, endClaim_flowing flowing],
        closes.command, closes.bc, closes.self ⟨c, found⟩, rfl⟩
    · have closes := toClosing_closes (s := s.setDue rest) set valve shut travels .stalled
      exact ⟨_, by rw [exec_stalled due, stallClaim_due (s := s.setDue rest) found flowing stalled],
        closes.command, closes.bc, closes.self ⟨c, found⟩, closes.due⟩
    · have frame := pulsed_frame m c s
      have there := pulsed_claimOf (m := m) found (rfl : c.sequence = c.sequence)
      have ends : exec (.meterPulse m) s = .next (toClosing (meter (s.weight m) c) .done (pulsed m c s)) := by
        rw [exec_meterPulse k, takePulse_eq counted, if_pos ⟨flowing, full⟩]
      refine ⟨_, ends, ?_⟩
      generalize pulsed m c s = t at frame there
      have closes : t.closesClaim (toClosing (meter (s.weight m) c) .done t) a (meter (s.weight m) c) .done :=
        toClosing_closes (u := u) (by rw [frame]; exact set) (by rw [frame]; exact valve) (by rw [frame]; exact shut)
          (by rw [frame]; exact travels) .done
      exact ⟨closes.command, closes.bc.trans (by rw [frame]), closes.self ⟨_, there⟩⟩
  · obtain rfl := claimOf_sequence found
    refine ⟨?_, fun joined => ?_⟩
    · have ends := toClosing_ends set valve shut stranger .revoked
      exact ⟨_, by rw [exec_revoke k v, takeRevoke_flowing found flowing], ends.command, ends.cle, ends.offered, ends.reported⟩
    · have ends := toClosing_ends set valve shut stranger .stopped
      exact ⟨(toClosing c .stopped s).answered [0] false false, by rw [exec_stopClaim k joined found, endClaim_flowing flowing],
        ends.command, rfl, ends.cle, ends.offered, ends.reported⟩
  · rw [exec_revoke k v, takeRevoke_other other]
  · exact exec_stopClaim_gone k joined gone
  · rw [exec_stopClaim k joined found, endClaim_closing closing]
  · rw [exec_stalled due, stallClaim_gone (s := s.setDue rest) gone]
    rfl
  · rw [exec_timeout due, timeoutClaim_gone (s := s.setDue rest) gone]
    rfl

end Sys2Proof.Machine
end

section

namespace Sys2Proof.Machine

/-! ## The tries of a pass (R151, R153) -/

/-- A relation between states that the tries of a pass keep: claims created, and the train's part in it. -/
structure Tries (R : State → State → Prop) : Prop where
  refl : ∀ s, R s s
  trans : ∀ {s t u}, R s t → R t u → R s u
  creates : ∀ n s, R s (createClaim n s).1
  counts : ∀ s i p d r, R s (s.setTrs { s.trs with inflow := i, passCount := p, destIndex := d, retry := r })

namespace Tries

variable {R : State → State → Prop} (k : Tries R)

include k

theorem failOnce (s : State) : R s (failOnce s) := k.counts s s.trs.inflow (s.trs.passCount + 1) s.trs.destIndex s.trs.retry

theorem nextDest (s : State) : R s (nextDest s) := k.counts s s.trs.inflow s.trs.passCount _ s.trs.retry

theorem retryWait (b : Bool) (s : State) : R s (retryWait b s) := k.counts s s.trs.inflow 0 _ (some 0)

theorem askNext (fuel : Nat) (s : State) : R s (askNext fuel s) := by
  induction fuel generalizing s with
  | zero => exact k.refl s
  | succ fuel ih =>
    unfold Machine.askNext
    repeat' split
    · rename_i u d _ _
      have asked := k.creates (inflowClaim s u d) s
      dsimp only
      split
      · exact k.trans asked (k.counts _ _ _ _ _)
      · split
        · exact k.trans (k.trans asked (k.failOnce _)) (k.retryWait false _)
        · exact k.trans (k.trans (k.trans asked (k.failOnce _)) (k.nextDest _)) (ih _)
    · exact k.refl s
    · exact k.refl s

theorem failedDest {r : EndReason} (n : r ≠ .revoked) (s : State) : R s (failedDest r s) := by
  unfold Machine.failedDest stopsTrain
  have stays : (r == .revoked) = false := by simpa using n
  simp only [stays, Bool.false_and, Bool.false_eq_true, if_false]
  split
  · exact k.trans (k.failOnce s) (k.retryWait false _)
  · exact k.trans (k.trans (k.failOnce s) (k.nextDest _)) (k.askNext _ _)

end Tries

/-! ## The ages of new claims (R80, R90) -/

theorem createRefusal_wait {s : State} {n : NewClaim} (made : createRefusal s n = none) : 10 ≤ n.wait := by
  have good : goodArgs s n = true := by
    by_contra bad
    rw [Bool.not_eq_true] at bad
    obtain ⟨joined, -⟩ := createRefusal_none made
    simp [createRefusal, bad, joined] at made
  obtain ⟨-, -, ⟨wait, -⟩, -⟩ := (goodArgs_iff s n).mp good
  exact wait

/-- From `s` to `t` every claim that joined the list is below its wait limit. -/
def JoinsYoung (s t : State) : Prop := ∀ x ∈ t.cle.list, x ∈ s.cle.list ∨ x.age < x.wait

theorem JoinsYoung.of {s t : State} (h : t.cle = s.cle) : JoinsYoung s t := fun x m => .inl (by rwa [h] at m)

theorem JoinsYoung.trans {s t u : State} (h : JoinsYoung s t) (k : JoinsYoung t u) : JoinsYoung s u :=
  fun x m => (k x m).elim (h x) .inr

theorem JoinsYoung.createClaim (n : NewClaim) (s : State) : JoinsYoung s (createClaim n s).1 := by
  cases h : createRefusal s n with
  | some r => rw [createClaim_no h]; exact .of rfl
  | none =>
    have wait := createRefusal_wait h
    have young : ∀ q w,
        ({ freshClaim q n with repeatTimer := w } : Claim).age < ({ freshClaim q n with repeatTimer := w } : Claim).wait :=
      fun q w => show 0 < n.wait by omega
    rw [createClaim_ok h]
    intro x m
    rcases mem_putClaim m with e | ⟨m, -⟩
    · exact .inr (by rw [e]; exact young _ _)
    · rw [offer_cle] at m
      rcases List.mem_append.mp m with m | m
      · exact .inl m
      · rw [List.mem_singleton.mp m]
        exact .inr (young _ 5)

theorem joinsYoung_tries : Tries JoinsYoung :=
  ⟨fun _ => .of rfl, JoinsYoung.trans, JoinsYoung.createClaim, fun _ _ _ _ _ => .of rfl⟩

/-! ## The outcome of the train's inflow claim (R153, R154) -/

/-- The outcome of the inflow claim begins with the claim forgotten (R153). -/
def State.inflowGone (s : State) : State := s.mapTrs fun t => { t with inflow := none }

theorem inflowOutcome_running {s : State} (running : s.trs.state = .producing ∨ s.trs.state = .diverting) (r : EndReason) :
    inflowOutcome r s = runningOutcome r s.inflowGone := by
  unfold inflowOutcome
  rcases running with h | h <;> simp [State.mapTrs, State.setTrs, h, State.inflowGone]

theorem leavesProducing_diverting {s : State} (diverting : s.trs.state = .diverting) (r : EndReason) :
    leavesProducing r s.inflowGone = false := by
  unfold leavesProducing State.inflowGone
  simp [State.mapTrs, State.setTrs, diverting]

/-- An outcome that does not end in STOPPING is told where the train leaves PRODUCING (R145). -/
theorem runningOutcome_stays {r : EndReason} {s : State} (stays : stopsTrain r s = false) : runningOutcome r s =
    if leavesProducing r s then tellTrain .producing (inflowEffect r (changeTrain .diverting .noDestination .none .none s))
    else inflowEffect r s := by
  unfold runningOutcome
  simp only [stays, Bool.false_eq_true, if_false]

theorem stopsTrain_other {r : EndReason} (n : r ≠ .revoked) (s : State) : stopsTrain r s = false := by
  unfold stopsTrain
  simp [n]

theorem handOutcome_inflow {c : Claim} {s : State} (creator : c.creator = .train) (target : c.target = .product)
    (inflow : s.trs.inflow = some c.sequence) (r : EndReason) : handOutcome c r s = inflowOutcome r s := by
  unfold handOutcome trainOutcome
  rw [creator, target]
  exact if_pos inflow

theorem tellTrain_ring (before : TrainState) (s : State) : ∃ l, tellTrain before s = s.setPort { s.port with ring := l } :=
  report_ring _ s

/-- The retry wait runs, the pass is over, and the destination stays (R153, R154). -/
def Train.waits (t : Train) (index : Nat) : Prop := t.state = .diverting ∧ t.retry = some 0 ∧ t.passCount = 0 ∧ t.destIndex = index

/-- A STOPPED from outside starts the retry wait and asks for nothing (R153, R154). -/
theorem inflowOutcome_stopped {s : State} (own : s.trs.ownStop = false) : Concludes s (inflowOutcome .stopped s) ∧
    (inflowOutcome .stopped s).trs.inflow = none ∧
    (s.trs.state = .producing ∨ s.trs.state = .diverting → (inflowOutcome .stopped s).trs.waits s.trs.destIndex) := by
  have effect : ∀ u : State, u.trs.ownStop = false → inflowEffect .stopped u = retryWait true u := fun u h => by
    unfold inflowEffect
    simp [h]
  by_cases running : s.trs.state = .producing ∨ s.trs.state = .diverting
  · rw [inflowOutcome_running running, runningOutcome_stays (stopsTrain_other (by nofun) _)]
    by_cases leaves : leavesProducing .stopped s.inflowGone = true
    · rw [if_pos leaves, effect (changeTrain .diverting .noDestination .none .none s.inflowGone) own]
      obtain ⟨l, told⟩ := tellTrain_ring .producing (retryWait true (changeTrain .diverting .noDestination .none .none s.inflowGone))
      rw [told]
      exact ⟨rfl, rfl, fun _ => ⟨rfl, rfl, rfl, rfl⟩⟩
    · rw [if_neg leaves, effect s.inflowGone own]
      have diverting : s.trs.state = .diverting := by
        refine running.resolve_left fun producing => leaves ?_
        unfold leavesProducing State.inflowGone
        simp [State.mapTrs, State.setTrs, producing]
      exact ⟨rfl, rfl, fun _ => ⟨diverting, rfl, rfl, rfl⟩⟩
  · obtain ⟨i, o, e⟩ : ∃ i o, inflowOutcome .stopped s = s.setTrs { s.trs with inflow := i, ownStop := o } ∧ i = none := by
      unfold inflowOutcome State.mapTrs
      dsimp only [State.setTrs]
      cases h : s.trs.state
      case producing => exact absurd (.inl h) running
      case diverting => exact absurd (.inr h) running
      all_goals exact ⟨none, _, rfl, rfl⟩
    rw [e.1]
    exact ⟨rfl, e.2, fun h => absurd h running⟩

/-! ## A claim that is stopped, or reaches its wait limit, in PATHING or ASKING (R82, R90, R91) -/

section

variable {c : Claim} (waits : c.state = .pathing ∨ c.state = .asking)

include waits

theorem parting_ended (r : EndReason) : (c.ended r none).parting = c.withdraws := by
  unfold Claim.parting Claim.ended Claim.withdraws byHoldRefused byRefuse Claim.heldSegs Claim.asked
  rcases waits with h | h
  · cases r <;> simp [h, holdFrees, List.take_add_one]
  · cases r <;> simp [h]

theorem endedFrom_waits : endedFrom c.state = c.state := by
  rcases waits with h | h <;> rw [h] <;> rfl

end

theorem left_tkm (s : State) (c : Claim) : (s.left c).tkm = s.tkm := by
  have sends : Sends fun s t => t.tkm = s.tkm :=
    ⟨fun _ => rfl, fun h k => k.trans h, fun m s => by unfold offer; split <;> rfl⟩
  obtain ⟨l, e⟩ := report_ring (.claimEnd c (endedFrom c.state)) (finalMessages c s)
  have sent := sends.finalMessages c s
  change (report (.claimEnd c (endedFrom c.state)) (finalMessages c s)).tkm = s.tkm
  rw [e]
  exact sent

/-- The outcome of a claim of automatic fill (R126). -/
theorem leaveList_tankOf {c : Claim} {k : Nat} (target : c.target = .fillInlet k) (creator : c.creator = .fill) (two : k < 2) (s : State) :
    (leaveList c s).tankOf k =
      match (s.tankOf k).live with
      | some i => { s.tankOf k with
          fill := .idle, live := none
          skips := if skipsSource c.endReason then put (s.tankOf k).skips i 50 else (s.tankOf k).skips }
      | none => { s.tankOf k with fill := .idle } := by
  have put : ∀ (u : State) (x : TankState), (u.putTank k x).tankOf k = x := fun u x => look_put_same _ two _ _
  have tank : (s.left c).tankOf k = s.tankOf k := congrArg (fun x : Tanks => look x.tank TankState.initial k) (left_tkm s c)
  rw [leaveList_eq]
  unfold handOutcome
  rw [creator, target]
  unfold fillOutcome
  dsimp only
  rw [tank]
  cases (s.tankOf k).live with
  | none => exact put _ _
  | some i => exact put _ _

end Sys2Proof.Machine
end

section

namespace Sys2Proof.Machine

theorem leaveList_tankIdle {c : Claim} {k : Nat} (target : c.target = .fillInlet k) (creator : c.creator = .fill) (two : k < 2)
    (mild : skipsSource c.endReason = false) (s : State) :
    (leaveList c s).tankOf k = { s.tankOf k with fill := .idle, live := none } := by
  rw [leaveList_tankOf target creator two]
  cases live : (s.tankOf k).live with
  | none => simp [← live]
  | some i => simp [mild]

/-- A source whose claim timed out is passed over for 50 rounds (R126). -/
theorem leaveList_tankSkips {c : Claim} {k i : Nat} (target : c.target = .fillInlet k) (creator : c.creator = .fill) (two : k < 2)
    (hard : skipsSource c.endReason = true) {s : State} (live : (s.tankOf k).live = some i) (three : i < 3) :
    look ((leaveList c s).tankOf k).skips 0 i = 50 := by
  rw [leaveList_tankOf target creator two, live]
  simp only [hard, if_true]
  exact look_put_same _ three _ _

/-- A claim of no train, or the flush claim, makes the train ask for nothing (R82, R161). -/
theorem quiet_of {c : Claim} {s : State} (h : c.creator ≠ .train ∨ c.target = .flush) :
    c.creator ≠ .train ∨ c.target ≠ .product ∨ rated s.trs.state = false :=
  h.imp_right fun flush => .inl (by rw [flush]; nofun)

section

variable {c : Claim} {s : State} (waits : c.state = .pathing ∨ c.state = .asking)

include waits

/-- The flush claim, or one of no train, that a cause ends in PATHING or ASKING. -/
theorem leaveList_withdraws (h : c.creator ≠ .train ∨ c.target = .flush) (r : EndReason) :
    (leaveList (c.ended r none) s).cle = { s.cle with list := s.cle.list.filter fun x => x.sequence != c.sequence } ∧
      s.offered (leaveList (c.ended r none) s) c.withdraws := by
  have offered := leaveList_offered (c := c.ended r none) (s := s) (quiet_of h)
  rw [parting_ended waits] at offered
  exact ⟨leaveList_cle (quiet_of h), offered⟩

/-- The train's inflow claim, stopped from outside (R153, R154). -/
theorem leaveList_stopped (creator : c.creator = .train) (target : c.target = .product) (inflow : s.trs.inflow = some c.sequence)
    (own : s.trs.ownStop = false) :
    (leaveList (c.ended .stopped none) s).cle = { s.cle with list := s.cle.list.filter fun x => x.sequence != c.sequence } ∧
      s.offered (leaveList (c.ended .stopped none) s) c.withdraws ∧ (leaveList (c.ended .stopped none) s).trs.inflow = none ∧
      (s.trs.state = .producing ∨ s.trs.state = .diverting →
        (leaveList (c.ended .stopped none) s).trs.waits s.trs.destIndex) := by
  have trs := left_trs s (c.ended .stopped none)
  have offered := left_offered s (c.ended .stopped none)
  rw [parting_ended waits] at offered
  have heard : (s.left (c.ended .stopped none)).trs.inflow = some c.sequence := by rw [trs]; exact inflow
  have outcome : leaveList (c.ended .stopped none) s = inflowOutcome .stopped (s.left (c.ended .stopped none)) :=
    handOutcome_inflow (c := c.ended .stopped none) creator target heard .stopped
  obtain ⟨concludes, gone, retries⟩ := inflowOutcome_stopped (s := s.left (c.ended .stopped none)) (by rw [trs]; exact own)
  rw [trs] at retries
  rw [outcome]
  exact ⟨concludes.cle.trans (left_cle s _), fun v full => concludes.bc.trans (offered v full), gone, retries⟩

end

/-- What may come in place of a claim that timed out is below its wait limit (R153). -/
theorem leaveList_young (c : Claim) (s : State) :
    ∀ x ∈ (leaveList (c.ended .timeout none) s).cle.list, x.sequence = c.sequence → x.age < x.wait := by
  have gone : (s.left (c.ended .timeout none)).cle.list = s.cle.list.filter fun x => x.sequence != c.sequence :=
    congrArg Claims.list (left_cle s _)
  have young : JoinsYoung (s.left (c.ended .timeout none)) (leaveList (c.ended .timeout none) s) := by
    rw [leaveList_eq]
    generalize s.left (c.ended .timeout none) = u
    by_cases quiet : c.creator ≠ .train ∨ c.target ≠ .product ∨ rated u.trs.state = false
    · exact .of (Concludes.handOutcome (c := c.ended .timeout none) quiet _).cle
    · obtain ⟨creator, target, running⟩ : c.creator = .train ∧ c.target = .product ∧ rated u.trs.state ≠ false := by
        simpa [not_or] using quiet
      rw [ne_eq, Bool.not_eq_false, rated_iff] at running
      by_cases inflow : u.trs.inflow = some c.sequence
      · rw [handOutcome_inflow (c := c.ended .timeout none) creator target inflow]
        have reason : (c.ended .timeout none).endReason = .timeout := rfl
        have tries : ∀ v, JoinsYoung v (inflowEffect .timeout v) := joinsYoung_tries.failedDest nofun
        rw [reason, inflowOutcome_running running, runningOutcome_stays (stopsTrain_other (r := .timeout) nofun _)]
        split
        · have changes : JoinsYoung u (changeTrain .diverting .noDestination .none .none u.inflowGone) := .of rfl
          exact (changes.trans (tries _)).trans (.of (tellTrain_cle _ _))
        · exact JoinsYoung.trans (.of rfl) (tries _)
      · refine .of ?_
        unfold handOutcome trainOutcome
        have creator' : (c.ended .timeout none).creator = .train := creator
        have target' : (c.ended .timeout none).target = .product := target
        rw [creator', target']
        exact congrArg State.cle (if_neg inflow)
  intro x m own
  rcases young x m with old | new
  · rw [gone] at old
    exact absurd own (by simpa using (List.mem_filter.mp old).2)
  · exact new

/-! ## The events of a waiting claim (R86, R90) -/

section

variable {q : Nat} {c : Claim} {s : State} (found : s.claimOf q = some c) (waits : c.state = .pathing ∨ c.state = .asking)

include found waits

theorem timeoutClaim_due (old : c.wait ≤ c.age) : timeoutClaim q s = leaveList (c.ended .timeout none) s := by
  unfold timeoutClaim
  rw [found]
  exact (if_pos (by simp [waits, old])).trans (endClaim_waits waits .timeout none s)

theorem repeatRequest_due (zero : c.repeatTimer = 0) : repeatRequest q s = offerRequest c s := by
  unfold repeatRequest
  rw [found]
  exact if_pos (by simp [waits, zero])

end

theorem exec_requestRepeat {q : Nat} {s : State} {rest : List Due} (h : s.dueNext (.requestRepeat q) rest) :
    exec (.requestRepeat q) s = .next (repeatRequest q (s.setDue rest)) := congrArg Host.Outcome.next (ownEvent_next h)

section

variable {q : Nat} {c : Claim} {s : State} (found : s.claimOf q = some c) (waits : c.state = .pathing ∨ c.state = .asking)

include found waits

/-- A waiting claim that the port stops (R91). -/
theorem stopClaim_waiting (k : s.ready) (joined : s.bc.busState = .joined) :
    exec (.stopClaim q) s = .next ((leaveList (c.ended .stopped none) s).answered [0] false false) := by
  rw [exec_stopClaim k joined found, endClaim_waits waits]

/-- A waiting claim at its wait limit (R90). -/
theorem timeout_waiting {rest : List Due} (due : s.dueNext (.timeout q) rest) (old : c.wait ≤ c.age) :
    exec (.timeout q) s = .next (leaveList (c.ended .timeout none) (s.setDue rest)) := by
  rw [exec_timeout due, timeoutClaim_due (s := s.setDue rest) found waits old]

/-- A waiting claim whose repeat timer is at 0 (R86, R87). -/
theorem repeat_waiting {rest : List Due} (due : s.dueNext (.requestRepeat q) rest) (zero : c.repeatTimer = 0) :
    exec (.requestRepeat q) s = .next (offerRequest c (s.setDue rest)) := by
  rw [exec_requestRepeat due, repeatRequest_due (s := s.setDue rest) found waits zero]

end

end Sys2Proof.Machine
end

section

namespace Sys2Proof.Machine

/-! ## A boundary that reaches the blocks with no slot missed (R3, R26) -/

theorem timeTo_movedDue {s : State} {ms : Nat} (g : s.graceEnds ms = false) (none : s.due = []) :
    ∃ x d, timeTo ms s = s.movedTo ms x d ∧ ∀ e ∈ d, e = .graceExpiry := by
  obtain ⟨x, d, e⟩ := timeTo_movedTo g
  refine ⟨x, d, e, ?_⟩
  have due : d = [] ∨ d = [.graceExpiry] := by
    have both := timeTo_due g
    rw [e, none] at both
    exact both
  rcases due with rfl | rfl <;> simp

/-- The command of a boundary is the boundary at its instant, no event but the end of the grace being due (R3). -/
theorem exec_boundaryDue {s : State} {row : Instr} {permit : Bool} {ran : Nat} (r : s.ready) (h : s.hearing = true)
    (b : s.boundaryBy permit ran row) : ∃ src now ms x d l,
      exec row s = .next (boundary src ran now permit (s.movedWith ms x d l)) ∧ ∀ e ∈ d, e = .graceExpiry := by
  unfold State.boundaryBy at b
  split at b
  · obtain ⟨rfl, rfl, g⟩ := b
    obtain ⟨x, d, e, due⟩ := timeTo_movedDue g r.2
    exact ⟨.timer, 4, 104, x, d, s.bc.line, by rw [exec_localRoundTimer r, roundTimer_boundary h g, e]; rfl, due⟩
  · obtain ⟨rfl, rfl, g, n, a, k, own⟩ := b
    obtain ⟨x, d, e, due⟩ := timeTo_movedDue g r.2
    by_cases c : a = s.ident.address
    · obtain ⟨line, dormant⟩ := own c
      subst c
      refine ⟨.mark n s.ident.address, 0, ran, x, d, none, ?_, due⟩
      rw [exec_validMark r, takeMark_own k line h g, e, frameEnded_boundary (by exact dormant)]
      rfl
    · exact ⟨.mark n a, 0, _, x, d, s.bc.line, by rw [exec_validMark r, takeMark_adopts k c h g, e]; rfl, due⟩
  · exact b.elim

/-- What the blocks find of claims, valves, setup and events due is as the round's end left it. -/
structure State.atBlocks (s t : State) : Prop where
  cle : t.cle = s.cle
  act : t.act = s.act
  setup : t.setup = s.setup
  due : t.due = s.due

theorem State.atBlocks.trans {s t u : State} (h : s.atBlocks t) (k : t.atBlocks u) : s.atBlocks u :=
  ⟨k.cle.trans h.cle, k.act.trans h.act, k.setup.trans h.setup, k.due.trans h.due⟩

/-- With every station heard nothing comes before the blocks but the bus controller's own. -/
theorem boundary_allHeard {s : State} (v : s.serving = true) (heard : s.allHeard) (src : BoundarySource) (ran now : Nat) (p : Bool) :
    ∃ t, boundary src ran now p s = boundaryBlocks p t ∧ s.atBlocks t := by
  have opened : ∀ t, s.roundOpened src p = t → missedSlots ran t = t := by
    rintro t rfl
    have same : (s.roundOpened src p).bc.heard = s.bc.heard := by cases src <;> rfl
    exact missedSlots_allHeard ran fun a valid other => by rw [same]; exact heard a valid other
  have counted : s.slotsCounted src ran p = s.roundOpened src p := by
    unfold State.slotsCounted
    rw [opened _ rfl, ite_self]
  have slots := slotsOpened_eq s src ran now p
  rw [counted] at slots
  have serving : (s.slotsOpened src ran now p).serving = true := by
    have state : (s.slotsOpened src ran now p).bc.busState = s.bc.busState := by
      rw [slots, newRound_eq]
      cases src <;> rfl
    unfold State.serving at v ⊢
    rwa [state]
  have listened : s.listenCounted src ran now p = s.slotsOpened src ran now p := by
    unfold State.listenCounted
    rw [StandsStill.countListen serving, ite_self]
  have before : s.atBlocks (s.slotsOpened src ran now p) := by
    rw [slots]
    exact ⟨rfl, rfl, rfl, rfl⟩
  refine ⟨_, boundary_eq src ran now p s, ?_⟩
  rw [listened]
  refine before.trans ?_
  rcases testTakeover_cases src (s.slotsOpened src ran now p) with e | e
  · rw [e]
    exact ⟨rfl, rfl, rfl, rfl⟩
  · have takes : (s.slotsOpened src ran now p).atBlocks (takeover (s.slotsOpened src ran now p)) := by
      obtain ⟨l, made⟩ := report_ring (.bus .takeover)
        ((s.slotsOpened src ran now p).setBc { (s.slotsOpened src ran now p).bc with markHolder := true })
      unfold takeover
      rw [made]
      exact ⟨rfl, rfl, rfl, rfl⟩
    rw [e]
    exact takes

/-! ## The claims at a boundary (R86, R90, R93) -/

/-- A claim's age and timers at a boundary. -/
def Claim.aged (c : Claim) (valveOpen : Prop) [Decidable valveOpen] : Claim :=
  { c with
    age := min 65535 (c.age + 1)
    repeatTimer :=
      if (c.state = .pathing ∨ c.state = .asking) ∧ min 65535 (c.age + 1) < c.wait then c.repeatTimer - 1 else c.repeatTimer
    stall := if c.state = .flowing ∧ valveOpen then c.stall + 1 else c.stall }

theorem claimTimers_aged (t : Travel) (c : Claim) : claimTimers (t == .opened) c = c.aged (t = .opened) := by
  unfold claimTimers Claim.aged
  generalize min 65535 (c.age + 1) = age
  simp only [← Nat.not_le]
  cases c.state with
  | pathing => by_cases old : c.wait ≤ age <;> simp [old]
  | asking => by_cases old : c.wait ≤ age <;> simp [old]
  | flowing => by_cases opened : t = .opened <;> simp [opened]
  | closing => simp

/-- The claim has reached its wait limit (R90). -/
def Claim.overdue (c : Claim) (q : Nat) : Prop := c.sequence = q ∧ (c.state = .pathing ∨ c.state = .asking) ∧ c.wait ≤ c.age

/-- The claim is to offer its request again (R86). -/
def Claim.asksAgain (c : Claim) (q : Nat) : Prop :=
  c.sequence = q ∧ (c.state = .pathing ∨ c.state = .asking) ∧ c.age < c.wait ∧ c.repeatTimer = 0

/-- The claim has counted no litre for too long (R93). -/
def Claim.stalls (c : Claim) (q : Nat) : Prop := c.sequence = q ∧ c.state = .flowing ∧ 30 ≤ c.stall

theorem claimDue_waits {c : Claim} (waits : c.state = .pathing ∨ c.state = .asking) : claimDue c =
    if c.wait ≤ c.age then some (.timeout c.sequence) else if c.repeatTimer = 0 then some (.requestRepeat c.sequence) else none := by
  unfold claimDue
  rcases waits with h | h <;> rw [h]

theorem claimDue_flowing {c : Claim} (flowing : c.state = .flowing) : claimDue c =
    if 30 ≤ c.stall then some (.stalled c.sequence) else none := by
  unfold claimDue
  rw [flowing]

theorem claimDue_closing {c : Claim} (closing : c.state = .closing) : claimDue c = none := by
  unfold claimDue
  rw [closing]

theorem claimDue_iff (c : Claim) (q : Nat) : (claimDue c = some (.timeout q) ↔ c.overdue q) ∧
    (claimDue c = some (.requestRepeat q) ↔ c.asksAgain q) ∧ (claimDue c = some (.stalled q) ↔ c.stalls q) := by
  unfold Claim.overdue Claim.asksAgain Claim.stalls
  by_cases waits : c.state = .pathing ∨ c.state = .asking
  · have still : c.state ≠ .flowing := by rcases waits with h | h <;> rw [h] <;> nofun
    rw [claimDue_waits waits]
    by_cases old : c.wait ≤ c.age
    · simp [waits, still, old]
    · by_cases zero : c.repeatTimer = 0
      · simp [waits, still, zero, Nat.not_le.mp old, old]
      · simp [still, zero, old]
  · by_cases flowing : c.state = .flowing
    · rw [claimDue_flowing flowing]
      simp [flowing, and_comm]
    · have closing : c.state = .closing := by
        cases h : c.state <;> simp_all
      rw [claimDue_closing closing]
      simp [closing]

theorem trainDue_notClaim (d0 : Nat) (s : State) : ∀ e ∈ trainDue d0 s, e.ofClaim = false := by
  have only : ∀ (c : Bool) (e x : Due), x ∈ (if c then [e] else []) → x = e := by
    intro c e x m
    cases c <;> simp_all
  intro e m
  unfold trainDue at m
  simp only [List.flatten_cons, List.flatten_nil, List.append_nil, List.mem_append] at m
  repeat' rcases m with m | m
  all_goals rw [only _ _ _ m]; rfl

theorem dueIf_due (b : Bool) (e : Due) (s : State) : (dueIf b e s).due = s.due ++ if b then [e] else [] :=
  (dueIf_stands b e s).2

theorem mem_dueIf {b : Bool} {e x : Due} {s : State} (other : e ≠ x) : x ∈ (dueIf b e s).due ↔ x ∈ s.due := by
  rw [dueIf_due]
  cases b <;> simp [other.symm]

theorem boundaryHolds_act (s : State) : (boundarySegments (boundaryTanks s)).act = s.act := rfl

theorem dueIf_act (b : Bool) (e : Due) (s : State) : (dueIf b e s).act = s.act := by
  unfold dueIf
  split <;> rfl

theorem dueIf_setup (b : Bool) (e : Due) (s : State) : (dueIf b e s).setup = s.setup := by
  unfold dueIf
  split <;> rfl

/-- The state in which the claim engine meets a boundary. -/
def State.atClaims (s : State) : State := boundarySegments (boundaryTanks (dueIf s.swapsNow .planExchange s))

theorem atClaims_cle (s : State) : s.atClaims.cle = s.cle := (boundaryHolds_stands _).1.trans (dueIf_cle _ _ s)

theorem atClaims_travelOf (s : State) (r : Role) : s.atClaims.travelOf r = s.travelOf r :=
  travelOf_congr ((boundarySegments_works (boundaryTanks_works (.refl _))).setup.trans (dueIf_setup _ _ s))
    ((boundaryHolds_act _).trans (dueIf_act _ _ s)) r

theorem mem_atClaims {e : Due} (claims : e.ofClaim = true) (s : State) : e ∈ s.atClaims.due ↔ e ∈ s.due := by
  have due := (boundarySegments_works (boundaryTanks_works (.refl (dueIf s.swapsNow .planExchange s)))).due
  unfold State.atClaims
  rw [due]
  exact mem_dueIf (by rintro rfl; cases claims)

theorem boundaryBlocks_atClaims (p : Bool) (s : State) :
    boundaryBlocks p s = boundaryTrain p (fillDue 1 (fillDue 0 (boundaryClaims s.atClaims))) := rfl

theorem boundaryTrain_cle (p : Bool) (s : State) : (boundaryTrain p s).cle = s.cle := phaseTick_cle _

theorem fillDue_cle (i : Nat) (s : State) : (fillDue i s).cle = s.cle := dueIf_cle _ _ s

theorem boundaryClaims_cle (s : State) : (boundaryClaims s).cle =
    { s.cle with list := s.cle.list.map fun c => claimTimers (s.travelOf (targetRole c.target) == .opened) c } := rfl

theorem boundaryClaims_due (s : State) : (boundaryClaims s).due = s.due ++ (boundaryClaims s).cle.list.filterMap claimDue := rfl

theorem mem_boundaryTrain {e : Due} (claims : e.ofClaim = true) (p : Bool) (s : State) : e ∈ (boundaryTrain p s).due ↔ e ∈ s.due := by
  have ticks := phaseTick_works (mapTrs_works (.refl s) fun t => sensorTick (productTicks s.mch.quality.window (permitTick p t)))
  unfold boundaryTrain
  dsimp only
  rw [State.setDue_due, List.mem_append, ticks.due]
  refine or_iff_left fun m => ?_
  rw [trainDue_notClaim _ _ e m] at claims
  cases claims

theorem mem_fillDue {e : Due} (claims : e.ofClaim = true) (i : Nat) (s : State) : e ∈ (fillDue i s).due ↔ e ∈ s.due :=
  mem_dueIf (by rintro rfl; cases claims)

theorem boundaryBlocks_cle (p : Bool) (s : State) : (boundaryBlocks p s).cle =
    { s.cle with list := s.cle.list.map fun c => claimTimers (s.travelOf (targetRole c.target) == .opened) c } := by
  rw [boundaryBlocks_atClaims, boundaryTrain_cle, fillDue_cle, fillDue_cle, boundaryClaims_cle, atClaims_cle]
  simp only [atClaims_travelOf]

/-- Of the claims' events the blocks make due what the claims' timers say. -/
theorem mem_boundaryBlocks {e : Due} (claims : e.ofClaim = true) (p : Bool) (s : State) :
    e ∈ (boundaryBlocks p s).due ↔ e ∈ s.due ∨ ∃ c ∈ (boundaryBlocks p s).cle.list, claimDue c = some e := by
  rw [boundaryBlocks_atClaims, mem_boundaryTrain claims, mem_fillDue claims, mem_fillDue claims, boundaryTrain_cle, fillDue_cle,
    fillDue_cle, boundaryClaims_due, List.mem_append, mem_atClaims claims, List.mem_filterMap]

/-- The claims behind a boundary, and of their events those that are due (R86, R90, R93). -/
theorem boundary_claims {s : State} {row : Instr} {permit : Bool} (meets : s.atBoundary row permit) : ∃ t, exec row s = .next t ∧
    t.cle = { s.cle with list := s.cle.list.map fun c => claimTimers (s.travelOf (targetRole c.target) == .opened) c } ∧
    ∀ e : Due, e.ofClaim = true → (e ∈ t.due ↔ ∃ c ∈ t.cle.list, claimDue c = some e) := by
  obtain ⟨k, v, heard, ran, given⟩ := meets
  have hearing : s.hearing = true := by
    unfold State.hearing State.serving at *
    cases h : s.bc.busState <;> simp_all
  obtain ⟨src, now, ms, x, d, l, row', nothing⟩ := exec_boundaryDue k hearing given
  have moved : (s.movedWith ms x d l).serving = true := v
  obtain ⟨t, blocks, before⟩ := boundary_allHeard moved heard src ran now permit
  have travel := travelOf_congr (s := s) (t := t) before.setup before.act
  refine ⟨_, row'.trans (congrArg Host.Outcome.next blocks), ?_, fun e claims => ?_⟩
  · rw [boundaryBlocks_cle, before.cle]
    simp only [travel]
    rfl
  · rw [mem_boundaryBlocks claims, before.due]
    refine or_iff_right fun m => ?_
    rw [nothing e m] at claims
    cases claims

/-- Settles O31: the messages of a waiting claim that ends, its request made again, and the claims' timers and events at a boundary. -/
theorem waitingClaims : Obligations.WaitingClaims := by
  refine ⟨fun q c s found waits => ⟨fun k joined => ?_, fun rest due old => ?_, fun rest due zero => ?_⟩,
    fun row permit s meets => ?_⟩
  · obtain rfl := claimOf_sequence found
    have stops := stopClaim_waiting found waits k joined
    refine ⟨fun mild => ?_, fun creator target inflow own => ?_⟩
    · obtain ⟨cle, offered⟩ := leaveList_withdraws (s := s) waits mild .stopped
      exact ⟨_, stops, rfl, cle, offered, fun i target creator two =>
        leaveList_tankIdle (c := c.ended .stopped none) target creator two rfl s⟩
    · obtain ⟨cle, offered, gone, retries⟩ := leaveList_stopped waits creator target inflow own
      exact ⟨_, stops, rfl, cle, gone, offered, retries⟩
  · obtain rfl := claimOf_sequence found
    have ahead := leaveList_offeredFirst (c.ended .timeout none) (s.setDue rest)
    rw [parting_ended waits] at ahead
    refine ⟨_, timeout_waiting found waits due old, (leaveList_works (.refl _) _).due, ahead, leaveList_young c (s.setDue rest),
      fun mild => leaveList_withdraws (s := s.setDue rest) waits mild .timeout, fun room => ?_, fun i target creator two => ?_⟩
    · have told := leaveList_reported (c := c.ended .timeout none) (s := s.setDue rest) room
      rwa [show endedFrom (c.ended .timeout none).state = c.state from endedFrom_waits waits] at told
    · obtain ⟨idle, live⟩ := leaveList_fill (c := c.ended .timeout none) (s.setDue rest) i target creator two
      exact ⟨idle, live, fun j filled three =>
        leaveList_tankSkips (c := c.ended .timeout none) (s := s.setDue rest) target creator two rfl filled three⟩
  · obtain rfl := claimOf_sequence found
    have requests := offerRequest_requests c (s.setDue rest)
    exact ⟨_, repeat_waiting found waits due zero, requests.self ⟨c, found⟩, by rw [requests.frame]; rfl, requests.joins⟩
  · obtain ⟨t, boundary, cle, events⟩ := boundary_claims meets
    refine ⟨t, boundary, ?_, fun q => ⟨(events _ rfl).trans ?_, (events _ rfl).trans ?_, (events _ rfl).trans ?_⟩⟩
    · rw [cle]
      simp only [claimTimers_aged]
      rfl
    · exact exists_congr fun c => and_congr_right fun _ => (claimDue_iff c q).1
    · exact exists_congr fun c => and_congr_right fun _ => (claimDue_iff c q).2.1
    · exact exists_congr fun c => and_congr_right fun _ => (claimDue_iff c q).2.2

end Sys2Proof.Machine
end

section

namespace Sys2Proof.Machine

/-! ## The claim of a sequence among the others of its valve (R77, R97) -/

theorem targetRole_inj {x y : Target} (h : targetRole x = targetRole y) : x = y := by
  cases x <;> cases y <;> simp_all [targetRole]

/-- The claim is in the list, and no other record bears its sequence. -/
structure State.bears (s : State) (c : Claim) : Prop where
  mem : c ∈ s.cle.list
  only : ∀ x ∈ s.cle.list, x.sequence = c.sequence → x = c

/-- On a target there stands no claim but that of the sequence. -/
def State.sole (s : State) (g : Target) (q : Nat) : Prop := ∀ x ∈ s.cle.list, x.target = g → x.sequence = q

namespace State.bears

variable {s t : State} {c : Claim} (h : s.bears c)

include h

theorem congr (e : t.cle = s.cle) : t.bears c := ⟨by rw [e]; exact h.mem, by rw [e]; exact h.only⟩

theorem claimOf : s.claimOf c.sequence = some c := by
  unfold State.claimOf
  cases found : s.cle.list.find? (·.sequence == c.sequence) with
  | none =>
    have absent := List.find?_eq_none.mp found c h.mem
    simp at absent
  | some x => exact congrArg some (h.only x (List.mem_of_find?_eq_some found) (by simpa using List.find?_some found))

/-- The record of another claim replaced. -/
theorem putClaim {x : Claim} (other : x.sequence = c.sequence → x = c) : (s.putClaim x).bears c := by
  refine ⟨List.mem_map.mpr ⟨c, h.mem, ?_⟩, fun y m own => ?_⟩
  · split
    · rename_i e
      exact other e.symm
    · rfl
  · rcases mem_putClaim m with rfl | ⟨m, -⟩
    · exact other own
    · exact h.only y m own

/-- A notice of its valve finds the claim in FLOWING or CLOSING that stands there alone (R97). -/
theorem cleNotice (sole : s.sole c.target c.sequence) (live : c.state = .flowing ∨ c.state = .closing) {n : Notice}
    (role : n.role = targetRole c.target) : cleNotice n s = claimNotice c n.kind s := by
  unfold Machine.cleNotice
  cases found : s.cle.list.find? fun x => targetRole x.target == n.role && (x.state == .flowing || x.state == .closing) with
  | none =>
    have absent := List.find?_eq_none.mp found c h.mem
    rcases live with e | e <;> simp [role, e] at absent
  | some x =>
    have test := List.find?_some found
    simp only [Bool.and_eq_true, beq_iff_eq] at test
    have mem := List.mem_of_find?_eq_some found
    rw [h.only x mem (sole x mem (targetRole_inj (test.1.trans role)))]

end State.bears

theorem putClaim_bears {s : State} {c x : Claim} (found : s.claimOf c.sequence = some x) : (s.putClaim c).bears c := by
  refine ⟨List.mem_map.mpr ⟨x, List.mem_of_find?_eq_some found, if_pos (claimOf_sequence found)⟩, fun y m own => ?_⟩
  rcases mem_putClaim m with rfl | ⟨-, n⟩
  · rfl
  · exact absurd own n

theorem putClaim_sole {s : State} {c : Claim} {g : Target} {q : Nat} (h : s.sole g q) (own : c.target = g → c.sequence = q) :
    (s.putClaim c).sole g q := by
  intro y m target
  rcases mem_putClaim m with rfl | ⟨m, -⟩
  · exact own target
  · exact h y m target

/-! ## What an open request tells (R66, R88) -/

theorem nil_or_singleton {α : Type} {l : List α} (few : l.length ≤ 1) : l = [] ∨ ∃ n, l = [n] := by
  match l, few with
  | [], _ => exact .inl rfl
  | [n], _ => exact .inr ⟨n, rfl⟩

theorem startTravel_frame (a : Nat) (u : ActuatorSetup) (opening : Bool) (s : State) :
    (startTravel a u opening s).1 = { s with act := (startTravel a u opening s).1.act } := by
  unfold startTravel
  dsimp only
  split <;> rfl

theorem startTravel_told (a : Nat) (u : ActuatorSetup) (opening : Bool) (s : State) : (startTravel a u opening s).2.length ≤ 1 ∧
    ∀ n ∈ (startTravel a u opening s).2, n.role = u.role ∧ n.kind = .travelDone (reached opening) := by
  unfold startTravel
  dsimp only
  split <;> simp

theorem openRole_frame (r : Role) (s : State) : (openRole r s).1 = { s with act := (openRole r s).1.act } := by
  unfold openRole
  split
  · rename_i a _
    unfold openReq
    split
    · rfl
    · dsimp only
      split
      · rfl
      · split
        · split
          · rfl
          · exact startTravel_frame a _ true (s.putAct a { s.actOf a with command := .drive })
        · rfl
  · rfl

theorem openReq_grants {s : State} {a : Nat} {u : ActuatorSetup} (set : s.actSetup a = some u) (yes : s.permitted u = true) :
    ((openReq a s).1.actOf a).command = .drive ∧ (openReq a s).2.length ≤ 1 ∧
      ∀ n ∈ (openReq a s).2, n.role = u.role ∧ n.kind = .travelDone .opened := by
  by_cases driven : (s.actOf a).command = .drive
  · rw [openReq_driven set driven]
    exact ⟨driven, Nat.zero_le 1, nofun⟩
  · refine ⟨openReq_drives set driven yes, ?_⟩
    rw [openReq_permitted set driven yes]
    split
    · exact ⟨Nat.zero_le 1, nofun⟩
    · exact startTravel_told a u true _

/-- The end of a travel of a target's valve is told to the claims alone (Table 4-4, Table 8-5). -/
theorem dispatch_travelDone {n : Notice} {x : Target} {r : Travel} (role : n.role = targetRole x) (k : n.kind = .travelDone r) (s : State) :
    dispatch s n = cleNotice n s := by
  by_cases divert : targetRole x = .divert
  · have train : ∀ s, trsNotice n s = s := fun s => by
      unfold trsNotice
      rw [role, divert, k]
    unfold dispatch divertNotice
    rw [role, divert]
    simp only [train, ite_self]
  · exact dispatch_valve role divert s

theorem claimNotice_opened {c : Claim} (flowing : c.state = .flowing) (s : State) :
    claimNotice c (.travelDone .opened) s = s.putClaim { c with stall := 0 } := by
  unfold claimNotice
  rw [flowing]

/-- The end of a travel is nothing to a claim that did not wait for it (R97). -/
theorem claimNotice_unawaited {c : Claim} {r : Travel} (h : (c.state = .closing ∧ r = .opened) ∨ (c.state = .flowing ∧ r = .closed))
    (s : State) : claimNotice c (.travelDone r) s = s := by
  unfold claimNotice
  rcases h with ⟨state, rfl⟩ | ⟨state, rfl⟩ <;> rw [state]

theorem claimNotice_denied {c : Claim} (flowing : c.state = .flowing) (s : State) :
    claimNotice c .permissiveDenied s = toClosing c .interlock s := by
  unfold claimNotice
  rw [flowing]

/-- A valve that has opened sets the stall timer of its FLOWING claim to 0 (R93), and nothing else. -/
theorem cleNotice_opened {n : Notice} (k : n.kind = .travelDone .opened) (s : State) :
    cleNotice n s = s ∨ ∃ x ∈ s.cle.list, cleNotice n s = s.putClaim { x with stall := 0 } := by
  unfold cleNotice
  split
  · rename_i x found
    have test := List.find?_some found
    simp only [Bool.and_eq_true, Bool.or_eq_true, beq_iff_eq] at test
    rw [k]
    rcases test.2 with flowing | closing
    · exact .inr ⟨x, List.mem_of_find?_eq_some found, claimNotice_opened flowing s⟩
    · exact .inl (claimNotice_unawaited (.inl ⟨closing, rfl⟩) s)
  · exact .inl rfl

/-! ## The claim that a GRANT lets flow (R88) -/

/-- The record of a claim that begins to flow. -/
def Claim.flows (c : Claim) : Claim := { c with state := .flowing, repeatTimer := 0, delivered := 0, stall := 0 }

/-- The state behind the open request of a claim that begins to flow, its notice taken. -/
def State.opensFor (s : State) (c : Claim) : State := notify (openRole (targetRole c.target) (s.putClaim c.flows))

theorem startFlow_flows {s : State} {c : Claim} (flows : (s.opensFor c).claimOf c.sequence = some c.flows) :
    startFlow c s = flowingNotice c.flows (s.opensFor c) := by
  have step : startFlow c s = match (s.opensFor c).claimOf c.sequence with
    | some x => if x.state = ClaimState.flowing then flowingNotice x (s.opensFor c) else s.opensFor c
    | none => s.opensFor c := rfl
  refine step.trans ?_
  rw [flows]
  exact if_pos rfl

theorem startFlow_gone {s : State} {c : Claim} (gone : (s.opensFor c).claimOf c.sequence = none) : startFlow c s = s.opensFor c := by
  have step : startFlow c s = match (s.opensFor c).claimOf c.sequence with
    | some x => if x.state = ClaimState.flowing then flowingNotice x (s.opensFor c) else s.opensFor c
    | none => s.opensFor c := rfl
  refine step.trans ?_
  rw [gone]

/-- From `s` to `t` the claim began to flow, the actuator `a` driven, and nothing else changed but stall timers. -/
structure State.letsFlow (s t : State) (a : Nat) (c : Claim) : Prop where
  frame : t = { s with act := t.act, cle := t.cle }
  bears : t.bears c.flows
  sole : s.sole c.target c.sequence → t.sole c.target c.sequence
  drive : (t.actOf a).command = .drive

section

variable {s : State} {c : Claim} {a : Nat} {u : ActuatorSetup} (found : s.claimOf c.sequence = some c)
  (valve : s.actWith (targetRole c.target) = some a) (set : s.actSetup a = some u)

include found valve set

/-- The open request of a claim's valve, permitted, with its notice taken. -/
theorem opensFor_letsFlow (yes : s.permitted u = true) :
    s.letsFlow (s.opensFor c) a c := by
  have role : u.role = targetRole c.target := actWith_role valve set
  have asked : openRole (targetRole c.target) (s.putClaim c.flows) = openReq a (s.putClaim c.flows) := by
    unfold openRole
    rw [show (s.putClaim c.flows).actWith (targetRole c.target) = some a from valve]
  have frame := openRole_frame (targetRole c.target) (s.putClaim c.flows)
  have grants := openReq_grants (s := s.putClaim c.flows) set yes
  unfold State.opensFor
  rw [asked] at frame ⊢
  obtain ⟨drive, few, told⟩ := grants
  generalize openReq a (s.putClaim c.flows) = r at frame drive few told
  have bears : r.1.bears c.flows := (putClaim_bears (c := c.flows) found).congr (by rw [frame])
  have sole : s.sole c.target c.sequence → r.1.sole c.target c.sequence := fun h => by
    rw [frame]
    exact putClaim_sole h fun _ => rfl
  have same : r.1 = { s with act := r.1.act, cle := r.1.cle } := by
    rw [frame]
    rfl
  unfold notify
  obtain none | ⟨n, one⟩ := nil_or_singleton few
  · rw [none]
    exact ⟨same, bears, sole, drive⟩
  · rw [one] at told ⊢
    obtain ⟨toldRole, kind⟩ := told n List.mem_cons_self
    have taken : [n].foldl dispatch r.1 = cleNotice n r.1 := dispatch_travelDone (toldRole.trans role) kind r.1
    rw [taken]
    rcases cleNotice_opened kind r.1 with e | ⟨x, m, e⟩
    · rw [e]
      exact ⟨same, bears, sole, drive⟩
    · rw [e]
      have own : ({ x with stall := 0 } : Claim).sequence = c.flows.sequence → ({ x with stall := 0 } : Claim) = c.flows := fun eq => by
        rw [bears.only x m eq]
        rfl
      refine ⟨?_, bears.putClaim own, fun h => putClaim_sole (sole h) fun target => sole h x m target, drive⟩
      rw [same]
      rfl

end

end Sys2Proof.Machine
end

section

namespace Sys2Proof.Machine

/-! ## A GRANT whose valve is denied (R88, R97) -/

theorem claimOf_filtered {s t : State} {q : Nat} (h : t.cle = { s.cle with list := s.cle.list.filter fun x => x.sequence != q }) :
    t.claimOf q = none := by
  unfold State.claimOf
  rw [h]
  refine List.find?_eq_none.mpr fun x m e => ?_
  have other := (List.mem_filter.mp m).2
  simp only [bne_iff_ne, beq_iff_eq] at other e
  exact other e

/-- The last failure of a pass, in DIVERTING for NO-DESTINATION or QUALITY, starts the retry wait (R153, R154). -/
theorem inflowOutcome_lastFailure {s : State} (diverting : s.trs.state = .diverting)
    (last : s.setup.destinations.length ≤ s.trs.passCount + 1) :
    inflowOutcome .interlock s = s.setTrs { s.trs with inflow := none, passCount := 0, destIndex := 0, retry := some 0 } := by
  have stays := leavesProducing_diverting diverting .interlock
  have finished : s.inflowGone.lastFailure = true := by
    unfold State.lastFailure State.passOver
    exact decide_eq_true last
  rw [inflowOutcome_running (.inr diverting), runningOutcome_stays (stopsTrain_other (r := .interlock) nofun _), stays]
  have failed : inflowEffect .interlock s.inflowGone = failedDest .interlock s.inflowGone := rfl
  simp only [Bool.false_eq_true, if_false]
  rw [failed]
  unfold failedDest
  rw [stopsTrain_other (r := .interlock) nofun, finished]
  rfl

/-- The state in which the denial of a claim's open request is told (R66). -/
def State.deniedFor (s : State) (c : Claim) (a : Nat) : State :=
  (s.putClaim c.flows).putAct a { s.actOf a with command := .held }

/-- The denial ends the claim that has just begun to flow (R97). -/
theorem cleNotice_deniedFor {s : State} {c : Claim} (found : s.claimOf c.sequence = some c) (sole : s.sole c.target c.sequence) (a : Nat) :
    cleNotice ⟨a, targetRole c.target, .permissiveDenied⟩ (s.deniedFor c a) =
    toClosing c.flows .interlock (s.deniedFor c a) := by
  have bears : (s.deniedFor c a).bears c.flows := (putClaim_bears (c := c.flows) found).congr rfl
  have alone : (s.deniedFor c a).sole c.flows.target c.flows.sequence := putClaim_sole (c := c.flows) sole fun _ => rfl
  exact (bears.cleNotice alone (.inl rfl) rfl).trans (claimNotice_denied rfl _)

section

variable {s : State} {c : Claim} {a : Nat} {u : ActuatorSetup} (found : s.claimOf c.sequence = some c)
  (valve : s.actWith (targetRole c.target) = some a) (set : s.actSetup a = some u) (no : s.permitted u = false)
  (undriven : (s.actOf a).command ≠ .drive)

include valve set no undriven

theorem openRole_denied : openRole (targetRole c.target) (s.putClaim c.flows) =
    (s.deniedFor c a, [⟨a, targetRole c.target, .permissiveDenied⟩]) := by
  unfold openRole
  rw [show (s.putClaim c.flows).actWith (targetRole c.target) = some a from valve, ← actWith_role valve set]
  exact openReq_denied (s := s.putClaim c.flows) set undriven no

variable (sole : s.sole c.target c.sequence)

include found sole

theorem opensFor_denied (divert : targetRole c.target ≠ .divert) : s.opensFor c = toClosing c.flows .interlock (s.deniedFor c a) := by
  unfold State.opensFor
  rw [openRole_denied valve set no undriven, ← cleNotice_deniedFor found sole]
  exact dispatch_valve (x := c.target) rfl divert _

/-- On the product line the train hears of the denial behind the claim (Table 4-4). -/
theorem opensFor_divertDenied (divert : c.target = .product) :
    s.opensFor c = divertLost (toClosing c.flows .interlock (s.deniedFor c a)) := by
  have flowing : (s.deniedFor c a).flowingOn (targetRole c.target) = true :=
    List.any_eq_true.mpr ⟨c.flows, (putClaim_bears (c := c.flows) found).mem, by simp [Claim.flows]⟩
  unfold State.opensFor
  rw [openRole_denied valve set no undriven, ← cleNotice_deniedFor found sole]
  rw [divert] at flowing ⊢
  exact if_pos flowing

end

/-- What the valve's state is when the denial is told, but for its command. -/
theorem deniedFor_travel {s : State} {a : Nat} {u : ActuatorSetup} (set : s.actSetup a = some u) (c : Claim) :
    ((s.deniedFor c a).actOf a).travel = (s.actOf a).travel := by
  have held : (s.deniedFor c a).actOf a = { s.actOf a with command := .held } := actOf_put (s := s.putClaim c.flows) set _
  rw [held]

section

variable {s : State} {c : Claim} {a : Nat} {u : ActuatorSetup} (valve : s.actWith (targetRole c.target) = some a)
  (set : s.actSetup a = some u) (shut : (s.actOf a).travel = .closed)

include valve set shut

/-- A claim of no train, denied with its valve CLOSED, leaves the list (R94). -/
theorem denied_ends (stranger : c.creator ≠ .train) :
    ((toClosing c.flows .interlock (s.deniedFor c a)).actOf a).command = .safe ∧
      (toClosing c.flows .interlock (s.deniedFor c a)).cle =
        { s.cle with list := s.cle.list.filter fun x => x.sequence != c.sequence } := by
  have ends := toClosing_ends (s := s.deniedFor c a) (c := c.flows) set valve ((deniedFor_travel set c).trans shut) stranger .interlock
  refine ⟨ends.command, ends.cle.trans ?_⟩
  exact congrArg (fun l => ({ s.cle with list := l } : Claims)) (putClaim_filter s c.flows)

theorem denied_tankOf {k : Nat} (target : c.target = .fillInlet k) (creator : c.creator = .fill) (two : k < 2) :
    (toClosing c.flows .interlock (s.deniedFor c a)).tankOf k = { s.tankOf k with fill := .idle, live := none } := by
  have tank : (closeValve c.flows .interlock (s.deniedFor c a)).tankOf k = s.tankOf k := by
    rw [closeValve_frame]
    rfl
  rw [toClosing_atOnce (s := s.deniedFor c a) (c := c.flows) set valve .interlock ((deniedFor_travel set c).trans shut),
    leaveList_tankIdle (c := c.flows.closes .interlock) target creator two rfl, tank]

/-- The train's inflow claim, denied with DIVERT closed as the last of its pass (R153, R154). -/
theorem denied_inflow (creator : c.creator = .train) (target : c.target = .product) (inflow : s.trs.inflow = some c.sequence)
    (diverting : s.trs.state = .diverting) (last : s.setup.destinations.length ≤ s.trs.passCount + 1) :
    ((toClosing c.flows .interlock (s.deniedFor c a)).actOf a).command = .safe ∧
      (toClosing c.flows .interlock (s.deniedFor c a)).cle =
        { s.cle with list := s.cle.list.filter fun x => x.sequence != c.sequence } ∧
      (toClosing c.flows .interlock (s.deniedFor c a)).trs =
        { s.trs with inflow := none, passCount := 0, destIndex := 0, retry := some 0 } := by
  have safe := closeValve_safe (s := s.deniedFor c a) (c := c.flows) set valve .interlock
  have frame := closeValve_frame c.flows .interlock (s.deniedFor c a)
  rw [toClosing_atOnce (s := s.deniedFor c a) (c := c.flows) set valve .interlock ((deniedFor_travel set c).trans shut)]
  generalize closeValve c.flows .interlock (s.deniedFor c a) = t at safe frame
  obtain ⟨l, left, -⟩ := left_frame t (c.flows.closes .interlock)
  have trs : (t.left (c.flows.closes .interlock)).trs = s.trs := (left_trs t _).trans (by rw [frame]; rfl)
  have setup : (t.left (c.flows.closes .interlock)).setup = s.setup := by
    rw [left, frame]
    rfl
  have outcome : leaveList (c.flows.closes .interlock) t = (t.left (c.flows.closes .interlock)).setTrs
      { s.trs with inflow := none, passCount := 0, destIndex := 0, retry := some 0 } := by
    rw [leaveList_eq, handOutcome_inflow (c := c.flows.closes .interlock) creator target (trs.symm ▸ inflow), ← trs]
    exact inflowOutcome_lastFailure (by rw [trs]; exact diverting) (by rw [setup, trs]; exact last)
  rw [outcome]
  refine ⟨?_, ?_, rfl⟩
  · exact (congrArg Actuator.command (State.vacant.actOf_congr (by rw [left]; rfl) a)).trans safe
  · refine (left_cle t (c.flows.closes .interlock)).trans ?_
    rw [frame]
    have twice := putClaim_filter (s.putClaim c.flows) (c.flows.closes .interlock)
    exact congrArg (fun l => ({ s.cle with list := l } : Claims)) (twice.trans (putClaim_filter s c.flows))

end

end Sys2Proof.Machine
end

section

namespace Sys2Proof.Machine

/-! ## The flowing notice at the train (R88, R145, R152) -/

/-- A change between the states in which a destination is published names the one published before (R145, R157). -/
theorem enterTrain_tellsRated {s : State} {st : TrainState} (before : rated s.trs.state = true) (after : rated st = true)
    (b : DivertCause) (c : FaultCause) (d : StopCause) : s.tellsTrain (enterTrain st b c d s) 0 st b c d s.destination := by
  have same : (changeTrain st b c d s).destination = s.destination := by
    rw [rated_iff] at before after
    rw [destination_iff, destination_iff]
    exact if_congr (and_congr_left' (iff_of_true after before)) rfl rfl
  unfold State.tellsTrain
  rw [← same]
  exact report_tells (changeTrain st b c d s) _

theorem flowingNotice_other {c : Claim} {s : State} (h : c.creator ≠ .train ∨ s.trs.inflow ≠ some c.sequence) :
    flowingNotice c s = s :=
  if_neg (by simpa [imp_iff_not_or] using h)

section

variable {c : Claim} {s : State} (creator : c.creator = .train) (inflow : s.trs.inflow = some c.sequence)
  (diverting : s.trs.state = .diverting)

include creator inflow diverting

theorem flowingNotice_noDestination (cause : s.trs.divertCause = .noDestination) :
    flowingNotice c s = enterTrain .producing .none .none .none s := by
  unfold flowingNotice State.diverted
  simp [creator, inflow, diverting, cause]

theorem flowingNotice_quality (cause : s.trs.divertCause = .quality) : flowingNotice c s = closeDivert s := by
  unfold flowingNotice State.diverted
  simp [creator, inflow, diverting, cause]

end

/-- DIVERT given its close request under a product claim in FLOWING, the only one there: the claim does not heed the end of the closing
(R77, R97). -/
theorem closeDivert_flowing {s : State} {c : Claim} (bears : s.bears c) (sole : s.sole c.target c.sequence) (target : c.target = .product)
    (flowing : c.state = .flowing) : closeDivert s = (closeRole .divert s).1 := by
  obtain ⟨-, told⟩ := closeRole_told .divert s
  rw [closeDivert_eq]
  have same := closeRole_cle .divert s
  generalize (closeRole .divert s).1 = t at same
  refine foldl_fixed fun n m => ?_
  obtain ⟨role, kind, -⟩ := told n m
  have alone : t.sole c.target c.sequence := by
    unfold State.sole
    rw [same]
    exact sole
  rw [(bears.congr same).cleNotice alone (.inl flowing) (role.trans (by rw [target]; rfl)), kind]
  exact claimNotice_unawaited (.inr ⟨flowing, rfl⟩) t

/-! ## GRANT (R88, R101) -/

theorem takeGrant_gone {src q : Nat} {s : State} (gone : s.claimOf q = none) : takeGrant src q s = send src (.endMsg q 0 .late) s := by
  unfold takeGrant
  rw [gone]

theorem takeGrant_late {src q : Nat} {c : Claim} {s : State} (found : s.claimOf q = some c)
    (late : c.tank.station ≠ src ∨ c.state = .pathing) : takeGrant src q s = send src (.endMsg q 0 .late) s := by
  unfold takeGrant
  rw [found]
  by_cases own : c.tank.station = src
  · simp [own, late.resolve_left (not_not.mpr own)]
  · exact if_neg own

theorem takeGrant_repeated {src q : Nat} {c : Claim} {s : State} (found : s.claimOf q = some c) (own : c.tank.station = src)
    (again : c.state = .flowing ∨ c.state = .closing) : takeGrant src q s = s := by
  unfold takeGrant
  rw [found]
  rcases again with h | h <;> simp [own, h]

theorem takeGrant_asking {src q : Nat} {c : Claim} {s : State} (found : s.claimOf q = some c) (own : c.tank.station = src)
    (asking : c.state = .asking) : takeGrant src q s = startFlow c s := by
  unfold takeGrant
  rw [found]
  simp [own, asking]

section

variable {s : State} {c : Claim} {a : Nat} {u : ActuatorSetup} (found : s.claimOf c.sequence = some c)
  (valve : s.actWith (targetRole c.target) = some a) (set : s.actSetup a = some u)

include found valve set

/-- A claim whose flowing the train does not heed. -/
theorem startFlow_unheeded (yes : s.permitted u = true) (h : c.creator ≠ .train ∨ s.trs.inflow ≠ some c.sequence) :
    s.letsFlow (startFlow c s) a c := by
  have lets := opensFor_letsFlow found valve set yes
  have unheeded : flowingNotice c.flows (s.opensFor c) = s.opensFor c :=
    flowingNotice_other (c := c.flows) (h.imp_right fun other => by rw [lets.frame]; exact other)
  rwa [startFlow_flows lets.bears.claimOf, unheeded]

/-- The train's inflow claim flows: DIVERTING for NO-DESTINATION ends (R145). -/
theorem startFlow_produces (yes : s.permitted u = true) (creator : c.creator = .train) (inflow : s.trs.inflow = some c.sequence)
    (diverting : s.trs.state = .diverting) (cause : s.trs.divertCause = .noDestination) :
    ((startFlow c s).actOf a).command = .drive ∧ (startFlow c s).trs.state = .producing ∧
      s.tellsTrain (startFlow c s) 0 .producing .none .none .none s.destination ∧
      (startFlow c s).claimOf c.sequence = some c.flows := by
  have lets := opensFor_letsFlow found valve set yes
  rw [startFlow_flows lets.bears.claimOf]
  obtain ⟨frame, bears, -, drive⟩ := lets
  generalize s.opensFor c = t at frame bears drive
  have told := enterTrain_tellsRated (s := t) (st := .producing) (by rw [frame]; exact (rated_iff _).mpr (.inr diverting)) rfl
    .none .none .none
  rw [flowingNotice_noDestination (c := c.flows) (s := t) creator (by rw [frame]; exact inflow) (by rw [frame]; exact diverting)
    (by rw [frame]; exact cause)]
  obtain ⟨l, entered, -⟩ := enterTrain_ring .producing .none .none .none t
  refine ⟨?_, ?_, ?_, ?_⟩
  · rw [entered]
    exact drive
  · rw [entered]
    rfl
  · rw [frame] at told ⊢
    exact told
  · exact (claimOf_congr (enterTrain_cle _ _ _ _ t) _).trans bears.claimOf

/-- In a diversion for QUALITY DIVERT goes back to reject, and the claim flows (R152). -/
theorem startFlow_diverted (yes : s.permitted u = true) (creator : c.creator = .train) (target : c.target = .product)
    (inflow : s.trs.inflow = some c.sequence) (diverting : s.trs.state = .diverting) (cause : s.trs.divertCause = .quality)
    (sole : s.sole c.target c.sequence) :
    ((startFlow c s).actOf a).command = .safe ∧ (startFlow c s).bc = s.bc ∧ (startFlow c s).trs = s.trs ∧
      (startFlow c s).claimOf c.sequence = some c.flows := by
  have lets := opensFor_letsFlow found valve set yes
  rw [startFlow_flows lets.bears.claimOf]
  obtain ⟨frame, bears, alone, -⟩ := lets
  generalize s.opensFor c = t at frame bears alone
  rw [flowingNotice_quality (c := c.flows) (s := t) creator (by rw [frame]; exact inflow) (by rw [frame]; exact diverting)
    (by rw [frame]; exact cause), closeDivert_flowing bears (alone sole) target rfl]
  have closed := closeRole_frame (r := .divert) nofun t
  refine ⟨?_, ?_, ?_, (claimOf_congr (closeRole_cle .divert t) _).trans bears.claimOf⟩
  · have divert : t.actWith .divert = some a := by
      rw [target] at valve
      rw [frame]
      exact valve
    rw [closeRole_eq divert]
    exact closeReq_command (s := t) (u := u) (by rw [frame]; exact set)
  · rw [closed, frame]
  · rw [closed, frame]

end

/-- Settles O29: a GRANT lets the claim flow with its valve asked open, and a denial ends it. -/
theorem grantIsHandled : Obligations.GrantIsHandled := by
  intro src q v s k serving
  refine ⟨fun gone => by rw [exec_grant k serving, takeGrant_gone gone], fun c found => ?_⟩
  obtain rfl := claimOf_sequence found
  refine ⟨fun late => by rw [exec_grant k serving, takeGrant_late found late],
    fun own again => by rw [exec_grant k serving, takeGrant_repeated found own again], fun a valve u set own asking => ?_⟩
  have granted : exec (.grant src c.sequence v) s = .next (startFlow c s) := by
    rw [exec_grant k serving, takeGrant_asking found own asking]
  refine ⟨fun yes => ⟨fun stranger => ?_, fun _ _ other => ?_, fun creator _ inflow diverting cause => ?_,
    fun creator target inflow diverting cause sole => ?_⟩, fun no undriven shut sole => ⟨fun port divert => ?_,
    fun i target creator two => ?_, fun creator target inflow diverting cause last => ?_⟩⟩
  · have lets := startFlow_unheeded found valve set yes (.inl stranger)
    exact ⟨_, granted, lets.drive, by rw [lets.frame], lets.bears.claimOf⟩
  · have lets := startFlow_unheeded found valve set yes (.inr other)
    exact ⟨_, granted, lets.drive, by rw [lets.frame], by rw [lets.frame], lets.bears.claimOf⟩
  · exact ⟨_, granted, startFlow_produces found valve set yes creator inflow diverting cause⟩
  · exact ⟨_, granted, startFlow_diverted found valve set yes creator target inflow diverting cause sole⟩
  · have denied := opensFor_denied found valve set no undriven sole divert
    obtain ⟨safe, cle⟩ := denied_ends valve set shut (by rw [port]; nofun)
    rw [← denied] at safe cle
    exact ⟨_, granted.trans (congrArg _ (startFlow_gone (claimOf_filtered cle))), safe, cle⟩
  · have denied := opensFor_denied found valve set no undriven sole (by rw [target]; nofun)
    obtain ⟨safe, cle⟩ := denied_ends valve set shut (by rw [creator]; nofun)
    have tank := denied_tankOf valve set shut target creator two
    rw [← denied] at safe cle tank
    exact ⟨_, granted.trans (congrArg _ (startFlow_gone (claimOf_filtered cle))), safe, cle, tank⟩
  · have denied := opensFor_divertDenied found valve set no undriven sole target
    obtain ⟨safe, cle, trs⟩ := denied_inflow valve set shut creator target inflow diverting last
    have unheard : divertLost (toClosing c.flows .interlock (s.deniedFor c a)) = toClosing c.flows .interlock (s.deniedFor c a) :=
      if_neg (by rw [trs]; exact diverting ▸ nofun)
    rw [unheard] at denied
    rw [← denied] at safe cle trs
    exact ⟨_, granted.trans (congrArg _ (startFlow_gone (claimOf_filtered cle))), safe, cle, trs⟩

end Sys2Proof.Machine
end

section

namespace Sys2Proof.Machine

/-! ## The end of the marginal timer (R156) -/

section

variable {s : State} {rest : List Due}

theorem exec_marginalTimeout (h : s.dueNext .marginal rest) : exec .marginalTimeout s = .next (marginalTimeout (s.setDue rest)) :=
  congrArg Host.Outcome.next (ownEvent_next h)

theorem exec_goodQualityResume (h : s.dueNext .goodResume rest) : exec .goodQualityResume s = .next (goodResume (s.setDue rest)) :=
  congrArg Host.Outcome.next (ownEvent_next h)

theorem exec_diversionLimit (h : s.dueNext .diversionLimit rest) : exec .diversionLimit s = .next (diversionLimit (s.setDue rest)) :=
  congrArg Host.Outcome.next (ownEvent_next h)

end

theorem marginalTimeout_excursion {s : State} {n : Nat} (watching : s.watching = true) (marginal : s.trs.marginal = some n)
    (long : 300 ≤ n) : marginalTimeout s = excursion s := if_pos (by simp [watching, marginal, long])

/-- An excursion leaves the claims and stops the marginal timer (R156). -/
theorem excursion_rest {s : State} (still : s.closingStill) : (excursion s).cle = s.cle ∧ (excursion s).trs.marginal = none := by
  obtain ⟨l, entered, -⟩ := enterTrain_ring .diverting .quality .none .none s
  have same : (toDiverting .quality s).closingStill := by
    unfold toDiverting
    rw [entered]
    exact closingStill_congr rfl rfl rfl still
  have closed := closeRole_frame (r := .divert) nofun (toDiverting .quality s)
  unfold excursion
  rw [closeDivert_closingStill same, closed]
  unfold toDiverting
  rw [entered]
  exact ⟨rfl, rfl⟩

/-! ## The tries of a pass touch claims, queue and the train's part in them (R151, R153) -/

/-- From `s` to `t` nothing changed but claims, the transmit queue, and the train's claim, pass and retry wait. -/
def Pursues (s t : State) : Prop :=
  t = { s with
    cle := t.cle
    bc := { s.bc with queue := t.bc.queue }
    trs := { s.trs with inflow := t.trs.inflow, passCount := t.trs.passCount, destIndex := t.trs.destIndex, retry := t.trs.retry } }

theorem pursues_tries : Tries Pursues where
  refl _ := rfl
  trans {s t u} h k := by
    unfold Pursues at h k ⊢
    rw [k, h]
  creates n s := by
    have bc := (createClaim_works (.refl s) n).bc
    have frame := createClaim_frame n s
    have trs : (createClaim n s).1.trs = s.trs := by rw [frame]
    rw [bc] at frame
    unfold Pursues
    rw [trs]
    exact frame
  counts _ _ _ _ _ := rfl

/-- Only a train that R151 lets ask asks (R151). -/
theorem askNext_held {s : State} (held : s.mayAsk = false) (n : Nat) : askNext n s = s := by
  cases n with
  | zero => rfl
  | succ n =>
    unfold askNext
    rw [held]
    rfl

/-! ## The end of a diversion (R157) -/

theorem diverted_iff (s : State) : s.diverted = true ↔ s.trs.state = .diverting ∧ s.trs.divertCause = .quality := by
  unfold State.diverted
  simp

/-- DIVERTING with cause NO-DESTINATION, before the next claim is asked (R157). -/
def State.freed (s : State) : State := changeTrain .diverting .noDestination .none .none s

/-- Where the train's claim does not flow the train goes on in DIVERTING for NO-DESTINATION, and with no claim asks one (R151, R157). -/
theorem divertAndAsk_frees (s : State) :
    (divertAndAsk s).trs.state = .diverting ∧ (divertAndAsk s).trs.divertCause = .noDestination ∧ (divertAndAsk s).act = s.act ∧
      (s.trs.inflow ≠ none → (divertAndAsk s).trs.inflow = s.trs.inflow ∧ (divertAndAsk s).cle = s.cle) ∧
      s.tellsTrain (divertAndAsk s) 0 .diverting .noDestination .none .none (divertAndAsk s).destination := by
  have asked : Pursues s.freed (askNext passTries s.freed) := pursues_tries.askNext passTries _
  have held : s.trs.inflow ≠ none → askNext passTries s.freed = s.freed := fun some => by
    refine askNext_held ?_ _
    unfold State.mayAsk State.freed changeTrain
    simp [some, changed]
  have told := report_tells (askNext passTries s.freed) (.train s.trs.state (askNext passTries s.freed).trs.state
    (askNext passTries s.freed).trs.divertCause (askNext passTries s.freed).trs.faultCause (askNext passTries s.freed).trs.stopCause
    (askNext passTries s.freed).destination (askNext passTries s.freed).trs.unflushed)
  obtain ⟨l, made⟩ := tellTrain_ring s.trs.state (askNext passTries s.freed)
  have result : divertAndAsk s = tellTrain s.trs.state (askNext passTries s.freed) := rfl
  change State.tells _ (tellTrain s.trs.state (askNext passTries s.freed)) 0 _ at told
  rw [result]
  rw [made] at told ⊢
  generalize askNext passTries s.freed = t at asked held told
  have state : t.trs.state = .diverting := by rw [asked]; rfl
  have cause : t.trs.divertCause = .noDestination := by rw [asked]; rfl
  have fault : t.trs.faultCause = .none := by rw [asked]; rfl
  have stop : t.trs.stopCause = .none := by rw [asked]; rfl
  have unflushed : t.trs.unflushed = s.trs.unflushed := by rw [asked]; rfl
  have port : t.port = s.port := by rw [asked]; rfl
  refine ⟨state, cause, by rw [asked]; rfl, fun some => ?_, ?_⟩
  · rw [held some]
    exact ⟨rfl, rfl⟩
  · rw [state, cause, fault, stop, unflushed] at told
    unfold State.tellsTrain
    unfold State.tells at told ⊢
    rwa [port] at told

/-- The inflow claim flows: PRODUCING, and DIVERT asked open (R157). -/
theorem goodResume_flowing {s : State} {n : Nat} (diverted : s.diverted = true) (good : s.trs.good = some n) (long : 600 ≤ n)
    (flowing : s.inflowFlowing = true) : goodResume s = openDivert (enterTrain .producing .none .none .none s) := by
  unfold goodResume
  rw [if_pos (by simp [diverted, good, long]), if_pos flowing]

theorem goodResume_other {s : State} {n : Nat} (diverted : s.diverted = true) (good : s.trs.good = some n) (long : 600 ≤ n)
    (other : s.inflowFlowing = false) : goodResume s = divertAndAsk s := by
  unfold goodResume
  rw [if_pos (by simp [diverted, good, long]), if_neg (by simp [other])]

/-- DIVERT opens, or is open: the train stands as it is (R157, Table 8-5). -/
theorem openDivert_permitted {s : State} {a : Nat} {u : ActuatorSetup} (valve : s.actWith .divert = some a)
    (set : s.actSetup a = some u) (yes : s.permitted u = true) :
    ((openDivert s).actOf a).command = .drive ∧ (openDivert s).trs = s.trs := by
  have asked : openRole .divert s = openReq a s := by
    unfold openRole
    rw [valve]
  have frame := openRole_frame .divert s
  obtain ⟨drive, few, told⟩ := openReq_grants set yes
  unfold openDivert
  rw [asked] at frame ⊢
  generalize openReq a s = r at frame drive few told
  unfold divertNotices
  dsimp only
  obtain none | ⟨n, one⟩ := nil_or_singleton few
  · rw [none]
    exact ⟨drive, by rw [List.foldl_nil, frame]⟩
  · rw [one] at told ⊢
    obtain ⟨toldRole, kind⟩ := told n List.mem_cons_self
    have role : n.role = .divert := toldRole.trans (actWith_role valve set)
    have taken : [n].foldl divertNotice r.1 = cleNotice n r.1 := by
      refine Eq.trans ?_ (dispatch_travelDone (x := .product) role kind r.1)
      unfold dispatch
      rw [role]
      rfl
    rw [taken]
    rcases cleNotice_opened kind r.1 with e | ⟨x, m, e⟩
    · rw [e]
      exact ⟨drive, by rw [frame]⟩
    · rw [e]
      exact ⟨drive, by rw [frame]; rfl⟩

end Sys2Proof.Machine
end

section

namespace Sys2Proof.Machine

/-! ## DIVERT held back from PRODUCING (R152, R157) -/

/-- From `s`, in PRODUCING, to `t` the train went to DIVERTING for NO-DESTINATION and made its record, behind at most `n` others. -/
structure State.losesDivert (s t : State) (n : Nat) : Prop where
  state : t.trs.state = .diverting
  cause : t.trs.divertCause = .noDestination
  told : ∃ d, s.tells t n (.train .producing .diverting .noDestination .none .none d s.trs.unflushed)

theorem Works.ringLength {s t : State} (w : Works s t) : s.port.ring.length ≤ t.port.ring.length := by
  simpa using w.ring.length_le

/-- A record more before the loss. -/
theorem State.losesDivert.earlier {s t u : State} {n : Nat} (h : t.losesDivert u n) (w : Works s t)
    (few : t.port.ring.length ≤ s.port.ring.length + 1) (unflushed : t.trs.unflushed = s.trs.unflushed) : s.losesDivert u (1 + n) := by
  obtain ⟨d, told⟩ := h.told
  rw [unflushed] at told
  exact ⟨h.state, h.cause, d, told.earlier w.ringLength few⟩

theorem divertLost_producing {s : State} (producing : s.trs.state = .producing) : s.losesDivert (divertLost s) 0 := by
  have told := report_tells s.freed (.train s.trs.state .diverting .noDestination .none .none s.freed.destination s.trs.unflushed)
  rw [producing] at told
  have lost : divertLost s = tellTrain s.trs.state s.freed := if_pos producing
  rw [lost, producing]
  have made : (tellTrain .producing s.freed).trs = s.freed.trs := report_trs _ _
  exact ⟨by rw [made]; rfl, by rw [made]; rfl, _, told⟩

theorem divertLost_lost {s t : State} {n : Nat} (h : s.losesDivert t n) : divertLost t = t :=
  if_neg (by rw [h.state]; nofun)

/-- The interlock's outcome of the inflow claim in PRODUCING (R153). -/
theorem inflowOutcome_lost {s : State} (producing : s.trs.state = .producing) : s.losesDivert (inflowOutcome .interlock s) 0 := by
  have leaves : leavesProducing .interlock s.inflowGone = true := by
    unfold leavesProducing State.inflowGone
    simp [State.mapTrs, State.setTrs, producing]
  have outcome : inflowOutcome .interlock s = tellTrain .producing (failedDest .interlock s.inflowGone.freed) := by
    rw [inflowOutcome_running (.inl producing), runningOutcome_stays (stopsTrain_other (r := .interlock) nofun _), if_pos leaves]
    rfl
  have failed : Pursues s.inflowGone.freed (failedDest .interlock s.inflowGone.freed) :=
    pursues_tries.failedDest (r := .interlock) nofun _
  rw [outcome]
  generalize failedDest .interlock s.inflowGone.freed = t at failed
  have state : t.trs.state = .diverting := by rw [failed]; rfl
  have cause : t.trs.divertCause = .noDestination := by rw [failed]; rfl
  have fault : t.trs.faultCause = .none := by rw [failed]; rfl
  have stop : t.trs.stopCause = .none := by rw [failed]; rfl
  have unflushed : t.trs.unflushed = s.trs.unflushed := by rw [failed]; rfl
  have port : t.port = s.port := by rw [failed]; rfl
  have made : (tellTrain .producing t).trs = t.trs := report_trs _ _
  have told := report_tells t (.train .producing t.trs.state t.trs.divertCause t.trs.faultCause t.trs.stopCause t.destination
    t.trs.unflushed)
  refine ⟨by rw [made, state], by rw [made, cause], t.destination, ?_⟩
  change State.tells _ (tellTrain .producing t) 0 _ at told
  rw [state, cause, fault, stop, unflushed] at told
  unfold State.tells at told ⊢
  rwa [port] at told

/-- A product claim that the train does not wait for has no outcome. -/
theorem handOutcome_unheeded {c : Claim} {s : State} (target : c.target = .product)
    (h : ¬(c.creator = .train ∧ s.trs.inflow = some c.sequence)) (r : EndReason) : handOutcome c r s = s := by
  unfold handOutcome trainOutcome
  rw [target]
  cases creator : c.creator with
  | port => rfl
  | fill => rfl
  | train => exact if_neg fun inflow => h ⟨creator, inflow⟩

/-- The claim's part in the loss of DIVERT: the train in PRODUCING is told nothing, or loses DIVERT by the outcome (R97, R152, R153). -/
def State.hearsLoss (s t : State) : Prop :=
  (t.trs = s.trs ∧ t.port.ring.length ≤ s.port.ring.length + 1) ∨ s.losesDivert t 1

theorem toClosing_hearsLoss {s : State} {c : Claim} (producing : s.trs.state = .producing) (target : c.target = .product) :
    s.hearsLoss (toClosing c .interlock s) := by
  have frame := closeValve_frame c .interlock s
  rw [toClosing_eq]
  generalize closeValve c .interlock s = t at frame
  have trs : t.trs = s.trs := by rw [frame]
  have port : t.port = s.port := by rw [frame]
  split
  · obtain ⟨l, left, most⟩ := left_frame t (c.closes .interlock)
    have works : Works t (t.left (c.closes .interlock)) :=
      dropClaim_works (report_works (finalMessages_works (.refl t) _) _) _
    have leftTrs := left_trs t (c.closes .interlock)
    have ring : (t.left (c.closes .interlock)).port.ring = l := by
      rw [left]
      rfl
    rw [leaveList_eq]
    by_cases heeded : c.creator = .train ∧ (t.left (c.closes .interlock)).trs.inflow = some c.sequence
    · rw [handOutcome_inflow (c := c.closes .interlock) heeded.1 target heeded.2]
      have lost : (t.left (c.closes .interlock)).losesDivert (inflowOutcome .interlock (t.left (c.closes .interlock))) 0 :=
        inflowOutcome_lost (by rw [leftTrs, trs]; exact producing)
      obtain ⟨state, cause, d, told⟩ := lost.earlier works (by rw [ring]; exact most) (by rw [leftTrs])
      refine .inr ⟨state, cause, d, ?_⟩
      unfold State.tells at told ⊢
      rwa [port, trs] at told
    · rw [handOutcome_unheeded (c := c.closes .interlock) target heeded]
      exact .inl ⟨leftTrs.trans trs, by rw [ring, ← port]; exact most⟩
  · exact .inl ⟨trs, by rw [port]; exact Nat.le_succ _⟩

theorem claimNotice_closingDenied {c : Claim} (closing : c.state = .closing) (s : State) :
    claimNotice c .permissiveDenied s = s := by
  unfold claimNotice
  rw [closing]

/-- The denial of DIVERT at the claims (R97): where none flows there, at nothing. -/
theorem cleNotice_divertDenied (a : Nat) {s : State} (producing : s.trs.state = .producing) :
    s.hearsLoss (cleNotice ⟨a, .divert, .permissiveDenied⟩ s) := by
  unfold cleNotice
  split
  · rename_i c found
    have test := List.find?_some found
    simp only [Bool.and_eq_true, Bool.or_eq_true, beq_iff_eq] at test
    rcases test.2 with flowing | closing
    · rw [claimNotice_denied flowing]
      exact toClosing_hearsLoss producing (targetRole_divert test.1)
    · rw [claimNotice_closingDenied closing]
      exact .inl ⟨rfl, Nat.le_succ _⟩
  · exact .inl ⟨rfl, Nat.le_succ _⟩

theorem cleNotice_unflowing (a : Nat) {s : State} (still : s.flowingOn .divert = false) :
    cleNotice ⟨a, .divert, .permissiveDenied⟩ s = s := by
  unfold cleNotice
  split
  · rename_i c found
    have test := List.find?_some found
    simp only [Bool.and_eq_true, Bool.or_eq_true, beq_iff_eq] at test
    rcases test.2 with flowing | closing
    · have flows : s.flowingOn .divert = true :=
        List.any_eq_true.mpr ⟨c, List.mem_of_find?_eq_some found, by simp [test.1, flowing]⟩
      rw [still] at flows
      cases flows
    · exact claimNotice_closingDenied closing s
  · rfl

/-- A train in PRODUCING whose DIVERT is denied loses it, by its claim's outcome or by the notice (R152, R153). -/
theorem divertNotice_denied (a : Nat) {s : State} (producing : s.trs.state = .producing) :
    s.losesDivert (divertNotice s ⟨a, .divert, .permissiveDenied⟩) 1 := by
  unfold divertNotice
  have train : ∀ t, trsNotice ⟨a, .divert, .permissiveDenied⟩ t = divertLost t := fun t => rfl
  rw [train, train]
  cases flowing : s.flowingOn .divert with
  | true =>
    have works := cleNotice_works (.refl s) ⟨a, .divert, .permissiveDenied⟩
    simp only [if_true]
    rcases cleNotice_divertDenied a producing with ⟨trs, few⟩ | lost
    · have lost : (cleNotice ⟨a, .divert, .permissiveDenied⟩ s).losesDivert
          (divertLost (cleNotice ⟨a, .divert, .permissiveDenied⟩ s)) 0 := divertLost_producing (by rw [trs]; exact producing)
      exact lost.earlier works few (by rw [trs])
    · rwa [divertLost_lost lost]
  | false =>
    have lost := divertLost_producing producing
    have still : (divertLost s).flowingOn .divert = false := by
      unfold divertLost toDiverting State.flowingOn
      rw [if_pos producing, enterTrain_cle]
      exact flowing
    simp only [Bool.false_eq_true, if_false]
    rw [cleNotice_unflowing a still]
    exact ⟨lost.state, lost.cause, lost.told.imp fun d told => told.weaken (Nat.zero_le 1)⟩

/-- DIVERT asked open by a train in PRODUCING, and denied (R152, R157). -/
theorem openDivert_denied {s : State} {a : Nat} {u : ActuatorSetup} (producing : s.trs.state = .producing)
    (valve : s.actWith .divert = some a) (set : s.actSetup a = some u) (no : s.permitted u = false)
    (undriven : (s.actOf a).command ≠ .drive) : s.losesDivert (openDivert s) 1 ∧ ((openDivert s).actOf a).command ≠ .drive := by
  have asked : openRole .divert s = (s.putAct a { s.actOf a with command := .held }, [⟨a, .divert, .permissiveDenied⟩]) := by
    unfold openRole
    rw [valve, ← actWith_role valve set]
    exact openReq_denied set undriven no
  have opened : openDivert s =
      divertNotice (s.putAct a { s.actOf a with command := .held }) ⟨a, .divert, .permissiveDenied⟩ := by
    unfold openDivert
    rw [asked]
    rfl
  obtain ⟨state, cause, told⟩ := divertNotice_denied a (s := s.putAct a { s.actOf a with command := .held }) producing
  rw [opened]
  refine ⟨⟨state, cause, told⟩, (OnlyCloses.reacts.divertNotice _ _).undriven a ?_⟩
  rw [actOf_put set]
  nofun

/-- The end of a diversion before DIVERT is asked open: PRODUCING, and its record made (R157). -/
def State.resumed (s : State) : State := enterTrain .producing .none .none .none s

/-- What stands of a state in PRODUCING entered from it. -/
structure State.resumes (s t : State) : Prop where
  works : Works s t
  setup : t.setup = s.setup
  act : t.act = s.act
  ila : t.ila = s.ila
  producing : t.trs.state = .producing
  unflushed : t.trs.unflushed = s.trs.unflushed
  few : t.port.ring.length ≤ s.port.ring.length + 1

theorem resumed_resumes (s : State) : s.resumes s.resumed := by
  have works := enterTrain_works (.refl s) .producing .none .none .none
  obtain ⟨l, entered, few⟩ := enterTrain_ring .producing .none .none .none s
  unfold State.resumed
  rw [entered] at works ⊢
  exact ⟨works, rfl, rfl, rfl, rfl, rfl, few⟩

theorem resumed_tells {s : State} (diverted : s.diverted = true) :
    s.tellsTrain (openDivert s.resumed) 0 .producing .none .none .none s.destination := by
  have before : rated s.trs.state = true := (rated_iff _).mpr (.inr ((diverted_iff s).mp diverted).1)
  exact (enterTrain_tellsRated before rfl .none .none .none).later (openDivert_works (.refl s.resumed))

theorem resumed_due (s : State) : (openDivert s.resumed).due = s.due :=
  (openDivert_works (resumed_resumes s).works).due

section

variable {s : State} {a : Nat} {u : ActuatorSetup} (valve : s.actWith .divert = some a) (set : s.actSetup a = some u)

include valve set

/-- DIVERT opens for the claim that flows (R157). -/
theorem resumed_opens (yes : s.permitted u = true) :
    (openDivert s.resumed).trs.state = .producing ∧ ((openDivert s.resumed).actOf a).command = .drive := by
  have stands := resumed_resumes s
  obtain ⟨drive, trs⟩ := openDivert_permitted ((actWith_congr stands.setup .divert).trans valve)
    ((actSetup_congr stands.setup a).trans set) ((permitted_congr stands.ila u).trans yes)
  exact ⟨by rw [trs, stands.producing], drive⟩

/-- DIVERT is denied: the diversion goes on for NO-DESTINATION (R152, R157). -/
theorem resumed_denied (no : s.permitted u = false) (undriven : (s.actOf a).command ≠ .drive) :
    (openDivert s.resumed).trs.state = .diverting ∧ (openDivert s.resumed).trs.divertCause = .noDestination ∧
      ((openDivert s.resumed).actOf a).command ≠ .drive ∧
      ∃ d, s.tells (openDivert s.resumed) 2 (.train .producing .diverting .noDestination .none .none d s.trs.unflushed) := by
  have stands := resumed_resumes s
  obtain ⟨lost, held⟩ := openDivert_denied stands.producing ((actWith_congr stands.setup .divert).trans valve)
    ((actSetup_congr stands.setup a).trans set) ((permitted_congr stands.ila u).trans no)
    (by rwa [State.vacant.actOf_congr stands.act])
  exact ⟨lost.state, lost.cause, held, (lost.earlier stands.works stands.few stands.unflushed).told⟩

end

/-! ## The diversion limit (R157) -/

theorem diversionLimit_stops {s : State} (diverted : s.diverted = true) (long : 600 ≤ s.trs.diversion) :
    diversionLimit s = stopInflow s := if_pos (by simp [diverted, long])

/-- The train's own stop of its inflow claim, in a diversion for QUALITY, asks for no other (R153, R157). -/
theorem inflowOutcome_ownStop {s : State} (diverted : s.diverted = true) (own : s.trs.ownStop = true) :
    inflowOutcome .stopped s = s.setTrs { s.trs with inflow := none, ownStop := false } := by
  obtain ⟨diverting, quality⟩ := (diverted_iff s).mp diverted
  have stays := leavesProducing_diverting diverting .stopped
  have held : (s.setTrs { s.trs with inflow := none, ownStop := false }).mayAsk = false := by
    unfold State.mayAsk State.setTrs
    simp [quality]
  rw [inflowOutcome_running (.inr diverting), runningOutcome_stays (stopsTrain_other (r := .stopped) nofun _), stays]
  simp only [Bool.false_eq_true, if_false]
  have effect : inflowEffect .stopped s.inflowGone = askNext passTries (s.setTrs { s.trs with inflow := none, ownStop := false }) := by
    unfold inflowEffect
    exact if_pos own
  rw [effect, askNext_held held]

/-- The state with the own-stop mark set (R157). -/
def State.ownStopped (s : State) : State := s.mapTrs fun t => { t with ownStop := true }

theorem stopInflow_claim {s : State} {c : Claim} {q : Nat} (inflow : s.trs.inflow = some q) (found : s.claimOf q = some c) :
    stopInflow s = endClaim c .stopped none s.ownStopped := by
  unfold stopInflow endSeq
  rw [inflow]
  dsimp only
  rw [show (s.mapTrs fun t => { t with ownStop := true }).claimOf q = some c from found]
  rfl

theorem stopInflow_none {s : State} (inflow : s.trs.inflow = none) : stopInflow s = s := by
  unfold stopInflow
  rw [inflow]

/-- The train's inflow claim, stopped by the train itself in a diversion, leaves the list and nothing more (R157). -/
theorem leaveList_ownStop {c : Claim} {s : State} (reason : c.endReason = .stopped) (creator : c.creator = .train)
    (target : c.target = .product) (inflow : s.trs.inflow = some c.sequence) (diverted : s.diverted = true)
    (own : s.trs.ownStop = true) : leaveList c s = (s.left c).setTrs { s.trs with inflow := none, ownStop := false } := by
  have trs := left_trs s c
  have diverted' : (s.left c).diverted = true := by
    unfold State.diverted at diverted ⊢
    rwa [trs]
  rw [leaveList_eq, reason, handOutcome_inflow creator target (trs.symm ▸ inflow), ← trs]
  exact inflowOutcome_ownStop diverted' (trs.symm ▸ own)

/-- A role commanded safe, its travel CLOSED or CLOSING, has nothing to close. -/
theorem closeRole_still {s : State} {r : Role} (safe : s.commandOf r = .safe) (h : s.travelOf r = .closed ∨ s.travelOf r = .closing) :
    closeRole r s = (s, []) := by
  cases valve : s.actWith r with
  | none => exact closeRole_none valve
  | some a =>
    obtain ⟨u, set, -⟩ := actWith_setup valve
    unfold State.commandOf at safe
    unfold State.travelOf at h
    rw [valve] at safe h
    rw [closeRole_eq valve, closeReq_still set safe h]

theorem closeValve_still {s : State} {c : Claim} (safe : s.commandOf (targetRole c.target) = .safe)
    (h : s.travelOf (targetRole c.target) = .closed ∨ s.travelOf (targetRole c.target) = .closing) (r : EndReason) :
    closeValve c r s = s.putClaim (c.closes r) :=
  congrArg Prod.fst (closeRole_still (s := s.putClaim (c.closes r)) safe h)

section

variable {s : State} {c : Claim} (creator : c.creator = .train) (target : c.target = .product)
  (inflow : s.trs.inflow = some c.sequence) (diverted : s.diverted = true)

include creator target inflow diverted

/-- DIVERT CLOSED under the FLOWING claim that the train stops (R94, R157). -/
theorem stopped_closed (safe : s.commandOf .divert = .safe) (closed : s.travelOf .divert = .closed) :
    (toClosing c .stopped s.ownStopped).cle = { s.cle with list := s.cle.list.filter fun x => x.sequence != c.sequence } ∧
      (toClosing c .stopped s.ownStopped).trs = { s.trs with inflow := none, ownStop := false } ∧
      s.offered (toClosing c .stopped s.ownStopped) (c.endsWith .stopped) := by
  have divert : targetRole c.target = .divert := by rw [target]; rfl
  have still : closeValve c .stopped s.ownStopped = s.ownStopped.putClaim (c.closes .stopped) :=
    closeValve_still (s := s.ownStopped) (by rw [divert]; exact safe) (.inl (by rw [divert]; exact closed)) .stopped
  have leaves : toClosing c .stopped s.ownStopped = leaveList (c.closes .stopped) (s.ownStopped.putClaim (c.closes .stopped)) := by
    rw [toClosing_eq, still, if_pos]
    rw [divert]
    exact closed
  rw [leaves, leaveList_ownStop (c := c.closes .stopped) (s := s.ownStopped.putClaim (c.closes .stopped)) rfl creator target inflow
    diverted rfl]
  refine ⟨(left_cle _ _).trans ?_, rfl, left_offered (s.ownStopped.putClaim (c.closes .stopped)) (c.closes .stopped)⟩
  exact congrArg (fun l => ({ s.cle with list := l } : Claims)) (putClaim_filter s (c.closes .stopped))

/-- The waiting claim that the train stops (R82, R157). -/
theorem stopped_waiting (waits : c.state = .pathing ∨ c.state = .asking) :
    (leaveList (c.ended .stopped none) s.ownStopped).cle =
        { s.cle with list := s.cle.list.filter fun x => x.sequence != c.sequence } ∧
      (leaveList (c.ended .stopped none) s.ownStopped).trs = { s.trs with inflow := none, ownStop := false } ∧
      (leaveList (c.ended .stopped none) s.ownStopped).act = s.act ∧
      s.offered (leaveList (c.ended .stopped none) s.ownStopped) c.withdraws ∧
      (s.port.ring.length < 32 → ⟨.claimEnd (c.ended .stopped none) c.state, s.bc.round, false⟩ ∈
        (leaveList (c.ended .stopped none) s.ownStopped).port.ring) := by
  have offered := left_offered s.ownStopped (c.ended .stopped none)
  rw [parting_ended waits] at offered
  obtain ⟨l, left, -⟩ := left_frame s.ownStopped (c.ended .stopped none)
  rw [leaveList_ownStop (c := c.ended .stopped none) (s := s.ownStopped) rfl creator target inflow diverted rfl]
  refine ⟨left_cle _ _, rfl, ?_, offered, fun room => ?_⟩
  · change (s.ownStopped.left (c.ended .stopped none)).act = s.act
    rw [left]
    rfl
  · have told := left_reported (s := s.ownStopped) room (c.ended .stopped none)
    rwa [show endedFrom (c.ended .stopped none).state = c.state from endedFrom_waits waits] at told

end

/-- DIVERT CLOSING under the FLOWING claim that the train stops: the claim waits for it (R94, R157). -/
theorem stopped_travelling {s : State} {c : Claim} (target : c.target = .product) (safe : s.commandOf .divert = .safe)
    (closing : s.travelOf .divert = .closing) : toClosing c .stopped s.ownStopped = s.ownStopped.putClaim (c.closes .stopped) := by
  have divert : targetRole c.target = .divert := by rw [target]; rfl
  have still : closeValve c .stopped s.ownStopped = s.ownStopped.putClaim (c.closes .stopped) :=
    closeValve_still (s := s.ownStopped) (by rw [divert]; exact safe) (.inr (by rw [divert]; exact closing)) .stopped
  rw [toClosing_eq, still, if_neg]
  rw [divert]
  change s.travelOf .divert ≠ .closed
  rw [closing]
  nofun

/-- Settles O48: the excursion of the marginal timer, the end of a diversion and the train's stop of a held claim. -/
theorem diversions : Obligations.Diversions := by
  refine fun rest s => ⟨fun n marginal due watching long still => ?_, fun n good due diverted long => ⟨fun other => ?_,
    fun flowing a valve u set => ?_⟩, fun due diverted long => ?_⟩
  · obtain ⟨-, state, cause, diversion, stopped, command, told⟩ := excursion_diverts (s := s.setDue rest) watching still
    obtain ⟨cle, none⟩ := excursion_rest (s := s.setDue rest) still
    exact ⟨_, by rw [exec_marginalTimeout due, marginalTimeout_excursion (s := s.setDue rest) watching marginal long], state, cause,
      diversion, stopped, none, command, cle, (excursion_works (.refl (s.setDue rest))).due, told⟩
  · obtain ⟨state, cause, act, held, told⟩ := divertAndAsk_frees (s.setDue rest)
    exact ⟨_, by rw [exec_goodQualityResume due, goodResume_other (s := s.setDue rest) diverted good long other], state, cause, act,
      held, (divertAndAsk_works (.refl (s.setDue rest))).due, told⟩
  · have resumes : exec .goodQualityResume s = .next (openDivert (s.setDue rest).resumed) := by
      rw [exec_goodQualityResume due, goodResume_flowing (s := s.setDue rest) diverted good long flowing]
      rfl
    have told := resumed_tells (s := s.setDue rest) diverted
    have left := resumed_due (s.setDue rest)
    refine ⟨fun yes => ?_, fun no undriven => ?_⟩
    · obtain ⟨state, drive⟩ := resumed_opens (s := s.setDue rest) valve set yes
      exact ⟨_, resumes, state, drive, left, told⟩
    · obtain ⟨state, cause, held, lost⟩ := resumed_denied (s := s.setDue rest) valve set no undriven
      exact ⟨_, resumes, state, cause, held, left, told, lost⟩
  · have limit : exec .diversionLimit s = .next (stopInflow (s.setDue rest)) := by
      rw [exec_diversionLimit due, diversionLimit_stops (s := s.setDue rest) diverted long]
    refine ⟨fun none => by rw [limit, stopInflow_none (s := s.setDue rest) none]; rfl,
      fun q inflow c found target creator safe => ?_⟩
    obtain rfl := claimOf_sequence found
    rw [stopInflow_claim (s := s.setDue rest) inflow found] at limit
    refine ⟨fun flowing closed => ?_, fun flowing closing => ?_, fun waits => ?_, fun closing => ?_⟩
    · rw [endClaim_flowing flowing] at limit
      obtain ⟨cle, trs, offered⟩ := stopped_closed (s := s.setDue rest) creator target inflow diverted safe closed
      exact ⟨_, limit, cle, trs, (toClosing_works (.refl (s.setDue rest).ownStopped) c .stopped).due, offered⟩
    · rw [endClaim_flowing flowing, stopped_travelling (s := s.setDue rest) target safe closing] at limit
      exact limit
    · rw [endClaim_waits waits] at limit
      obtain ⟨cle, trs, act, offered, told⟩ := stopped_waiting (s := s.setDue rest) creator target inflow diverted waits
      exact ⟨_, limit, cle, trs, act, (leaveList_works (.refl (s.setDue rest).ownStopped) _).due, offered, told⟩
    · rw [endClaim_closing closing] at limit
      exact limit

end Sys2Proof.Machine
end
